-- ==== Sys2Proof/Word.lean ====
section
/-! DEFINITION. The word types of the Jarit 4160 (R1, R80) and their plainest names. -/

namespace Sys2Proof

/-- A scalar register's contents, 64 bits (R29). -/
abbrev Word := BitVec 64
/-- A byte of memory (R1). -/
abbrev Byte := BitVec 8
/-- One vector register: lane `l`'s 512-bit share stands at bit `512 * l` (R79, R80). -/
abbrev VWord := BitVec 16384
/-- One mask register: bit `i` belongs to element `i` (R79). -/
abbrev MWord := BitVec 4096
/-- One lane's 4 KiB share of a function register (R127). -/
abbrev FWord := BitVec 32768

end Sys2Proof
end

