-- ==== Sys2Proof/Syntax.lean ====
section
/-! DEFINITION. The instructions and events of the Jarit 4160: one constructor of `Instr` for each row of the
opcode table (file 12 and file 95), with the operands that R284 to R291, R91, R140, R158 and R186 give them. An event
row has no encoding; its operands are what its agent chooses or brings from outside the machine. -/

namespace Sys2Proof

/-- A scalar register number x0 to x31. -/
abbrev Reg := Fin 32
/-- A vector register number v0 to v31. -/
abbrev VReg := Fin 32
/-- A mask register number m0 to m7. -/
abbrev MReg := Fin 8
/-- A function register number f0 to f7. -/
abbrev FReg := Fin 8

/-- The two slices of a strand (R52). -/
inductive Side | access | compute
  deriving DecidableEq, Repr

/-- Precision suffix .S or .D (R352). -/
inductive Prec | s | d
  deriving DecidableEq, Repr

/-- The memory spaces, in the code order of R173. -/
inductive Space | global | spad | shared | tcm
  deriving DecidableEq, Repr

/-- The scopes, in the code order of R206. -/
inductive Scope | strand | gang | squad | device | system
  deriving DecidableEq, Repr

/-- Size codes of the L and O layouts (R287): signed, then zero-extended. -/
inductive LdSize | b | h | w | d | bn | hn | wn
  deriving DecidableEq, Repr

/-- Size codes of stores (R287). -/
inductive StSize | b | h | w | d
  deriving DecidableEq, Repr

/-- Size of an atomic: .W or .S, and .D (R287). -/
inductive AtSize | w | d
  deriving DecidableEq, Repr

/-- The order field of the A layout (R287). -/
inductive Order
  | plain
  | acq (scope : Scope)
  | rel (scope : Scope)
  | ar (scope : Scope)
  deriving DecidableEq, Repr

/-- Access kinds of FENCE (R287). -/
inductive FenceKind | r | w | rw
  deriving DecidableEq, Repr

/-- Element widths, in the code order of R87. -/
inductive EWidth | e4 | e8 | e16 | e32 | e64
  deriving DecidableEq, Repr

/-- The operations of VAMO, in the order of the sub codes (R287). -/
inductive AmoOp | add | and | or | xor | min | max | minn | maxn | swp | fadd
  deriving DecidableEq, Repr

/-- cond of VCMP (R287). -/
inductive ICond | eq | ne | lt | le
  deriving DecidableEq, Repr

/-- cond of VFCMP (R287). -/
inductive FCond | eq | lt | le | un
  deriving DecidableEq, Repr

/-- The governing mask field (R91). -/
inductive Gov | none | m1 | m2 | m3
  deriving DecidableEq, Repr

/-- The second source of a V-layout instruction: the form and its field (R91, R92). -/
inductive Src2
  | vv (v : VReg)
  | vs (x : Reg)
  | vi (imm : BitVec 5)
  deriving DecidableEq, Repr

/-- Integer side of an FCVT code (R287). -/
inductive IntTy | w | wn | l | ln
  deriving DecidableEq, Repr

/-- The conversion code of FCVT (R355). -/
inductive CvtCode
  | sd                                -- 0: FCVT.S.D
  | ds                                -- 1: FCVT.D.S
  | toInt (t : IntTy) (f : Prec)      -- 2 to 9
  | ofInt (f : Prec) (t : IntTy)      -- 10 to 17
  deriving DecidableEq, Repr

/-- The mode of PMUL (R146). -/
inductive PMode | exact | proj | coll
  deriving DecidableEq, Repr

/-- The direction of PDIFF (R149). -/
inductive PDir | d1 | d2 | d3
  deriving DecidableEq, Repr

/-- R layout: two sources and a destination (R284). -/
structure R3 where
  rd : Reg
  rs1 : Reg
  rs2 : Reg
  deriving DecidableEq, Repr

/-- R layout: one source and a destination. -/
structure R2 where
  rd : Reg
  rs1 : Reg
  deriving DecidableEq, Repr

/-- I layout (R284). -/
structure IArgs where
  rd : Reg
  rs1 : Reg
  imm : BitVec 12
  deriving DecidableEq, Repr

/-- I layout of the immediate shifts (R285). -/
structure ShArgs where
  rd : Reg
  rs1 : Reg
  count : BitVec 6
  deriving DecidableEq, Repr

/-- U and J layouts (R284). -/
structure UArgs where
  rd : Reg
  imm : BitVec 19
  deriving DecidableEq, Repr

/-- B layout (R284). -/
structure BArgs where
  rs1 : Reg
  rs2 : Reg
  off : BitVec 11
  deriving DecidableEq, Repr

/-- B layout of the mask branches (R288). -/
structure MBArgs where
  md : MReg
  off : BitVec 11
  deriving DecidableEq, Repr

/-- L layout (R284). -/
structure LArgs where
  size : LdSize
  space : Space
  rd : Reg
  rs1 : Reg
  imm : BitVec 9
  deriving DecidableEq, Repr

/-- S layout (R284). -/
structure SArgs where
  size : StSize
  space : Space
  rs1 : Reg
  rs2 : Reg
  imm : BitVec 9
  deriving DecidableEq, Repr

/-- O layout, LD.ACQ (R361). -/
structure LAcqArgs where
  size : LdSize
  scope : Scope
  space : Space
  rd : Reg
  rs1 : Reg
  deriving DecidableEq, Repr

/-- O layout, ST.REL (R403). -/
structure SRelArgs where
  size : StSize
  scope : Scope
  space : Space
  rs1 : Reg
  rs2 : Reg
  deriving DecidableEq, Repr

/-- A layout (R284, R329). -/
structure AArgs where
  order : Order
  space : Space
  size : AtSize
  rd : Reg
  rs1 : Reg
  rs2 : Reg
  deriving DecidableEq, Repr

/-- AMOFADD.DET: xd and order are zero (R287). -/
structure ADetArgs where
  space : Space
  size : AtSize
  rs1 : Reg
  rs2 : Reg
  deriving DecidableEq, Repr

/-- Scalar floating point, two sources (R353). -/
structure F3 where
  p : Prec
  rd : Reg
  rs1 : Reg
  rs2 : Reg
  deriving DecidableEq, Repr

/-- Scalar floating point, one source (R353). -/
structure F2 where
  p : Prec
  rd : Reg
  rs1 : Reg
  deriving DecidableEq, Repr

/-- FFMA (R353). -/
structure F4 where
  p : Prec
  rd : Reg
  rs1 : Reg
  rs2 : Reg
  rs3 : Reg
  deriving DecidableEq, Repr

/-- K layout, BARINIT (R339). -/
structure KArgs where
  rd : Reg
  b : BitVec 9
  xs : Reg
  deriving DecidableEq, Repr

/-- V layout with a second source (R91). -/
structure VArgs where
  fmt : Fin 8
  gov : Gov
  src2 : Src2
  vs1 : VReg
  vd : VReg
  deriving DecidableEq, Repr

/-- V layout, VV form with vs2 zero (VFSQRT, VFCVT, VCOMPRESS, VEXPAND). -/
structure VUArgs where
  fmt : Fin 8
  gov : Gov
  vs1 : VReg
  vd : VReg
  deriving DecidableEq, Repr

/-- VCMP (R430). -/
structure VCmpArgs where
  fmt : Fin 8
  gov : Gov
  src2 : Src2
  vs1 : VReg
  cond : ICond
  md : MReg
  deriving DecidableEq, Repr

/-- VFCMP (R430). -/
structure VFCmpArgs where
  fmt : Fin 8
  gov : Gov
  src2 : Src2
  vs1 : VReg
  cond : FCond
  md : MReg
  deriving DecidableEq, Repr

/-- VMV: the vs1 field is zero (R431). -/
structure VMvArgs where
  fmt : Fin 8
  gov : Gov
  src2 : Src2
  vd : VReg
  deriving DecidableEq, Repr

/-- VIOTA (R429). -/
structure VIotaArgs where
  fmt : Fin 8
  gov : Gov
  src2 : Src2
  ms : MReg
  vd : VReg
  deriving DecidableEq, Repr

/-- Binary mask instruction (R429). -/
structure MMArgs where
  md : MReg
  ms1 : MReg
  ms2 : MReg
  deriving DecidableEq, Repr

/-- VPOPC and VFIRST (R429). -/
structure MXArgs where
  gov : Gov
  rd : Reg
  ms : MReg
  deriving DecidableEq, Repr

/-- VBRKB and VBRKA (R429). -/
structure MGArgs where
  gov : Gov
  md : MReg
  ms : MReg
  deriving DecidableEq, Repr

/-- VBMAND and VISECT: VV only, unmasked (R427). -/
structure SpArgs where
  fmt : Fin 8
  vd : VReg
  vs1 : VReg
  vs2 : VReg
  deriving DecidableEq, Repr

/-- VBPREFIX (R427). -/
structure VPrefArgs where
  fmt : Fin 8
  vd : VReg
  vs1 : VReg
  xs : Reg
  deriving DecidableEq, Repr

/-- VHACC: the table offset register stands in [12:8] (R427). -/
structure VHaccArgs where
  fmt : Fin 8
  vs1 : VReg
  vs2 : VReg
  xs : Reg
  deriving DecidableEq, Repr

/-- VPRUNE (R427). -/
structure VPruneArgs where
  fmt : Fin 8
  vd : VReg
  vs : VReg
  deriving DecidableEq, Repr

/-- VWAIT; a scope of none is scope code 0 (R447). STRAND never appears (R284). -/
structure VWaitArgs where
  scope : Option Scope
  gov : Gov
  md : MReg
  vs1 : VReg
  vs2 : VReg
  xs : Reg
  deriving DecidableEq, Repr

/-- P layout, windowed, with one function source and a scalar vector (PSCL). -/
structure PSclArgs where
  gov : Gov
  fd : FReg
  fs1 : FReg
  vs : VReg
  xs : Reg
  deriving DecidableEq, Repr

/-- P layout, windowed, with two function sources (PAXPY, PJUMP, PAVG). -/
structure PWinArgs where
  gov : Gov
  fd : FReg
  fs1 : FReg
  fs2 : FReg
  vs : VReg
  xs : Reg
  deriving DecidableEq, Repr

/-- PINT and PEVAL (R141). -/
structure PVecArgs where
  gov : Gov
  vd : VReg
  fs1 : FReg
  xs : Reg
  deriving DecidableEq, Repr

/-- P layout with two function sources (PADD, PSUB, PMUL). -/
structure P3 where
  fd : FReg
  fs1 : FReg
  fs2 : FReg
  deriving DecidableEq, Repr

/-- Matrix instruction with two scalar operands (R158). -/
structure MatArgs where
  n : Fin 16
  xs1 : Reg
  xs2 : Reg
  fmt : Fin 8
  deriving DecidableEq, Repr

/-- MMA (R158). -/
structure MmaArgs where
  acc : Fin 16
  panel : Fin 16
  vs : VReg
  fmt : Fin 8
  deriving DecidableEq, Repr

/-- Memory tiers, in the code order of R178. -/
inductive Tier | hbm | lpddr | host | remote
  deriving DecidableEq, Repr

/-- BAR0 registers that have no row of their own in the opcode table (R280, R231). -/
inductive Bar0Reg
  | devstat | reset | rtvec | savebase
  | lqbase (q : Fin 64) | lqhead (q : Fin 64) | lqptbr (q : Fin 64) | lqctl (q : Fin 64)
  | eqbase | eqtail
  | portstat (p : Fin 128) | portturns (p : Fin 128) | portrply (p : Fin 128)
  deriving DecidableEq, Repr

/-- Where SQUAD_PLACE puts one strand: core pair and first lane (R20, R32). -/
structure StrandPlace where
  pair : Fin 8
  lane0 : Fin 32
  deriving DecidableEq, Repr

/-- Where SQUAD_PLACE puts one gang (R32): cluster of the die, and the first of the names that its scratchpad pages get (log 58). -/
structure GangPlace where
  cluster : Fin 40
  spadPage : Fin 4096
  strands : List StrandPlace
  deriving DecidableEq, Repr

/-- A flit of R234. -/
structure Flit where
  typ : BitVec 8
  flags : BitVec 8
  src : BitVec 16
  dst : BitVec 16
  len : BitVec 16
  seq : BitVec 32
  mark : BitVec 32
  addr : BitVec 64
  opx : BitVec 32
  payload : List Byte
  crc : BitVec 32
  deriving DecidableEq, Repr

/-- A data flit as a port receives it: the slot of the window that carries it (R227, R238). -/
structure Arrival where
  slot : Fin 2048
  flit : Flit
  deriving DecidableEq, Repr

/-- A turn-start flit of R236. -/
structure TurnFlit where
  locked : Bool
  sender : BitVec 16
  turn : BitVec 8
  port : BitVec 8
  actmask : BitVec 16
  classes : List (BitVec 2)
  crc : BitVec 32
  deriving DecidableEq, Repr

/-- Device-fatal errors, in the order of R273. -/
inductive FatalCause | thermal | ucie | internalState | watchdog
  deriving DecidableEq, Repr

/-- What fuse read finds of one vector unit: its faulty physical lanes out of 34, and whether every lane presents all 32 vector
registers (R7, R8). -/
structure LaneFuses where
  cluster : Fin 160
  faulty : BitVec 34
  allRegs : Bool
  deriving DecidableEq, Repr

/-- Storage of a strand that an uncorrectable error can strike beside memory (R272): a scalar register, one of the supervisor bank when
`super` holds; a vector, mask or function register by its number in VDIRTY (R269); a queue; 64 bytes of a TCM. -/
inductive LostPart
  | reg (side : Side) (super : Bool) (r : Reg)
  | vec (n : Fin 48)
  | ldq | sdq | aq | cq | viq
  | tcm (side : Side) (line : Fin 1024)
  deriving DecidableEq, Repr

/-- A TRAP_ENTRY: its strand, and the storage that a slice finds lost, where the event brings such an error (R272). -/
structure TrapEvent where
  strand : Nat
  lost : Option LostPart
  deriving DecidableEq, Repr

/-- A host write's size in bytes, and which of its bytes it enables. -/
structure WriteBytes where
  size : Fin 9
  enables : BitVec 8
  deriving DecidableEq, Repr

/-- A stored fabric image: FABCFG, calendar entries and the ports to enable, in the layouts of R229 to R231 (R274). -/
structure FabricImage where
  cfg : Word
  cal : List (Fin 1024 × BitVec 16)
  ports : BitVec 128
  deriving DecidableEq, Repr

/-- What a cold or warm start meets outside the machine (R274, R275). -/
structure StartInputs where
  celsius : Vector Nat 5           -- the dies' temperatures at a cold start
  fuseOk : Bool                    -- fuse read ends well
  fuses : List LaneFuses           -- vector units with faults
  badImages : List (BitVec 256)    -- firmware images whose SM3 hash or SM2 signature does not verify
  link0 : BitVec 4                 -- L0STATE after training
  link1 : BitVec 4
  memFail : Option (BitVec 4)      -- failing stack or channel
  lit : Vector (BitVec 16) 128     -- wavelengths that lock and calibrate
  trims : BitVec 256               -- what training finds
  trimsRead : BitVec 256           -- what the saved trims read as (R275)
  fabric : Option FabricImage      -- the firmware's stored fabric image
  clearOk : Bool                   -- the memory clear ends well
  deriving DecidableEq, Repr

/-- A host access through BAR2 (R13, R213): bytes with a clear enable are none. -/
structure Bar2Access where
  link : Fin 2
  tier : Tier
  pa : Nat
  write : Option (List (Option Byte))   -- none is a read
  len : Nat
  deriving DecidableEq, Repr

/-- A PCI Express completion for the host tier (R333). -/
structure HostReply where
  id : Nat
  ok : Bool
  data : List Byte
  deriving DecidableEq, Repr

/-- The instructions and events of the Jarit 4160. -/
inductive Instr
  -- integer, major 0x00 and 0x01 (R325 to R328, R366, R374, R396, R400, R402, R407, R449)
  | add (a : R3) | sub (a : R3) | mul (a : R3) | mulh (a : R3) | mulhn (a : R3)
  | div (a : R3) | divn (a : R3) | rem (a : R3) | remn (a : R3)
  | and (a : R3) | or (a : R3) | xor (a : R3) | sll (a : R3) | srl (a : R3) | sra (a : R3)
  | slt (a : R3) | sltn (a : R3) | min (a : R3) | max (a : R3) | minn (a : R3) | maxn (a : R3)
  | clz (a : R2) | ctz (a : R2) | popc (a : R2) | bext (a : R3) | bins (a : R3)
  -- immediates
  | addi (a : IArgs) | andi (a : IArgs) | ori (a : IArgs) | xori (a : IArgs)
  | slti (a : IArgs) | sltin (a : IArgs) | jalr (a : IArgs)
  | slli (a : ShArgs) | srli (a : ShArgs) | srai (a : ShArgs)
  | lui (a : UArgs) | auipc (a : UArgs) | jal (a : UArgs)
  -- branches
  | beq (a : BArgs) | bne (a : BArgs) | blt (a : BArgs) | bge (a : BArgs) | bltn (a : BArgs) | bgen (a : BArgs)
  | bany (a : MBArgs) | ball (a : MBArgs) | bnone (a : MBArgs)
  | bqz (off : BitVec 11) | bqnz (off : BitVec 11)
  -- scalar memory
  | ld (a : LArgs) | st (a : SArgs) | ldAcq (a : LAcqArgs) | stRel (a : SRelArgs)
  | amoadd (a : AArgs) | amoand (a : AArgs) | amoor (a : AArgs) | amoxor (a : AArgs)
  | amomin (a : AArgs) | amomax (a : AArgs) | amoswp (a : AArgs) | cas (a : AArgs)
  | amofadd (a : AArgs) | amofaddDet (a : ADetArgs)
  -- scalar floating point
  | fadd (a : F3) | fsub (a : F3) | fmul (a : F3) | fdiv (a : F3) | fsqrt (a : F2) | ffma (a : F4)
  | fmin (a : F3) | fmax (a : F3) | fcmpEq (a : F3) | fcmpLt (a : F3) | fcmpLe (a : F3)
  | fclass (a : F2) | fcvt (code : CvtCode) (a : R2)
  -- system
  | mfs (rd : Reg) (reg : BitVec 12) | mts (reg : BitVec 12) (rs1 : Reg) | trap (imm : BitVec 12)
  | nop | halt | tack | tret | convoy | svfence | vlsync
  | fence (scope : Scope) (pred succ : FenceKind) | ltrig (scope : Scope)
  | vfork (a : R3) | join (xs : Reg) | seal (a : R3) | vsave (xs : Reg) | vrestore (xs : Reg)
  -- queues
  | apush (xs : Reg) | apop (rd : Reg) | cpush (xs : Reg) | cpop (rd : Reg)
  | vpush (vs : VReg) | vpop (vd : VReg) | slipReg (xs : Reg) | slipImm (imm : BitVec 4)
  | vsetlQ (rd : Reg) | vsetl (w : EWidth) (rd : Reg) (xs : Reg)
  | mtsetGlobal | mtsetSpad | mtsetShared | mtsetTcm
  -- barriers
  | barinit (a : KArgs) | barArrive (b : BitVec 9) | barSync (b : BitVec 9)
  | barinitSq (a : KArgs) | barArriveSq (b : BitVec 9) | barSyncSq (b : BitVec 9)
  -- vector memory
  | vle (rs1 : Reg) | vls (rs1 rs2 : Reg) | vlx (rs1 : Reg) | vlff (rs1 : Reg) | vlb (rs1 rs2 : Reg)
  | vse (rs1 : Reg) | vss (rs1 rs2 : Reg) | vsx (rs1 : Reg) | vsb (rs1 rs2 : Reg)
  | vamo (op : AmoOp) (rs1 : Reg)
  -- vector integer
  | vadd (a : VArgs) | vsub (a : VArgs) | vmul (a : VArgs) | vmulh (a : VArgs) | vdiv (a : VArgs) | vrem (a : VArgs)
  | vmin (a : VArgs) | vmax (a : VArgs) | vand (a : VArgs) | vor (a : VArgs) | vxor (a : VArgs)
  | vsll (a : VArgs) | vsrl (a : VArgs) | vsra (a : VArgs)
  -- vector floating point
  | vfadd (a : VArgs) | vfsub (a : VArgs) | vfmul (a : VArgs) | vfdiv (a : VArgs)
  | vfma (a : VArgs) | vfms (a : VArgs) | vfnma (a : VArgs) | vfsqrt (a : VUArgs)
  | vfmin (a : VArgs) | vfmax (a : VArgs) | vfcvt (a : VUArgs) | vwma (a : VArgs)
  | vwait (a : VWaitArgs)
  -- function instructions
  | pmov (fd fs1 : FReg) | pzero (fd : FReg) | padd (a : P3) | psub (a : P3) | pmul (mode : PMode) (a : P3)
  | pdiff (dir : PDir) (fd fs1 : FReg) | pproj (fd fs1 : FReg) (q : BitVec 4) | ptrace (fd fs1 : FReg) (face : BitVec 3)
  | pscl (a : PSclArgs) | paxpy (a : PWinArgs) | pint (a : PVecArgs) | peval (a : PVecArgs)
  | pjump (a : PWinArgs) | pavg (a : PWinArgs) | ppop (fd : FReg) (xs : Reg) | ppush (fs1 : FReg) (xs : Reg)
  | pset (fd : FReg) (xs : Reg) | psetDg (fd : FReg) (xs : Reg) | pget (rd : Reg) (fs1 : FReg) | pgetDg (rd : Reg) (fs1 : FReg)
  -- vector comparison, movement, reduction, mask
  | vcmp (a : VCmpArgs) | vfcmp (a : VFCmpArgs) | vmerge (a : VArgs) | vmv (a : VMvArgs)
  | vslideup (a : VArgs) | vslidedn (a : VArgs) | vperm (a : VArgs) | vcompress (a : VUArgs) | vexpand (a : VUArgs)
  | viota (a : VIotaArgs) | vpruneN4M8 (a : VPruneArgs)
  | vredsum (a : VArgs) | vredmin (a : VArgs) | vredmax (a : VArgs) | vscan (a : VArgs)
  | vfredsum (a : VArgs) | vfredmin (a : VArgs) | vfredmax (a : VArgs) | vfscan (a : VArgs)
  | vmand (a : MMArgs) | vmor (a : MMArgs) | vmxor (a : MMArgs) | vmandn (a : MMArgs) | vmnot (md ms : MReg)
  | vpopc (a : MXArgs) | vfirst (a : MXArgs) | vbrkb (a : MGArgs) | vbrka (a : MGArgs)
  | vbmand (a : SpArgs) | vbprefix (a : VPrefArgs) | visect (a : SpArgs) | vhacc (a : VHaccArgs)
  | vpruneN1M4 (a : VPruneArgs) | vpruneN2M4 (a : VPruneArgs) | vpruneN1M8 (a : VPruneArgs) | vpruneN2M8 (a : VPruneArgs)
  -- 16-bit forms (R291)
  | hAddi (rd : Reg) (imm : BitVec 7) | hSeti (rd : Reg) (imm : BitVec 7) | hCopy (rd xs : Reg) | hAdd (rd xs : Reg)
  | hBz (rs1 : Reg) (off : BitVec 7) | hBnz (rs1 : Reg) (off : BitVec 7)
  -- 64-bit forms (R158, R186)
  | mldb (a : MatArgs) | mldbP (a : MatArgs) | mma (a : MmaArgs) | mzero (acc : Fin 16) (fmt : Fin 8)
  | mst (a : MatArgs) | mldacc (a : MatArgs)
  | ecopy (rd xs1 : Reg) | equant (rd xs1 : Reg) | epack (rd xs1 : Reg) | eunpack (rd xs1 : Reg)
  | eseq (rd : Reg) | evpop (rd xs1 : Reg)
  -- host and hub events (files 02, 11)
  | lqtailWrite (q : Fin 64) (v : Word) | lqsizeWrite (q : Fin 64) (v : Word) | eqsizeWrite (v : Word)
  | eqheadWrite (v : Word) | eqctlWrite (v : Word) | registerWrite (r : Bar0Reg) (v : Word)
  | packetCheck (q : Fin 64) | launchDispatch
  | squadPlace (lid : BitVec 32) (die : Fin 4) (gangs : List GangPlace)
  | launchComplete (lid : BitVec 32)
  -- unit events
  | arbiterGrant (strand : Nat) (matrixUnit : Bool) | arrivalMarkerFire (strand : Nat) | convoyMarkerFire (strand : Nat)
  | queueDeadlockTimeout (strand : Nat) | computeStopTimeout (strand : Nat) | ldqSlotFull (strand : Nat)
  | vwaitRecheck (strand : Nat) | vwaitTimeout (strand : Nat) | detAddWaitTimeout (strand : Nat)
  | trapEntry (e : TrapEvent)
  -- pre-emption (R266, R278): the whole value written to PREEMPTCTL
  | preemptGo (v : Word) | preemptResume (v : Word) | launchAbort (v : Word) | preemptErrClear (v : Word)
  | squadSave (lid : BitVec 32) (squad : Nat) | switchIn (strand : Nat)
  | deviceFatal (cause : FatalCause) | hubWatchdogExpiry
  | thermalLimit (die : Fin 5) (celsius : Nat) (lanes : Fin 33) (rate : Fin 17)
  | powerSample (milliwatt : Nat) (lanes : Fin 33) (rate : Fin 17)
  | grantUpdate (cluster : Fin 160) | grantOverrunThrottle (strand : Nat)
  | coldStart (i : StartInputs) | warmStart (i : StartInputs) | firmwareUpdate (image : BitVec 256)
  | pldmMonitor | attestationReport (nonce : BitVec 256) | hostBar2Access (a : Bar2Access)
  | engineCommandEnd (cluster : Fin 160) (seq : Nat) (memErr : Bool)
  | scrub (tier : Tier) (pa : Nat) (ok : Bool) | dramRefresh | opticalCalibration | telemetry
  -- fabric (file 10)
  | fabcfgWrite (v : Word) | calWrite (offset : Fin 2048) (bytes : WriteBytes) (v : Word)
  | portctlEn (p : Fin 128) (en : Bool) | portctlRearm (p : Fin 128)
  | turnStart (p : Fin 128) | turnstart (p : Fin 128) (f : TurnFlit) | lockLoss (p : Fin 128)
  | flitSend (p : Fin 128) | windowEnd (p : Fin 128) (acked : List Bool)
  | write (p : Fin 128) (f : Arrival) | rdreq (p : Fin 128) (f : Arrival) | rdreply (p : Fin 128) (f : Arrival)
  | atomic (p : Fin 128) (f : Arrival) | atreply (p : Fin 128) (f : Arrival)
  | vecreq (p : Fin 128) (f : Arrival) | vecreply (p : Fin 128) (f : Arrival) | relmark (p : Fin 128) (f : Arrival)
  | pack (p : Fin 128) (f : Arrival) | notice (p : Fin 128) (f : Arrival)
  | deliveryTimeout (dst : BitVec 16) (cls : BitVec 2) (seq : BitVec 32) | relayTimeout (i : Nat)
  | laserLoss (p : Fin 128) (mask : BitVec 16) | rxLossDetect (p : Fin 128) (mask : BitVec 16)
  | lossReportReceive (p : Fin 128) (mask : BitVec 16)
  -- memory events
  | accessPerformed (strand : Nat) (i : Nat) | writeBack (i : Nat) (ok : Bool) | matrixInstructionEnd (strand : Nat)
  | lightReturn (p : Fin 128) (mask : BitVec 16) | coolantFlowChange (flowing : Bool) | pcieCompletion (r : HostReply)
  deriving DecidableEq, Repr

end Sys2Proof
end

