-- ==== Sys2Proof/WellFormed.lean ====
section
/-! DEFINITION. Well-formed instructions: operands that the encoding tables admit where the operand types of
`Instr` admit more (R39, R63, R141, R287, R291). -/

namespace Sys2Proof

/-- Is this row an encoded instruction (R283), and not an operation of the hub, the host, the memory or the fabric? -/
def Instr.isEncoded : Instr → Bool
  | .lqtailWrite .. | .lqsizeWrite .. | .eqsizeWrite .. | .eqheadWrite .. | .eqctlWrite .. | .registerWrite ..
  | .packetCheck .. | .launchDispatch | .squadPlace .. | .launchComplete .. | .arbiterGrant .. | .arrivalMarkerFire ..
  | .convoyMarkerFire .. | .queueDeadlockTimeout .. | .computeStopTimeout .. | .ldqSlotFull .. | .vwaitRecheck ..
  | .vwaitTimeout .. | .detAddWaitTimeout .. | .trapEntry .. | .preemptGo .. | .preemptResume .. | .launchAbort ..
  | .preemptErrClear .. | .squadSave .. | .switchIn .. | .deviceFatal .. | .hubWatchdogExpiry | .thermalLimit ..
  | .powerSample .. | .grantUpdate .. | .grantOverrunThrottle .. | .coldStart .. | .warmStart .. | .firmwareUpdate ..
  | .pldmMonitor | .attestationReport .. | .hostBar2Access .. | .engineCommandEnd .. | .scrub .. | .dramRefresh
  | .opticalCalibration | .telemetry | .fabcfgWrite .. | .calWrite .. | .portctlEn .. | .portctlRearm .. | .turnStart ..
  | .turnstart .. | .lockLoss .. | .flitSend .. | .windowEnd .. | .write .. | .rdreq .. | .rdreply .. | .atomic ..
  | .atreply .. | .vecreq .. | .vecreply .. | .relmark .. | .pack .. | .notice .. | .deliveryTimeout .. | .relayTimeout ..
  | .laserLoss .. | .rxLossDetect .. | .lossReportReceive .. | .accessPerformed .. | .writeBack ..
  | .matrixInstructionEnd .. | .lightReturn .. | .coolantFlowChange .. | .pcieCompletion .. => false
  | _ => true

/-- Well-formed instructions. -/
def Instr.wellFormed : Instr → Bool
  | .ltrig s => s = .device || s = .system
  | .slipImm n => decide (1 ≤ n.toNat ∧ n.toNat ≤ 8)
  | .barinitSq a => decide (a.b.toNat < 64)
  | .barArriveSq b | .barSyncSq b => decide (b.toNat < 64)
  | .vwait a => a.scope ≠ some .strand
  | .ptrace _ _ face => decide (face.toNat < 6)
  | .hAddi rd _ | .hSeti rd _ | .hCopy rd _ | .hAdd rd _ => rd ≠ 0
  | _ => true

end Sys2Proof
end

