-- ==== Sys2Proof/Decode.lean ====
section
/-! DEFINITION. The decoder of R281 to R291, R91, R140, R158 and R186, total on any bytes and rejecting by name, and
after it the encoder written from the same tables. Words are natural numbers, so that a field is a quotient and a
remainder. -/

namespace Sys2Proof

/-- Why bytes are no instruction. Each of these traps ILLEGAL (R282); `short` only says that bytes are missing. -/
inductive Reject
  /-- A cell that file 12 does not assign (R282, R286, R290, R291). -/
  | opcode
  /-- A field that must be zero is not zero (R282). -/
  | field
  /-- A coded field holds a value marked ILLEGAL (R287). -/
  | code
  /-- Fewer bytes than the first halfword asks for (R281). -/
  | short
  deriving DecidableEq, Repr

/-- Bits `[lo + n - 1 : lo]` of a word. -/
def bits (w lo n : Nat) : Nat := w / 2 ^ lo % 2 ^ n

/-- A five-bit register field. -/
def reg (w lo : Nat) : Fin 32 := Fin.ofNat 32 (bits w lo 5)
/-- A three-bit register field. -/
def reg3 (w lo : Nat) : Fin 8 := Fin.ofNat 8 (bits w lo 3)
/-- A four-bit number field. -/
def num4 (w lo : Nat) : Fin 16 := Fin.ofNat 16 (bits w lo 4)

/-- Reject unless the field is zero. -/
def zero (n : Nat) (r : Except Reject Instr) : Except Reject Instr := if n = 0 then r else .error .field
/-- Reject a coded field that has no meaning. -/
def coded {α : Type} (o : Option α) (k : α → Except Reject Instr) : Except Reject Instr :=
  match o with
  | some a => k a
  | none => .error .code

/-! Coded fields (R91, R173, R206, R287, R355). -/

def Space.ofCode (n : Nat) : Space := match n with | 0 => .global | 1 => .spad | 2 => .shared | _ => .tcm
def Space.code : Space → Nat | .global => 0 | .spad => 1 | .shared => 2 | .tcm => 3
def Scope.ofCode (n : Nat) : Option Scope :=
  match n with | 0 => some .strand | 1 => some .gang | 2 => some .squad | 3 => some .device | 4 => some .system | _ => none
def Scope.code : Scope → Nat | .strand => 0 | .gang => 1 | .squad => 2 | .device => 3 | .system => 4
def LdSize.ofCode (n : Nat) : Option LdSize :=
  match n with
  | 0 => some .b | 1 => some .h | 2 => some .w | 3 => some .d | 4 => some .bn | 5 => some .hn | 6 => some .wn | _ => none
def LdSize.code : LdSize → Nat | .b => 0 | .h => 1 | .w => 2 | .d => 3 | .bn => 4 | .hn => 5 | .wn => 6
def StSize.ofCode (n : Nat) : Option StSize := match n with | 0 => some .b | 1 => some .h | 2 => some .w | 3 => some .d | _ => none
def StSize.code : StSize → Nat | .b => 0 | .h => 1 | .w => 2 | .d => 3
def AtSize.ofCode (n : Nat) : AtSize := match n with | 0 => .w | _ => .d
def AtSize.code : AtSize → Nat | .w => 0 | .d => 1
/-- The order field of the A layout: the scope code is the value minus 1, 6 or 11 (R287). -/
def Order.ofCode (n : Nat) : Order :=
  match n with
  | 0 => .plain
  | 1 => .acq .strand | 2 => .acq .gang | 3 => .acq .squad | 4 => .acq .device | 5 => .acq .system
  | 6 => .rel .strand | 7 => .rel .gang | 8 => .rel .squad | 9 => .rel .device | 10 => .rel .system
  | 11 => .ar .strand | 12 => .ar .gang | 13 => .ar .squad | 14 => .ar .device | _ => .ar .system
def Order.code : Order → Nat
  | .plain => 0
  | .acq s => s.code + 1
  | .rel s => s.code + 6
  | .ar s => s.code + 11
def FenceKind.ofCode (n : Nat) : Option FenceKind := match n with | 1 => some .r | 2 => some .w | 3 => some .rw | _ => none
def FenceKind.code : FenceKind → Nat | .r => 1 | .w => 2 | .rw => 3
def EWidth.ofCode (n : Nat) : Option EWidth :=
  match n with | 0 => some .e4 | 1 => some .e8 | 2 => some .e16 | 3 => some .e32 | 4 => some .e64 | _ => none
def EWidth.code : EWidth → Nat | .e4 => 0 | .e8 => 1 | .e16 => 2 | .e32 => 3 | .e64 => 4
def AmoOp.ofCode (n : Nat) : Option AmoOp :=
  match n with
  | 0 => some .add | 1 => some .and | 2 => some .or | 3 => some .xor | 4 => some .min | 5 => some .max
  | 6 => some .minn | 7 => some .maxn | 8 => some .swp | 9 => some .fadd | _ => none
def AmoOp.code : AmoOp → Nat
  | .add => 0 | .and => 1 | .or => 2 | .xor => 3 | .min => 4 | .max => 5 | .minn => 6 | .maxn => 7 | .swp => 8 | .fadd => 9
def ICond.ofCode (n : Nat) : ICond := match n with | 0 => .eq | 1 => .ne | 2 => .lt | _ => .le
def ICond.code : ICond → Nat | .eq => 0 | .ne => 1 | .lt => 2 | .le => 3
def FCond.ofCode (n : Nat) : FCond := match n with | 0 => .eq | 1 => .lt | 2 => .le | _ => .un
def FCond.code : FCond → Nat | .eq => 0 | .lt => 1 | .le => 2 | .un => 3
def Gov.ofCode (n : Nat) : Gov := match n with | 0 => .none | 1 => .m1 | 2 => .m2 | _ => .m3
def Gov.code : Gov → Nat | .none => 0 | .m1 => 1 | .m2 => 2 | .m3 => 3
def Prec.ofCode (n : Nat) : Prec := match n with | 0 => .s | _ => .d
def Prec.code : Prec → Nat | .s => 0 | .d => 1
def IntTy.ofCode (n : Nat) : IntTy := match n with | 0 => .w | 1 => .wn | 2 => .l | _ => .ln
def IntTy.code : IntTy → Nat | .w => 0 | .wn => 1 | .l => 2 | .ln => 3
def PMode.ofCode (n : Nat) : Option PMode := match n with | 0 => some .exact | 1 => some .proj | 2 => some .coll | _ => none
def PMode.code : PMode → Nat | .exact => 0 | .proj => 1 | .coll => 2
def PDir.ofCode (n : Nat) : Option PDir := match n with | 0 => some .d1 | 1 => some .d2 | 2 => some .d3 | _ => none
def PDir.code : PDir → Nat | .d1 => 0 | .d2 => 1 | .d3 => 2
/-- The FCVT conversion code (R287): codes 2 to 9 give integers, 10 to 17 take them. -/
def CvtCode.ofCode (n : Nat) : Option CvtCode :=
  if n = 0 then some .sd
  else if n = 1 then some .ds
  else if n < 10 then some (.toInt (IntTy.ofCode ((n - 2) / 2)) (Prec.ofCode (n % 2)))
  else if n < 18 then some (.ofInt (Prec.ofCode (n % 2)) (IntTy.ofCode ((n - 10) / 2)))
  else none
def CvtCode.code : CvtCode → Nat
  | .sd => 0
  | .ds => 1
  | .toInt t f => 2 + 2 * t.code + f.code
  | .ofInt f t => 10 + 2 * t.code + f.code
/-- The scope of VWAIT: 0 is no scope, never STRAND (R287). -/
def VWaitArgs.scopeOfCode (n : Nat) : Option (Option Scope) :=
  match n with
  | 0 => some none | 1 => some (some .gang) | 2 => some (some .squad) | 3 => some (some .device) | 4 => some (some .system)
  | _ => none
def VWaitArgs.scopeCode (s : Option Scope) : Nat := match s with | none => 0 | some s => s.code
/-- The form field and the second source of the V layout (R91, R92). -/
def Src2.ofCode (form src : Nat) : Option Src2 :=
  match form with
  | 0 => some (.vv (Fin.ofNat 32 src))
  | 1 => some (.vs (Fin.ofNat 32 src))
  | 2 => some (.vi (BitVec.ofNat 5 src))
  | _ => none
def Src2.form : Src2 → Nat | .vv _ => 0 | .vs _ => 1 | .vi _ => 2
def Src2.field : Src2 → Nat | .vv v => v.val | .vs x => x.val | .vi i => i.toNat

/-! The layouts of R284, R91 and R140, taken apart. -/

def decR (w : Nat) (k : R3 → Instr) : Except Reject Instr := zero (bits w 27 5) (.ok (k ⟨reg w 8, reg w 13, reg w 18⟩))
def decR1 (w : Nat) (k : R2 → Instr) : Except Reject Instr :=
  zero (bits w 27 5) (zero (bits w 18 5) (.ok (k ⟨reg w 8, reg w 13⟩)))
def decI (w : Nat) (k : IArgs → Instr) : Except Reject Instr := .ok (k ⟨reg w 8, reg w 13, BitVec.ofNat 12 (bits w 20 12)⟩)
def decSh (w : Nat) (k : ShArgs → Instr) : Except Reject Instr :=
  zero (bits w 26 6) (.ok (k ⟨reg w 8, reg w 13, BitVec.ofNat 6 (bits w 20 6)⟩))
def decU (w : Nat) (k : UArgs → Instr) : Except Reject Instr := .ok (k ⟨reg w 8, BitVec.ofNat 19 (bits w 13 19)⟩)
/-- The offset of the B layout, [31:26] above [12:8]. -/
def bOff (w : Nat) : BitVec 11 := BitVec.ofNat 11 (bits w 26 6 * 32 + bits w 8 5)
def decB (w : Nat) (k : BArgs → Instr) : Except Reject Instr := .ok (k ⟨reg w 13, reg w 18, bOff w⟩)
def decMB (w : Nat) (k : MBArgs → Instr) : Except Reject Instr :=
  zero (bits w 18 5) (zero (bits w 16 2) (.ok (k ⟨reg3 w 13, bOff w⟩)))
def decBQ (w : Nat) (k : BitVec 11 → Instr) : Except Reject Instr :=
  zero (bits w 18 5) (zero (bits w 13 5) (.ok (k (bOff w))))
def decA (w : Nat) (k : AArgs → Instr) : Except Reject Instr :=
  .ok (k ⟨Order.ofCode (bits w 26 4), Space.ofCode (bits w 24 2), AtSize.ofCode (bits w 23 1), reg w 8, reg w 13, reg w 18⟩)
def decF3 (w : Nat) (k : F3 → Instr) : Except Reject Instr :=
  zero (bits w 27 5) (.ok (k ⟨Prec.ofCode (bits w 23 1), reg w 8, reg w 13, reg w 18⟩))
def decF2 (w : Nat) (k : F2 → Instr) : Except Reject Instr :=
  zero (bits w 27 5) (zero (bits w 18 5) (.ok (k ⟨Prec.ofCode (bits w 23 1), reg w 8, reg w 13⟩)))
/-- The bits outside [1:0], the major and funct4 must be zero. -/
def decPlain (w : Nat) (i : Instr) : Except Reject Instr :=
  zero (bits w 27 5) (zero (bits w 8 15) (.ok i))
/-- Only xs1 is named. -/
def decXs1 (w : Nat) (k : Reg → Instr) : Except Reject Instr :=
  zero (bits w 27 5) (zero (bits w 18 5) (zero (bits w 8 5) (.ok (k (reg w 13)))))
/-- Q layout with [22:18] named. -/
def decQs (w : Nat) (k : Reg → Instr) : Except Reject Instr :=
  zero (bits w 27 5) (zero (bits w 8 10) (.ok (k (reg w 18))))
/-- Q layout with [12:8] named. -/
def decQd (w : Nat) (k : Reg → Instr) : Except Reject Instr :=
  zero (bits w 27 5) (zero (bits w 13 10) (.ok (k (reg w 8))))
/-- M layout: xs1 alone. -/
def decM1 (w : Nat) (k : Reg → Instr) : Except Reject Instr :=
  zero (bits w 23 7) (zero (bits w 18 5) (zero (bits w 8 5) (.ok (k (reg w 13)))))
/-- M layout: xs1 and xs2. -/
def decM2 (w : Nat) (k : Reg → Reg → Instr) : Except Reject Instr :=
  zero (bits w 23 7) (zero (bits w 8 5) (.ok (k (reg w 13) (reg w 18))))
def decV (w : Nat) (k : VArgs → Instr) : Except Reject Instr :=
  coded (Src2.ofCode (bits w 23 2) (bits w 18 5)) fun s =>
    .ok (k ⟨reg3 w 27, Gov.ofCode (bits w 25 2), s, reg w 13, reg w 8⟩)
def decVU (w : Nat) (k : VUArgs → Instr) : Except Reject Instr :=
  zero (bits w 18 7) (.ok (k ⟨reg3 w 27, Gov.ofCode (bits w 25 2), reg w 13, reg w 8⟩))
/-- Mask instructions: fmt, mask and form zero; each field names m0 to m7. -/
def decMM (w : Nat) (k : MMArgs → Instr) : Except Reject Instr :=
  zero (bits w 23 7) (zero (bits w 21 2) (zero (bits w 16 2) (zero (bits w 11 2)
    (.ok (k ⟨reg3 w 8, reg3 w 13, reg3 w 18⟩)))))
def decMX (w : Nat) (k : MXArgs → Instr) : Except Reject Instr :=
  zero (bits w 27 3) (zero (bits w 18 7) (zero (bits w 16 2) (.ok (k ⟨Gov.ofCode (bits w 25 2), reg w 8, reg3 w 13⟩))))
def decMG (w : Nat) (k : MGArgs → Instr) : Except Reject Instr :=
  zero (bits w 27 3) (zero (bits w 18 7) (zero (bits w 16 2) (zero (bits w 11 2)
    (.ok (k ⟨Gov.ofCode (bits w 25 2), reg3 w 8, reg3 w 13⟩)))))
/-- VBMAND and VISECT: form VV, no mask. -/
def decSp (w : Nat) (k : SpArgs → Instr) : Except Reject Instr :=
  zero (bits w 23 4) (.ok (k ⟨reg3 w 27, reg w 8, reg w 13, reg w 18⟩))
def decPrune (w : Nat) (k : VPruneArgs → Instr) : Except Reject Instr :=
  zero (bits w 18 9) (.ok (k ⟨reg3 w 27, reg w 8, reg w 13⟩))
/-- P layout, windowed, two function sources. -/
def decPWin (w : Nat) (k : PWinArgs → Instr) : Except Reject Instr :=
  .ok (k ⟨Gov.ofCode (bits w 27 2), reg3 w 8, reg3 w 11, reg3 w 14, reg w 17, reg w 22⟩)
def decPVec (w : Nat) (k : PVecArgs → Instr) : Except Reject Instr :=
  zero (bits w 14 3) (zero (bits w 8 3) (.ok (k ⟨Gov.ofCode (bits w 27 2), reg w 17, reg3 w 11, reg w 22⟩)))
def decP3 (w : Nat) (k : P3 → Instr) : Except Reject Instr :=
  zero (bits w 17 10) (.ok (k ⟨reg3 w 8, reg3 w 11, reg3 w 14⟩))
/-- P layout naming fd and xs. -/
def decPd (w : Nat) (k : FReg → Reg → Instr) : Except Reject Instr :=
  zero (bits w 11 11) (.ok (k (reg3 w 8) (reg w 22)))
/-- P layout naming fs1 and a scalar register. -/
def decPs (w : Nat) (k : FReg → Reg → Instr) : Except Reject Instr :=
  zero (bits w 14 8) (zero (bits w 8 3) (.ok (k (reg3 w 11) (reg w 22))))

/-! The majors of R286. `f4`, `f2` and `f3` are funct4, funct2 and funct3 of the layouts. -/

/-- Major 0x00. -/
def dec00 (w f : Nat) : Except Reject Instr :=
  match f with
  | 0 => decR w .add
  | 1 => decR w .sub
  | 2 => decR w .mul
  | 3 => decR w .mulh
  | 4 => decR w .mulhn
  | 5 => decR w .div
  | 6 => decR w .divn
  | 7 => decR w .rem
  | 8 => decR w .remn
  | 9 => decR w .and
  | 10 => decR w .or
  | 11 => decR w .xor
  | 12 => decR w .sll
  | 13 => decR w .srl
  | 14 => decR w .sra
  | _ => .error .opcode

/-- Major 0x01. -/
def dec01 (w f : Nat) : Except Reject Instr :=
  match f with
  | 0 => decR w .slt
  | 1 => decR w .sltn
  | 2 => decR w .min
  | 3 => decR w .max
  | 4 => decR w .minn
  | 5 => decR w .maxn
  | 6 => decR1 w .clz
  | 7 => decR1 w .ctz
  | 8 => decR1 w .popc
  | 9 => decR w .bext
  | 10 => decR w .bins
  | _ => .error .opcode

/-- Major 0x02. -/
def dec02 (w f : Nat) : Except Reject Instr :=
  match f with
  | 0 => decI w .addi
  | 1 => decI w .andi
  | 2 => decI w .ori
  | 3 => decI w .xori
  | _ => .error .opcode

/-- Major 0x03. -/
def dec03 (w f : Nat) : Except Reject Instr :=
  match f with
  | 0 => decI w .slti
  | 1 => decI w .sltin
  | 2 => decI w .jalr
  | _ => .error .opcode

/-- Major 0x04. -/
def dec04 (w f : Nat) : Except Reject Instr :=
  match f with
  | 0 => decSh w .slli
  | 1 => decSh w .srli
  | 2 => decSh w .srai
  | _ => .error .opcode

/-- Major 0x08. -/
def dec08 (w f : Nat) : Except Reject Instr :=
  match f with
  | 0 => decB w .beq
  | 1 => decB w .bne
  | 2 => decB w .blt
  | 3 => decB w .bge
  | 4 => decB w .bltn
  | 5 => decB w .bgen
  | _ => .error .opcode

/-- Major 0x09. -/
def dec09 (w f : Nat) : Except Reject Instr :=
  match f with
  | 0 => decMB w .bany
  | 1 => decMB w .ball
  | 2 => decMB w .bnone
  | 3 => decBQ w .bqz
  | 4 => decBQ w .bqnz
  | _ => .error .opcode

/-- Major 0x0A (LD). -/
def dec0A (w : Nat) : Except Reject Instr :=
  coded (LdSize.ofCode (bits w 23 3)) fun sz =>
    .ok (.ld ⟨sz, Space.ofCode (bits w 26 2), reg w 8, reg w 13, BitVec.ofNat 9 (bits w 28 4 * 32 + bits w 18 5)⟩)

/-- Major 0x0B (ST). -/
def dec0B (w : Nat) : Except Reject Instr :=
  coded (StSize.ofCode (bits w 23 3)) fun sz =>
    .ok (.st ⟨sz, Space.ofCode (bits w 26 2), reg w 13, reg w 18, BitVec.ofNat 9 (bits w 28 4 * 32 + bits w 8 5)⟩)

/-- Major 0x0C (LD.ACQ and ST.REL). -/
def dec0C (w : Nat) : Except Reject Instr :=
  coded (Scope.ofCode (bits w 28 3)) fun sc =>
    if bits w 31 1 = 0 then
      coded (LdSize.ofCode (bits w 23 3)) fun sz =>
        zero (bits w 18 5) (.ok (.ldAcq ⟨sz, sc, Space.ofCode (bits w 26 2), reg w 8, reg w 13⟩))
    else
      coded (StSize.ofCode (bits w 23 3)) fun sz =>
        zero (bits w 8 5) (.ok (.stRel ⟨sz, sc, Space.ofCode (bits w 26 2), reg w 13, reg w 18⟩))

/-- Major 0x0D. -/
def dec0D (w f : Nat) : Except Reject Instr :=
  match f with
  | 0 => decA w .amoadd
  | 1 => decA w .amoand
  | 2 => decA w .amoor
  | 3 => decA w .amoxor
  | _ => .error .opcode

/-- Major 0x0E. -/
def dec0E (w f : Nat) : Except Reject Instr :=
  match f with
  | 0 => decA w .amomin
  | 1 => decA w .amomax
  | 2 => decA w .amoswp
  | 3 => decA w .cas
  | _ => .error .opcode

/-- Major 0x0F: AMOFADD.DET has xd and order zero (R287). -/
def dec0F (w f : Nat) : Except Reject Instr :=
  match f with
  | 0 => decA w .amofadd
  | 1 => zero (bits w 26 4) (zero (bits w 8 5)
      (.ok (.amofaddDet ⟨Space.ofCode (bits w 24 2), AtSize.ofCode (bits w 23 1), reg w 13, reg w 18⟩)))
  | _ => .error .opcode

/-- Major 0x10: funct4 2n and 2n + 1. -/
def dec10 (w f : Nat) : Except Reject Instr :=
  match f / 2 with
  | 0 => decF3 w .fadd
  | 1 => decF3 w .fsub
  | 2 => decF3 w .fmul
  | 3 => decF3 w .fdiv
  | 4 => decF2 w .fsqrt
  | 5 => .ok (.ffma ⟨Prec.ofCode (bits w 23 1), reg w 8, reg w 13, reg w 18, reg w 27⟩)
  | 6 => decF3 w .fmin
  | 7 => decF3 w .fmax
  | _ => .error .opcode

/-- Major 0x11: FCVT stands at funct4 8 alone. -/
def dec11 (w f : Nat) : Except Reject Instr :=
  match f / 2 with
  | 0 => decF3 w .fcmpEq
  | 1 => decF3 w .fcmpLt
  | 2 => decF3 w .fcmpLe
  | 3 => decF2 w .fclass
  | 4 =>
    if f = 8 then
      zero (bits w 27 5) (coded (CvtCode.ofCode (bits w 18 5)) fun c => .ok (.fcvt c ⟨reg w 8, reg w 13⟩))
    else .error .opcode
  | _ => .error .opcode

/-- Major 0x12. -/
def dec12 (w f : Nat) : Except Reject Instr :=
  match f with
  | 0 => zero (bits w 13 5) (.ok (.mfs (reg w 8) (BitVec.ofNat 12 (bits w 20 12))))
  | 1 => zero (bits w 8 5) (.ok (.mts (BitVec.ofNat 12 (bits w 20 12)) (reg w 13)))
  | 2 => zero (bits w 13 5) (zero (bits w 8 5) (.ok (.trap (BitVec.ofNat 12 (bits w 20 12)))))
  | _ => .error .opcode

/-- Major 0x13. -/
def dec13 (w f : Nat) : Except Reject Instr :=
  match f with
  | 0 => decPlain w .nop
  | 1 => decPlain w .halt
  | 2 => decPlain w .tack
  | 3 => decPlain w .tret
  | 4 => decPlain w .convoy
  | 5 => decPlain w .svfence
  | 6 => decPlain w .vlsync
  | 7 =>
    zero (bits w 27 5) (zero (bits w 21 2) (zero (bits w 17 1) (zero (bits w 8 5)
      (coded (Scope.ofCode (bits w 18 3)) fun sc => coded (FenceKind.ofCode (bits w 15 2)) fun p =>
        coded (FenceKind.ofCode (bits w 13 2)) fun s => .ok (.fence sc p s)))))
  | 8 =>
    zero (bits w 27 5) (zero (bits w 21 2) (zero (bits w 8 10)
      (coded (Scope.ofCode (bits w 18 3)) fun sc =>
        if sc = .device ∨ sc = .system then .ok (.ltrig sc) else .error .code)))
  | 9 => decR w .vfork
  | 10 => decXs1 w .join
  | 11 => decR w .seal
  | 12 => decXs1 w .vsave
  | 13 => decXs1 w .vrestore
  | _ => .error .opcode

/-- Major 0x14. -/
def dec14 (w f : Nat) : Except Reject Instr :=
  match f with
  | 0 => decQs w .apush
  | 1 => decQd w .apop
  | 2 => decQs w .cpush
  | 3 => decQd w .cpop
  | 4 => decQs w .vpush
  | 5 => decQd w .vpop
  | 6 => decQs w .slipReg
  | 7 =>
    zero (bits w 31 1) (zero (bits w 8 15)
      (if 1 ≤ bits w 27 4 ∧ bits w 27 4 ≤ 8 then .ok (.slipImm (BitVec.ofNat 4 (bits w 27 4))) else .error .code))
  | 8 => decQd w .vsetlQ
  | 9 => zero (bits w 30 2) (zero (bits w 13 5) (coded (EWidth.ofCode (bits w 27 3)) fun e => .ok (.vsetl e (reg w 8) (reg w 18))))
  | 10 => decPlain w .mtsetGlobal
  | 11 => decPlain w .mtsetSpad
  | 12 => decPlain w .mtsetShared
  | 13 => decPlain w .mtsetTcm
  | _ => .error .opcode

/-- The squad barriers number 0 to 63 (R39). -/
def decSq (b : Nat) (i : Instr) : Except Reject Instr := if b < 64 then .ok i else .error .code

/-- Major 0x15. -/
def dec15 (w f : Nat) : Except Reject Instr :=
  match f with
  | 0 => zero (bits w 16 2) (.ok (.barinit ⟨reg w 8, BitVec.ofNat 9 (bits w 23 9), reg w 18⟩))
  | 1 => zero (bits w 16 7) (zero (bits w 8 5) (.ok (.barArrive (BitVec.ofNat 9 (bits w 23 9)))))
  | 2 => zero (bits w 16 7) (zero (bits w 8 5) (.ok (.barSync (BitVec.ofNat 9 (bits w 23 9)))))
  | 4 => zero (bits w 16 2) (decSq (bits w 23 9) (.barinitSq ⟨reg w 8, BitVec.ofNat 9 (bits w 23 9), reg w 18⟩))
  | 5 => zero (bits w 16 7) (zero (bits w 8 5) (decSq (bits w 23 9) (.barArriveSq (BitVec.ofNat 9 (bits w 23 9)))))
  | 6 => zero (bits w 16 7) (zero (bits w 8 5) (decSq (bits w 23 9) (.barSyncSq (BitVec.ofNat 9 (bits w 23 9)))))
  | _ => .error .opcode

/-- Major 0x20. -/
def dec20 (w f : Nat) : Except Reject Instr :=
  match f with
  | 0 => decM1 w .vle
  | 1 => decM2 w .vls
  | 2 => decM1 w .vlx
  | _ => decM1 w .vlff

/-- Major 0x21. -/
def dec21 (w f : Nat) : Except Reject Instr :=
  match f with
  | 0 => decM2 w .vlb
  | 1 => decM1 w .vse
  | 2 => decM2 w .vss
  | _ => decM1 w .vsx

/-- Major 0x22. -/
def dec22 (w f : Nat) : Except Reject Instr :=
  match f with
  | 0 => decM2 w .vsb
  | 1 => zero (bits w 23 3) (zero (bits w 18 5) (zero (bits w 8 5)
      (coded (AmoOp.ofCode (bits w 26 4)) fun op => .ok (.vamo op (reg w 13)))))
  | _ => .error .opcode

/-- Major 0x24. -/
def dec24 (w f : Nat) : Except Reject Instr :=
  match f with
  | 0 => decV w .vadd
  | 1 => decV w .vsub
  | 2 => decV w .vmul
  | 3 => decV w .vmulh
  | _ => .error .opcode

/-- Major 0x25. -/
def dec25 (w f : Nat) : Except Reject Instr :=
  match f with
  | 0 => decV w .vdiv
  | 1 => decV w .vrem
  | 2 => decV w .vmin
  | 3 => decV w .vmax
  | _ => .error .opcode

/-- Major 0x26. -/
def dec26 (w f : Nat) : Except Reject Instr :=
  match f with
  | 0 => decV w .vand
  | 1 => decV w .vor
  | 2 => decV w .vxor
  | 3 => decV w .vsll
  | _ => .error .opcode

/-- Major 0x27. -/
def dec27 (w f : Nat) : Except Reject Instr :=
  match f with
  | 0 => decV w .vsrl
  | 1 => decV w .vsra
  | _ => .error .opcode

/-- Major 0x28. -/
def dec28 (w f : Nat) : Except Reject Instr :=
  match f with
  | 0 => decV w .vfadd
  | 1 => decV w .vfsub
  | 2 => decV w .vfmul
  | 3 => decV w .vfdiv
  | _ => .error .opcode

/-- Major 0x29. -/
def dec29 (w f : Nat) : Except Reject Instr :=
  match f with
  | 0 => decV w .vfma
  | 1 => decV w .vfms
  | 2 => decV w .vfnma
  | 3 => decVU w .vfsqrt
  | _ => .error .opcode

/-- Major 0x2A. -/
def dec2A (w f : Nat) : Except Reject Instr :=
  match f with
  | 0 => decV w .vfmin
  | 1 => decV w .vfmax
  | 2 => decVU w .vfcvt
  | 3 => decV w .vwma
  | _ => .error .opcode

/-- Major 0x2B (VWAIT, layout W). -/
def dec2B (w : Nat) : Except Reject Instr :=
  zero (bits w 31 1) (coded (VWaitArgs.scopeOfCode (bits w 28 3)) fun sc =>
    .ok (.vwait ⟨sc, Gov.ofCode (bits w 11 2), reg3 w 8, reg w 13, reg w 18, reg w 23⟩))

/-- Major 0x2C (R141). -/
def dec2C (w f : Nat) : Except Reject Instr :=
  match f with
  | 0 => zero (bits w 14 15) (.ok (.pmov (reg3 w 8) (reg3 w 11)))
  | 1 => zero (bits w 11 18) (.ok (.pzero (reg3 w 8)))
  | 2 => zero (bits w 27 2) (decP3 w .padd)
  | 3 => zero (bits w 27 2) (decP3 w .psub)
  | 4 => coded (PMode.ofCode (bits w 27 2)) fun m => decP3 w (.pmul m)
  | 5 => zero (bits w 14 13) (coded (PDir.ofCode (bits w 27 2)) fun d => .ok (.pdiff d (reg3 w 8) (reg3 w 11)))
  | 6 => zero (bits w 21 8) (zero (bits w 14 3) (.ok (.pproj (reg3 w 8) (reg3 w 11) (BitVec.ofNat 4 (bits w 17 4)))))
  | 7 => zero (bits w 17 12)
      (if bits w 14 3 < 6 then .ok (.ptrace (reg3 w 8) (reg3 w 11) (BitVec.ofNat 3 (bits w 14 3))) else .error .code)
  | _ => .error .opcode

/-- Major 0x2D (R141). -/
def dec2D (w f : Nat) : Except Reject Instr :=
  match f with
  | 0 => zero (bits w 14 3) (.ok (.pscl ⟨Gov.ofCode (bits w 27 2), reg3 w 8, reg3 w 11, reg w 17, reg w 22⟩))
  | 1 => decPWin w .paxpy
  | 2 => decPVec w .pint
  | 3 => decPVec w .peval
  | 4 => decPWin w .pjump
  | 5 => decPWin w .pavg
  | 6 =>
    match bits w 27 2 with
    | 0 => decPd w .ppop
    | 1 => decPs w .ppush
    | _ => .error .opcode
  | 7 =>
    match bits w 27 2 with
    | 0 => decPd w .pset
    | 1 => decPd w .psetDg
    | 2 => decPs w fun f x => .pget x f
    | _ => decPs w fun f x => .pgetDg x f
  | _ => .error .opcode

/-- Major 0x30 (R288). -/
def dec30 (w f : Nat) : Except Reject Instr :=
  match f with
  | 0 => coded (Src2.ofCode (bits w 23 2) (bits w 18 5)) fun s =>
      .ok (.vcmp ⟨reg3 w 27, Gov.ofCode (bits w 25 2), s, reg w 13, ICond.ofCode (bits w 11 2), reg3 w 8⟩)
  | 1 => coded (Src2.ofCode (bits w 23 2) (bits w 18 5)) fun s =>
      .ok (.vfcmp ⟨reg3 w 27, Gov.ofCode (bits w 25 2), s, reg w 13, FCond.ofCode (bits w 11 2), reg3 w 8⟩)
  | 2 => decV w .vmerge
  | _ => zero (bits w 13 5) (coded (Src2.ofCode (bits w 23 2) (bits w 18 5)) fun s =>
      .ok (.vmv ⟨reg3 w 27, Gov.ofCode (bits w 25 2), s, reg w 8⟩))

/-- Major 0x32. -/
def dec32m (w f : Nat) : Except Reject Instr :=
  match f with
  | 0 => decVU w .vexpand
  | 1 => zero (bits w 16 2) (coded (Src2.ofCode (bits w 23 2) (bits w 18 5)) fun s =>
      .ok (.viota ⟨reg3 w 27, Gov.ofCode (bits w 25 2), s, reg3 w 13, reg w 8⟩))
  | 2 => decPrune w .vpruneN4M8
  | _ => .error .opcode

/-- Major 0x36. -/
def dec36 (w f : Nat) : Except Reject Instr :=
  match f with
  | 0 => zero (bits w 16 14) (zero (bits w 11 2) (.ok (.vmnot (reg3 w 8) (reg3 w 13))))
  | 1 => decMX w .vpopc
  | 2 => decMX w .vfirst
  | _ => decMG w .vbrkb

/-- Major 0x37. -/
def dec37 (w f : Nat) : Except Reject Instr :=
  match f with
  | 0 => decMG w .vbrka
  | _ => .error .opcode

/-- Major 0x38 (R288). -/
def dec38 (w f : Nat) : Except Reject Instr :=
  match f with
  | 0 => decSp w .vbmand
  | 1 => zero (bits w 25 2)
      (if bits w 23 2 = 1 then .ok (.vbprefix ⟨reg3 w 27, reg w 8, reg w 13, reg w 18⟩) else .error .code)
  | 2 => decSp w .visect
  | _ => zero (bits w 23 4) (.ok (.vhacc ⟨reg3 w 27, reg w 13, reg w 18, reg w 8⟩))

/-- Major 0x31. -/
def dec31 (w f : Nat) : Except Reject Instr :=
  match f with
  | 0 => decV w .vslideup
  | 1 => decV w .vslidedn
  | 2 => decV w .vperm
  | 3 => decVU w .vcompress
  | _ => .error .opcode

/-- Major 0x33. -/
def dec33 (w f : Nat) : Except Reject Instr :=
  match f with
  | 0 => decV w .vredsum
  | 1 => decV w .vredmin
  | 2 => decV w .vredmax
  | 3 => decV w .vscan
  | _ => .error .opcode

/-- Major 0x34. -/
def dec34 (w f : Nat) : Except Reject Instr :=
  match f with
  | 0 => decV w .vfredsum
  | 1 => decV w .vfredmin
  | 2 => decV w .vfredmax
  | 3 => decV w .vfscan
  | _ => .error .opcode

/-- Major 0x35. -/
def dec35 (w f : Nat) : Except Reject Instr :=
  match f with
  | 0 => decMM w .vmand
  | 1 => decMM w .vmor
  | 2 => decMM w .vmxor
  | 3 => decMM w .vmandn
  | _ => .error .opcode

/-- Major 0x39. -/
def dec39 (w f : Nat) : Except Reject Instr :=
  match f with
  | 0 => decPrune w .vpruneN1M4
  | 1 => decPrune w .vpruneN2M4
  | 2 => decPrune w .vpruneN1M8
  | 3 => decPrune w .vpruneN2M8
  | _ => .error .opcode

/-- The 32-bit map of R286, by major. -/
def decode32 (w : Nat) : Except Reject Instr :=
  match bits w 2 6 with
  | 0x00 => dec00 w (bits w 23 4)
  | 0x01 => dec01 w (bits w 23 4)
  | 0x02 => dec02 w (bits w 18 2)
  | 0x03 => dec03 w (bits w 18 2)
  | 0x04 => dec04 w (bits w 18 2)
  | 0x05 => decU w .lui
  | 0x06 => decU w .auipc
  | 0x07 => decU w .jal
  | 0x08 => dec08 w (bits w 23 3)
  | 0x09 => dec09 w (bits w 23 3)
  | 0x0A => dec0A w
  | 0x0B => dec0B w
  | 0x0C => dec0C w
  | 0x0D => dec0D w (bits w 30 2)
  | 0x0E => dec0E w (bits w 30 2)
  | 0x0F => dec0F w (bits w 30 2)
  | 0x10 => dec10 w (bits w 23 4)
  | 0x11 => dec11 w (bits w 23 4)
  | 0x12 => dec12 w (bits w 18 2)
  | 0x13 => dec13 w (bits w 23 4)
  | 0x14 => dec14 w (bits w 23 4)
  | 0x15 => dec15 w (bits w 13 3)
  | 0x20 => dec20 w (bits w 30 2)
  | 0x21 => dec21 w (bits w 30 2)
  | 0x22 => dec22 w (bits w 30 2)
  | 0x24 => dec24 w (bits w 30 2)
  | 0x25 => dec25 w (bits w 30 2)
  | 0x26 => dec26 w (bits w 30 2)
  | 0x27 => dec27 w (bits w 30 2)
  | 0x28 => dec28 w (bits w 30 2)
  | 0x29 => dec29 w (bits w 30 2)
  | 0x2A => dec2A w (bits w 30 2)
  | 0x2B => dec2B w
  | 0x2C => dec2C w (bits w 29 3)
  | 0x2D => dec2D w (bits w 29 3)
  | 0x30 => dec30 w (bits w 30 2)
  | 0x31 => dec31 w (bits w 30 2)
  | 0x32 => dec32m w (bits w 30 2)
  | 0x33 => dec33 w (bits w 30 2)
  | 0x34 => dec34 w (bits w 30 2)
  | 0x35 => dec35 w (bits w 30 2)
  | 0x36 => dec36 w (bits w 30 2)
  | 0x37 => dec37 w (bits w 30 2)
  | 0x38 => dec38 w (bits w 30 2)
  | 0x39 => dec39 w (bits w 30 2)
  | _ => .error .opcode

/-- Matrix instruction with two scalar operands and a number at bit `lo` (R158): `z` is the other fields' sum. -/
def decMat (w lo z : Nat) (k : MatArgs → Instr) : Except Reject Instr :=
  zero z (.ok (k ⟨num4 w lo, reg w 24, reg w 29, reg3 w 34⟩))

/-- Matrix instructions, 64-bit major 0x10 (R158). -/
def decodeMatrix (w : Nat) : Except Reject Instr :=
  zero (bits w 37 27)
    (match bits w 8 3 with
    | 0 => decMat w 11 (bits w 15 9) .mldb
    | 1 => decMat w 11 (bits w 15 9) .mldbP
    | 2 => zero (bits w 24 10) (.ok (.mma ⟨num4 w 15, num4 w 11, reg w 19, reg3 w 34⟩))
    | 3 => zero (bits w 19 15) (zero (bits w 11 4) (.ok (.mzero (num4 w 15) (reg3 w 34))))
    | 4 => decMat w 15 (bits w 19 5 + bits w 11 4) .mst
    | 5 => decMat w 15 (bits w 19 5 + bits w 11 4) .mldacc
    | _ => .error .opcode)

/-- Engine instructions, 64-bit major 0x11 (R186). -/
def decodeEngine (w : Nat) : Except Reject Instr :=
  zero (bits w 29 35) (zero (bits w 11 8)
    (match bits w 8 3 with
    | 0 => .ok (.ecopy (reg w 19) (reg w 24))
    | 1 => .ok (.equant (reg w 19) (reg w 24))
    | 2 => .ok (.epack (reg w 19) (reg w 24))
    | 3 => .ok (.eunpack (reg w 19) (reg w 24))
    | 4 => zero (bits w 24 5) (.ok (.eseq (reg w 19)))
    | 5 => .ok (.evpop (reg w 19) (reg w 24))
    | _ => .error .opcode))

/-- The 64-bit space (R290). -/
def decode64 (w : Nat) : Except Reject Instr :=
  match bits w 2 6 with
  | 0x10 => decodeMatrix w
  | 0x11 => decodeEngine w
  | _ => .error .opcode

/-- xd of a 16-bit form is not x0 (R291). -/
def decHd (w : Nat) (i : Instr) : Except Reject Instr := if bits w 4 5 = 0 then .error .code else .ok i

/-- The 16-bit forms (R291). -/
def decode16 (w : Nat) : Except Reject Instr :=
  match bits w 1 3 with
  | 0 => decHd w (.hAddi (reg w 4) (BitVec.ofNat 7 (bits w 9 7)))
  | 1 => decHd w (.hSeti (reg w 4) (BitVec.ofNat 7 (bits w 9 7)))
  | 2 => zero (bits w 14 2) (decHd w (.hCopy (reg w 4) (reg w 9)))
  | 3 => zero (bits w 14 2) (decHd w (.hAdd (reg w 4) (reg w 9)))
  | 4 => .ok (.hBz (reg w 4) (BitVec.ofNat 7 (bits w 9 7)))
  | 5 => .ok (.hBnz (reg w 4) (BitVec.ofNat 7 (bits w 9 7)))
  | _ => .error .opcode

/-- The length in bytes that the first halfword gives (R281). -/
def lengthOf (half : Nat) : Nat :=
  match half % 4 with
  | 1 => 4
  | 3 => 8
  | _ => 2

/-- Decoding of a word of `len` bytes. -/
def decodeWord (len w : Nat) : Except Reject Instr :=
  match len with
  | 2 => decode16 w
  | 4 => decode32 w
  | _ => decode64 w

/-- Little-endian value of bytes (R1). -/
def leNat : List Byte → Nat
  | [] => 0
  | b :: bs => b.toNat + 256 * leNat bs

/-- The `n` low bytes of a number, little-endian (R1). -/
def leBytes : Nat → Nat → List Byte
  | 0, _ => []
  | n + 1, x => BitVec.ofNat 8 x :: leBytes n (x / 256)

/-- Decoding of the instruction at the front of a byte sequence, with its length (R281, R282). -/
def decodeBytes (bs : List Byte) : Except Reject (Instr × Nat) :=
  if bs.length < 2 then .error .short
  else
    let n := lengthOf (leNat (bs.take 2))
    if bs.length < n then .error .short
    else (decodeWord n (leNat (bs.take n))).map fun i => (i, n)

/-! The encoder. Each layout is the sum of its fields at their places; `maj` is the major with bits [1:0]. -/

/-- Bits [7:0] of a 32-bit instruction of this major. -/
def maj (m : Nat) : Nat := 4 * m + 1
def encR (m f d a b c : Nat) : Nat := maj m + d * 2 ^ 8 + a * 2 ^ 13 + b * 2 ^ 18 + f * 2 ^ 23 + c * 2 ^ 27
def encR3 (m f : Nat) (a : R3) : Nat := encR m f a.rd a.rs1 a.rs2 0
def encI (m f d a imm : Nat) : Nat := maj m + d * 2 ^ 8 + a * 2 ^ 13 + f * 2 ^ 18 + imm * 2 ^ 20
def encU (m : Nat) (a : UArgs) : Nat := maj m + a.rd * 2 ^ 8 + a.imm.toNat * 2 ^ 13
def encB (m f a b off : Nat) : Nat :=
  maj m + off % 32 * 2 ^ 8 + a * 2 ^ 13 + b * 2 ^ 18 + f * 2 ^ 23 + off / 32 * 2 ^ 26
def encA (m f : Nat) (o : Order) (sp : Space) (sz : AtSize) (d a b : Nat) : Nat :=
  maj m + d * 2 ^ 8 + a * 2 ^ 13 + b * 2 ^ 18 + sz.code * 2 ^ 23 + sp.code * 2 ^ 24 + o.code * 2 ^ 26 + f * 2 ^ 30
def encAA (m f : Nat) (a : AArgs) : Nat := encA m f a.order a.space a.size a.rd a.rs1 a.rs2
def encF3 (m n : Nat) (a : F3) : Nat := encR m (2 * n + a.p.code) a.rd a.rs1 a.rs2 0
def encF2 (m n : Nat) (a : F2) : Nat := encR m (2 * n + a.p.code) a.rd a.rs1 0 0
def encK (f d b x : Nat) : Nat := maj 0x15 + d * 2 ^ 8 + f * 2 ^ 13 + x * 2 ^ 18 + b * 2 ^ 23
def encM (m minor sub a b : Nat) : Nat := maj m + a * 2 ^ 13 + b * 2 ^ 18 + sub * 2 ^ 26 + minor * 2 ^ 30
def encVf (m minor fmt gov form src vs1 vd : Nat) : Nat :=
  maj m + vd * 2 ^ 8 + vs1 * 2 ^ 13 + src * 2 ^ 18 + form * 2 ^ 23 + gov * 2 ^ 25 + fmt * 2 ^ 27 + minor * 2 ^ 30
def encV (m minor : Nat) (a : VArgs) : Nat :=
  encVf m minor a.fmt a.gov.code a.src2.form a.src2.field a.vs1 a.vd
def encVU (m minor : Nat) (a : VUArgs) : Nat := encVf m minor a.fmt a.gov.code 0 0 a.vs1 a.vd
def encMM (m minor : Nat) (a : MMArgs) : Nat := encVf m minor 0 0 0 a.ms2 a.ms1 a.md
def encMG (m minor : Nat) (a : MGArgs) : Nat := encVf m minor 0 a.gov.code 0 0 a.ms a.md
def encPrune (m minor : Nat) (a : VPruneArgs) : Nat := encVf m minor a.fmt 0 0 0 a.vs a.vd
def encP (m f ctl x v s2 s1 d : Nat) : Nat :=
  maj m + d * 2 ^ 8 + s1 * 2 ^ 11 + s2 * 2 ^ 14 + v * 2 ^ 17 + x * 2 ^ 22 + ctl * 2 ^ 27 + f * 2 ^ 29
def encPWin (f : Nat) (a : PWinArgs) : Nat := encP 0x2D f a.gov.code a.xs a.vs a.fs2 a.fs1 a.fd
def encPVec (f : Nat) (a : PVecArgs) : Nat := encP 0x2D f a.gov.code a.xs a.vd 0 a.fs1 0
def encP3 (f ctl : Nat) (a : P3) : Nat := encP 0x2C f ctl 0 0 a.fs2 a.fs1 a.fd
def encMat (f fmt x2 x1 vs acc panel : Nat) : Nat :=
  67 + f * 2 ^ 8 + panel * 2 ^ 11 + acc * 2 ^ 15 + vs * 2 ^ 19 + x1 * 2 ^ 24 + x2 * 2 ^ 29 + fmt * 2 ^ 34
def encE (f d x : Nat) : Nat := 71 + f * 2 ^ 8 + d * 2 ^ 19 + x * 2 ^ 24
def encH (op d hi : Nat) : Nat := op * 2 + d * 2 ^ 4 + hi * 2 ^ 9

/-- The word of an encoded instruction; an event row has none and gives 0. -/
def encode : Instr → Nat
  | .add a => encR3 0x00 0 a
  | .sub a => encR3 0x00 1 a
  | .mul a => encR3 0x00 2 a
  | .mulh a => encR3 0x00 3 a
  | .mulhn a => encR3 0x00 4 a
  | .div a => encR3 0x00 5 a
  | .divn a => encR3 0x00 6 a
  | .rem a => encR3 0x00 7 a
  | .remn a => encR3 0x00 8 a
  | .and a => encR3 0x00 9 a
  | .or a => encR3 0x00 10 a
  | .xor a => encR3 0x00 11 a
  | .sll a => encR3 0x00 12 a
  | .srl a => encR3 0x00 13 a
  | .sra a => encR3 0x00 14 a
  | .slt a => encR3 0x01 0 a
  | .sltn a => encR3 0x01 1 a
  | .min a => encR3 0x01 2 a
  | .max a => encR3 0x01 3 a
  | .minn a => encR3 0x01 4 a
  | .maxn a => encR3 0x01 5 a
  | .clz a => encR 0x01 6 a.rd a.rs1 0 0
  | .ctz a => encR 0x01 7 a.rd a.rs1 0 0
  | .popc a => encR 0x01 8 a.rd a.rs1 0 0
  | .bext a => encR3 0x01 9 a
  | .bins a => encR3 0x01 10 a
  | .addi a => encI 0x02 0 a.rd a.rs1 a.imm.toNat
  | .andi a => encI 0x02 1 a.rd a.rs1 a.imm.toNat
  | .ori a => encI 0x02 2 a.rd a.rs1 a.imm.toNat
  | .xori a => encI 0x02 3 a.rd a.rs1 a.imm.toNat
  | .slti a => encI 0x03 0 a.rd a.rs1 a.imm.toNat
  | .sltin a => encI 0x03 1 a.rd a.rs1 a.imm.toNat
  | .jalr a => encI 0x03 2 a.rd a.rs1 a.imm.toNat
  | .slli a => encI 0x04 0 a.rd a.rs1 a.count.toNat
  | .srli a => encI 0x04 1 a.rd a.rs1 a.count.toNat
  | .srai a => encI 0x04 2 a.rd a.rs1 a.count.toNat
  | .lui a => encU 0x05 a
  | .auipc a => encU 0x06 a
  | .jal a => encU 0x07 a
  | .beq a => encB 0x08 0 a.rs1 a.rs2 a.off.toNat
  | .bne a => encB 0x08 1 a.rs1 a.rs2 a.off.toNat
  | .blt a => encB 0x08 2 a.rs1 a.rs2 a.off.toNat
  | .bge a => encB 0x08 3 a.rs1 a.rs2 a.off.toNat
  | .bltn a => encB 0x08 4 a.rs1 a.rs2 a.off.toNat
  | .bgen a => encB 0x08 5 a.rs1 a.rs2 a.off.toNat
  | .bany a => encB 0x09 0 a.md 0 a.off.toNat
  | .ball a => encB 0x09 1 a.md 0 a.off.toNat
  | .bnone a => encB 0x09 2 a.md 0 a.off.toNat
  | .bqz off => encB 0x09 3 0 0 off.toNat
  | .bqnz off => encB 0x09 4 0 0 off.toNat
  | .ld a => maj 0x0A + a.rd * 2 ^ 8 + a.rs1 * 2 ^ 13 + a.imm.toNat % 32 * 2 ^ 18 + a.size.code * 2 ^ 23 + a.space.code * 2 ^ 26
      + a.imm.toNat / 32 * 2 ^ 28
  | .st a => maj 0x0B + a.imm.toNat % 32 * 2 ^ 8 + a.rs1 * 2 ^ 13 + a.rs2 * 2 ^ 18 + a.size.code * 2 ^ 23 + a.space.code * 2 ^ 26
      + a.imm.toNat / 32 * 2 ^ 28
  | .ldAcq a => maj 0x0C + a.rd * 2 ^ 8 + a.rs1 * 2 ^ 13 + a.size.code * 2 ^ 23 + a.space.code * 2 ^ 26 + a.scope.code * 2 ^ 28
  | .stRel a => maj 0x0C + a.rs1 * 2 ^ 13 + a.rs2 * 2 ^ 18 + a.size.code * 2 ^ 23 + a.space.code * 2 ^ 26 + a.scope.code * 2 ^ 28
      + 2 ^ 31
  | .amoadd a => encAA 0x0D 0 a
  | .amoand a => encAA 0x0D 1 a
  | .amoor a => encAA 0x0D 2 a
  | .amoxor a => encAA 0x0D 3 a
  | .amomin a => encAA 0x0E 0 a
  | .amomax a => encAA 0x0E 1 a
  | .amoswp a => encAA 0x0E 2 a
  | .cas a => encAA 0x0E 3 a
  | .amofadd a => encAA 0x0F 0 a
  | .amofaddDet a => encA 0x0F 1 .plain a.space a.size 0 a.rs1 a.rs2
  | .fadd a => encF3 0x10 0 a
  | .fsub a => encF3 0x10 1 a
  | .fmul a => encF3 0x10 2 a
  | .fdiv a => encF3 0x10 3 a
  | .fsqrt a => encF2 0x10 4 a
  | .ffma a => encR 0x10 (10 + a.p.code) a.rd a.rs1 a.rs2 a.rs3
  | .fmin a => encF3 0x10 6 a
  | .fmax a => encF3 0x10 7 a
  | .fcmpEq a => encF3 0x11 0 a
  | .fcmpLt a => encF3 0x11 1 a
  | .fcmpLe a => encF3 0x11 2 a
  | .fclass a => encF2 0x11 3 a
  | .fcvt c a => encR 0x11 8 a.rd a.rs1 c.code 0
  | .mfs rd r => encI 0x12 0 rd 0 r.toNat
  | .mts r rs1 => encI 0x12 1 0 rs1 r.toNat
  | .trap imm => encI 0x12 2 0 0 imm.toNat
  | .nop => encR 0x13 0 0 0 0 0
  | .halt => encR 0x13 1 0 0 0 0
  | .tack => encR 0x13 2 0 0 0 0
  | .tret => encR 0x13 3 0 0 0 0
  | .convoy => encR 0x13 4 0 0 0 0
  | .svfence => encR 0x13 5 0 0 0 0
  | .vlsync => encR 0x13 6 0 0 0 0
  | .fence sc p s => maj 0x13 + s.code * 2 ^ 13 + p.code * 2 ^ 15 + sc.code * 2 ^ 18 + 7 * 2 ^ 23
  | .ltrig sc => encR 0x13 8 0 0 sc.code 0
  | .vfork a => encR3 0x13 9 a
  | .join xs => encR 0x13 10 0 xs 0 0
  | .seal a => encR3 0x13 11 a
  | .vsave xs => encR 0x13 12 0 xs 0 0
  | .vrestore xs => encR 0x13 13 0 xs 0 0
  | .apush x => encR 0x14 0 0 0 x 0
  | .apop x => encR 0x14 1 x 0 0 0
  | .cpush x => encR 0x14 2 0 0 x 0
  | .cpop x => encR 0x14 3 x 0 0 0
  | .vpush x => encR 0x14 4 0 0 x 0
  | .vpop x => encR 0x14 5 x 0 0 0
  | .slipReg x => encR 0x14 6 0 0 x 0
  | .slipImm q => encR 0x14 7 0 0 0 q.toNat
  | .vsetlQ x => encR 0x14 8 x 0 0 0
  | .vsetl ew rd xs => encR 0x14 9 rd 0 xs ew.code
  | .mtsetGlobal => encR 0x14 10 0 0 0 0
  | .mtsetSpad => encR 0x14 11 0 0 0 0
  | .mtsetShared => encR 0x14 12 0 0 0 0
  | .mtsetTcm => encR 0x14 13 0 0 0 0
  | .barinit a => encK 0 a.rd a.b.toNat a.xs
  | .barArrive b => encK 1 0 b.toNat 0
  | .barSync b => encK 2 0 b.toNat 0
  | .barinitSq a => encK 4 a.rd a.b.toNat a.xs
  | .barArriveSq b => encK 5 0 b.toNat 0
  | .barSyncSq b => encK 6 0 b.toNat 0
  | .vle a => encM 0x20 0 0 a 0
  | .vls a b => encM 0x20 1 0 a b
  | .vlx a => encM 0x20 2 0 a 0
  | .vlff a => encM 0x20 3 0 a 0
  | .vlb a b => encM 0x21 0 0 a b
  | .vse a => encM 0x21 1 0 a 0
  | .vss a b => encM 0x21 2 0 a b
  | .vsx a => encM 0x21 3 0 a 0
  | .vsb a b => encM 0x22 0 0 a b
  | .vamo op a => encM 0x22 1 op.code a 0
  | .vadd a => encV 0x24 0 a
  | .vsub a => encV 0x24 1 a
  | .vmul a => encV 0x24 2 a
  | .vmulh a => encV 0x24 3 a
  | .vdiv a => encV 0x25 0 a
  | .vrem a => encV 0x25 1 a
  | .vmin a => encV 0x25 2 a
  | .vmax a => encV 0x25 3 a
  | .vand a => encV 0x26 0 a
  | .vor a => encV 0x26 1 a
  | .vxor a => encV 0x26 2 a
  | .vsll a => encV 0x26 3 a
  | .vsrl a => encV 0x27 0 a
  | .vsra a => encV 0x27 1 a
  | .vfadd a => encV 0x28 0 a
  | .vfsub a => encV 0x28 1 a
  | .vfmul a => encV 0x28 2 a
  | .vfdiv a => encV 0x28 3 a
  | .vfma a => encV 0x29 0 a
  | .vfms a => encV 0x29 1 a
  | .vfnma a => encV 0x29 2 a
  | .vfsqrt a => encVU 0x29 3 a
  | .vfmin a => encV 0x2A 0 a
  | .vfmax a => encV 0x2A 1 a
  | .vfcvt a => encVU 0x2A 2 a
  | .vwma a => encV 0x2A 3 a
  | .vwait a => maj 0x2B + a.md * 2 ^ 8 + a.gov.code * 2 ^ 11 + a.vs1 * 2 ^ 13 + a.vs2 * 2 ^ 18 + a.xs * 2 ^ 23
      + VWaitArgs.scopeCode a.scope * 2 ^ 28
  | .pmov fd fs1 => encP 0x2C 0 0 0 0 0 fs1 fd
  | .pzero fd => encP 0x2C 1 0 0 0 0 0 fd
  | .padd a => encP3 2 0 a
  | .psub a => encP3 3 0 a
  | .pmul m a => encP3 4 m.code a
  | .pdiff d fd fs1 => encP 0x2C 5 d.code 0 0 0 fs1 fd
  | .pproj fd fs1 q => encP 0x2C 6 0 0 q.toNat 0 fs1 fd
  | .ptrace fd fs1 f => encP 0x2C 7 0 0 0 f.toNat fs1 fd
  | .pscl a => encP 0x2D 0 a.gov.code a.xs a.vs 0 a.fs1 a.fd
  | .paxpy a => encPWin 1 a
  | .pint a => encPVec 2 a
  | .peval a => encPVec 3 a
  | .pjump a => encPWin 4 a
  | .pavg a => encPWin 5 a
  | .ppop fd x => encP 0x2D 6 0 x 0 0 0 fd
  | .ppush f x => encP 0x2D 6 1 x 0 0 f 0
  | .pset fd x => encP 0x2D 7 0 x 0 0 0 fd
  | .psetDg fd x => encP 0x2D 7 1 x 0 0 0 fd
  | .pget x f => encP 0x2D 7 2 x 0 0 f 0
  | .pgetDg x f => encP 0x2D 7 3 x 0 0 f 0
  | .vcmp a => encVf 0x30 0 a.fmt a.gov.code a.src2.form a.src2.field a.vs1 (a.md + a.cond.code * 8)
  | .vfcmp a => encVf 0x30 1 a.fmt a.gov.code a.src2.form a.src2.field a.vs1 (a.md + a.cond.code * 8)
  | .vmerge a => encV 0x30 2 a
  | .vmv a => encVf 0x30 3 a.fmt a.gov.code a.src2.form a.src2.field 0 a.vd
  | .vslideup a => encV 0x31 0 a
  | .vslidedn a => encV 0x31 1 a
  | .vperm a => encV 0x31 2 a
  | .vcompress a => encVU 0x31 3 a
  | .vexpand a => encVU 0x32 0 a
  | .viota a => encVf 0x32 1 a.fmt a.gov.code a.src2.form a.src2.field a.ms a.vd
  | .vpruneN4M8 a => encPrune 0x32 2 a
  | .vredsum a => encV 0x33 0 a
  | .vredmin a => encV 0x33 1 a
  | .vredmax a => encV 0x33 2 a
  | .vscan a => encV 0x33 3 a
  | .vfredsum a => encV 0x34 0 a
  | .vfredmin a => encV 0x34 1 a
  | .vfredmax a => encV 0x34 2 a
  | .vfscan a => encV 0x34 3 a
  | .vmand a => encMM 0x35 0 a
  | .vmor a => encMM 0x35 1 a
  | .vmxor a => encMM 0x35 2 a
  | .vmandn a => encMM 0x35 3 a
  | .vmnot md ms => encVf 0x36 0 0 0 0 0 ms md
  | .vpopc a => encVf 0x36 1 0 a.gov.code 0 0 a.ms a.rd
  | .vfirst a => encVf 0x36 2 0 a.gov.code 0 0 a.ms a.rd
  | .vbrkb a => encMG 0x36 3 a
  | .vbrka a => encMG 0x37 0 a
  | .vbmand a => encVf 0x38 0 a.fmt 0 0 a.vs2 a.vs1 a.vd
  | .vbprefix a => encVf 0x38 1 a.fmt 0 1 a.xs a.vs1 a.vd
  | .visect a => encVf 0x38 2 a.fmt 0 0 a.vs2 a.vs1 a.vd
  | .vhacc a => encVf 0x38 3 a.fmt 0 0 a.vs2 a.vs1 a.xs
  | .vpruneN1M4 a => encPrune 0x39 0 a
  | .vpruneN2M4 a => encPrune 0x39 1 a
  | .vpruneN1M8 a => encPrune 0x39 2 a
  | .vpruneN2M8 a => encPrune 0x39 3 a
  | .hAddi d i => encH 0 d i.toNat
  | .hSeti d i => encH 1 d i.toNat
  | .hCopy d x => encH 2 d x
  | .hAdd d x => encH 3 d x
  | .hBz r o => encH 4 r o.toNat
  | .hBnz r o => encH 5 r o.toNat
  | .mldb a => encMat 0 a.fmt a.xs2 a.xs1 0 0 a.n
  | .mldbP a => encMat 1 a.fmt a.xs2 a.xs1 0 0 a.n
  | .mma a => encMat 2 a.fmt 0 0 a.vs a.acc a.panel
  | .mzero acc fmt => encMat 3 fmt 0 0 0 acc 0
  | .mst a => encMat 4 a.fmt a.xs2 a.xs1 0 a.n 0
  | .mldacc a => encMat 5 a.fmt a.xs2 a.xs1 0 a.n 0
  | .ecopy d x => encE 0 d x
  | .equant d x => encE 1 d x
  | .epack d x => encE 2 d x
  | .eunpack d x => encE 3 d x
  | .eseq d => encE 4 d 0
  | .evpop d x => encE 5 d x
  | _ => 0

/-- The length in bytes of an encoded instruction (R281). -/
def encodeLength : Instr → Nat
  | .hAddi .. | .hSeti .. | .hCopy .. | .hAdd .. | .hBz .. | .hBnz .. => 2
  | .mldb .. | .mldbP .. | .mma .. | .mzero .. | .mst .. | .mldacc ..
  | .ecopy .. | .equant .. | .epack .. | .eunpack .. | .eseq .. | .evpop .. => 8
  | _ => 4

/-- The bytes of an encoded instruction, in the order of their addresses (R1, R281). -/
def encodeBytes (i : Instr) : List Byte := leBytes (encodeLength i) (encode i)

/-- The decoder's reading of an instruction numbered as the opcode table numbers its bits; bits above `nbits` are
zero, up to the longest instruction. An event row has no encoding and no reading. -/
def decodeTableWord (nbits w : Nat) : Option Instr :=
  match decodeBytes (leBytes 8 (w % 2 ^ nbits)) with
  | .ok (i, _) => some i
  | .error _ => none

end Sys2Proof
end

