-- ==== Sys2Proof/Config.lean ====
section
/-! DEFINITION. What the Jarit 4160 fixes (R4, R7) and the values the manual leaves open, which are opaque
constants: nothing can be proved about their value. -/

namespace Sys2Proof.Config

/-- Compute dies of the package (R4, R5). -/
def dies : Nat := 4
/-- Clusters of a die (R7). -/
def clustersPerDie : Nat := 40
/-- Clusters of the package (R7). -/
def clusters : Nat := 160
/-- Lanes that a cluster presents to software (R8). -/
def lanes : Nat := 32
/-- Core pairs of a cluster (R7). -/
def pairs : Nat := 8
/-- Matrix panels and accumulator tiles of a cluster (R156). -/
def panels : Nat := 16
/-- Bytes of one TCM (R173). -/
def tcmBytes : Nat := 65536
/-- Bytes of a cluster's scratchpad (R7). -/
def spadBytes : Nat := 2097152
/-- Bytes of a die's shared SRAM (R4). -/
def sharedBytes : Nat := 33554432
/-- 64-byte lines that the L2 of one die holds: 64 MiB (R4). -/
def l2Lines : Nat := 2 ^ 20
/-- Bytes of the HBM tier (R178). -/
def hbmBytes : Nat := 2 ^ 39
/-- Bytes of the LPDDR tier (R178). -/
def lpddrBytes : Nat := 1536 * 2 ^ 30

/-- A free value: cycle counts that the manual does not fix (LODCYC, VBCONF; R66, R97), one for each number of
`State.fresh`. Log 6. -/
opaque freeValue : Nat → BitVec 48

/-- The SM3 digest of a byte string (R279): the manual names the algorithm and does not define it. Log 7. -/
opaque sm3 : List (BitVec 8) → BitVec 256

/-- The SM2 signature by the key held in fuses (R279). Log 7. -/
opaque sm2Sign : List (BitVec 8) → BitVec 512

/-- The fuse identity that an attestation report carries (R279). Log 7. -/
opaque fuseIdentity : BitVec 256

/-- The one Gauss–Lobatto–Legendre node of degree 0, times 2^640: R133 lists −1 and +1 for every degree, which leaves a count
of one open. Only the table I_{p,0} of R137 with p > 0 reads it (log 20). -/
opaque gllNode0 : Int

/-- A free value: the tile after an MMA whose panel or tile another strand has changed, between its checks and its grant, to a
format or mode that no check would have let pass (R159, R172; log 21). -/
opaque freeTile : Nat → BitVec 262144

/-- A free choice: which of the writes of an engine command that fails are performed (R190, R212; log 22). -/
opaque freeChoice : Nat → Nat → Bool

end Sys2Proof.Config
end

