-- ==== Sys2Proof/Machine/Num.lean ====
section
/-! DEFINITION. Number formats, exact values, roundings and delivery (R102 to R116, file 05). Every finite value of
every format is `(-1)^neg * mant * 2^exp`, so every operation is exact until its one rounding. -/

namespace Sys2Proof.Machine

/-- The exception flags, in the order of FCSR bits [4:0] (R117). -/
structure Flags where
  nx : Bool
  uf : Bool
  of : Bool
  dz : Bool
  nv : Bool
  deriving DecidableEq, Repr

/-- No flag. -/
def Flags.none : Flags := ⟨false, false, false, false, false⟩
/-- Invalid alone. -/
def Flags.invalid : Flags := ⟨false, false, false, false, true⟩
/-- Inexact alone, when `b`. -/
def Flags.inexact (b : Bool) : Flags := ⟨b, false, false, false, false⟩
/-- Overflow with inexact. -/
def Flags.overflow : Flags := ⟨true, false, true, false, false⟩
/-- Underflow with inexact. -/
def Flags.underflow : Flags := ⟨true, true, false, false, false⟩
/-- Invalid, when `b`. -/
def Flags.invalidIf (b : Bool) : Flags := ⟨false, false, false, false, b⟩
/-- Divide by zero alone. -/
def Flags.divZero : Flags := ⟨false, false, false, true, false⟩

/-- The OR of two flag sets (R117). -/
def Flags.or (a b : Flags) : Flags :=
  ⟨a.nx || b.nx, a.uf || b.uf, a.of || b.of, a.dz || b.dz, a.nv || b.nv⟩

/-- Flags as FCSR bits [4:0] (R117). -/
def Flags.toBits (f : Flags) : BitVec 5 :=
  BitVec.ofBool f.nv ++ BitVec.ofBool f.dz ++ BitVec.ofBool f.of ++ BitVec.ofBool f.uf ++ BitVec.ofBool f.nx

/-- Rounding modes, in the code order of R103. -/
inductive Rnd | rne | rtz | rdn | rup | rna
  deriving DecidableEq, Repr

/-- The rounding mode of a 3-bit code; codes 5 to 7 name none (R93, R117). -/
def Rnd.ofCode (c : Nat) : Option Rnd :=
  match c with
  | 0 => some .rne
  | 1 => some .rtz
  | 2 => some .rdn
  | 3 => some .rup
  | 4 => some .rna
  | _ => none

/-- The formats of R93. -/
inductive Fmt
  | fp64 | fp32 | bf16 | fp16 | e4m3 | e5m2 | e2m3 | e3m2 | e2m1 | t8 | t6 | e8m0
  | i64 | i32 | i16 | i8 | i4 | n64 | n32 | n16 | n8 | n4
  deriving DecidableEq, Repr

/-- The format of a 5-bit code (R93). -/
def Fmt.ofCode (c : Nat) : Option Fmt :=
  match c with
  | 0x00 => some .fp64 | 0x01 => some .fp32 | 0x02 => some .bf16 | 0x03 => some .fp16
  | 0x04 => some .e4m3 | 0x05 => some .e5m2 | 0x06 => some .e2m3 | 0x07 => some .e3m2
  | 0x08 => some .e2m1 | 0x09 => some .t8 | 0x0A => some .t6 | 0x0B => some .e8m0
  | 0x10 => some .i64 | 0x11 => some .i32 | 0x12 => some .i16 | 0x13 => some .i8 | 0x14 => some .i4
  | 0x18 => some .n64 | 0x19 => some .n32 | 0x1A => some .n16 | 0x1B => some .n8 | 0x1C => some .n4
  | _ => none

/-- The code of a format (R93). -/
def Fmt.code : Fmt → Nat
  | .fp64 => 0x00 | .fp32 => 0x01 | .bf16 => 0x02 | .fp16 => 0x03
  | .e4m3 => 0x04 | .e5m2 => 0x05 | .e2m3 => 0x06 | .e3m2 => 0x07
  | .e2m1 => 0x08 | .t8 => 0x09 | .t6 => 0x0A | .e8m0 => 0x0B
  | .i64 => 0x10 | .i32 => 0x11 | .i16 => 0x12 | .i8 => 0x13 | .i4 => 0x14
  | .n64 => 0x18 | .n32 => 0x19 | .n16 => 0x1A | .n8 => 0x1B | .n4 => 0x1C

/-- The element width of a format in bits (R94 step 5). -/
def Fmt.width : Fmt → Nat
  | .fp64 | .i64 | .n64 => 64
  | .fp32 | .i32 | .n32 => 32
  | .bf16 | .fp16 | .i16 | .n16 => 16
  | .e4m3 | .e5m2 | .e2m3 | .e3m2 | .t8 | .t6 | .e8m0 | .i8 | .n8 => 8
  | .e2m1 | .i4 | .n4 => 4

/-- The class INT of R416. -/
def Fmt.isInt : Fmt → Bool
  | .i64 | .i32 | .i16 | .i8 | .i4 | .n64 | .n32 | .n16 | .n8 | .n4 => true
  | _ => false

/-- The class FLT of R416. -/
def Fmt.isFlt : Fmt → Bool
  | .fp64 | .fp32 | .bf16 | .fp16 | .e4m3 | .e5m2 | .e2m3 | .e3m2 | .e2m1 | .t8 | .t6 => true
  | _ => false

/-- Signed integer formats (R113). -/
def Fmt.isSigned : Fmt → Bool
  | .i64 | .i32 | .i16 | .i8 | .i4 => true
  | _ => false

/-- The MX element formats (R114). -/
def Fmt.isMx : Fmt → Bool
  | .e4m3 | .e5m2 | .e2m3 | .e3m2 | .e2m1 => true
  | _ => false

/-- Tapered formats (R109, R110). -/
def Fmt.isTapered : Fmt → Bool
  | .t8 | .t6 => true
  | _ => false

/-- Exponent bits, fraction bits and bias of a binary format (R106, R107). -/
structure FParams where
  eb : Nat
  mb : Nat
  bias : Nat
  deriving DecidableEq, Repr

/-- The parameters of each binary format (R106, R107). Formats of other kinds get those of FP64, which nothing reads. -/
def Fmt.params : Fmt → FParams
  | .fp32 => ⟨8, 23, 127⟩
  | .bf16 => ⟨8, 7, 127⟩
  | .fp16 => ⟨5, 10, 15⟩
  | .e4m3 => ⟨4, 3, 7⟩
  | .e5m2 => ⟨5, 2, 15⟩
  | .e2m3 => ⟨2, 3, 1⟩
  | .e3m2 => ⟨3, 2, 3⟩
  | .e2m1 => ⟨2, 1, 1⟩
  | _ => ⟨11, 52, 1023⟩

/-- Formats whose top exponent holds infinities and NaNs as in IEEE 754 (R106, R107). -/
def Fmt.isIeee : Fmt → Bool
  | .fp64 | .fp32 | .bf16 | .fp16 | .e5m2 => true
  | _ => false

/-- Formats that have signalling NaNs (R105). -/
def Fmt.hasSignalling : Fmt → Bool
  | .fp64 | .fp32 | .bf16 | .fp16 => true
  | _ => false

/-- The largest finite value of a binary format as mantissa and exponent (R106, R107). -/
def Fmt.maxFinite (f : Fmt) : Nat × Int :=
  let p := f.params
  if f.isIeee then (2 ^ (p.mb + 1) - 1, (2 ^ p.eb - 2 : Int) - p.bias - p.mb)
  else if f = .e4m3 then (2 ^ (p.mb + 1) - 2, (2 ^ p.eb - 1 : Int) - p.bias - p.mb)
  else (2 ^ (p.mb + 1) - 1, (2 ^ p.eb - 1 : Int) - p.bias - p.mb)

/-- Emax of R115: the exponent of the largest finite value. -/
def Fmt.emax : Fmt → Int
  | .e4m3 => 8
  | .e5m2 => 15
  | .e2m3 => 2
  | .e3m2 => 4
  | .e2m1 => 2
  | _ => 0

/-- The default NaN (R105). Formats without a NaN deliver +0 (R112). -/
def Fmt.defaultNaN : Fmt → Nat
  | .fp64 => 0x7FF8000000000000
  | .fp32 => 0x7FC00000
  | .fp16 => 0x7E00
  | .bf16 => 0x7FC0
  | .e4m3 => 0x7F
  | .e5m2 => 0x7E
  | .t8 => 0x80
  | .t6 => 0x20
  | .e8m0 => 0xFF
  | _ => 0

/-- An exact value: NaN, an infinity, or `(-1)^neg * mant * 2^exp`; `mant = 0` is a signed zero (R102). -/
inductive Val
  | nan (signalling : Bool)
  | inf (neg : Bool)
  | fin (neg : Bool) (mant : Nat) (exp : Int)
  deriving DecidableEq, Repr

/-- `|a| * 2^k` for a shift that may be negative, as numerator and denominator. -/
def shiftQuot (m : Nat) (k : Int) : Nat × Nat :=
  if 0 ≤ k then (m <<< k.toNat, 1) else (m, 1 <<< (-k).toNat)

/-- Comparison of two non-negative dyadics. -/
def cmpMag (m1 : Nat) (e1 : Int) (m2 : Nat) (e2 : Int) : Ordering :=
  let e := min e1 e2
  compare (m1 <<< (e1 - e).toNat) (m2 <<< (e2 - e).toNat)

/-- Comparison of two finite values, by their real value. -/
def cmpFin (n1 : Bool) (m1 : Nat) (e1 : Int) (n2 : Bool) (m2 : Nat) (e2 : Int) : Ordering :=
  let s1 := n1 && m1 ≠ 0
  let s2 := n2 && m2 ≠ 0
  match s1, s2 with
  | false, false => cmpMag m1 e1 m2 e2
  | true, true => cmpMag m2 e2 m1 e1
  | true, false => .lt
  | false, true => .gt

/-- Does rounding step away from zero? `half` compares the remainder with one half, `odd` is the low bit (R103). -/
def roundsAway (rnd : Rnd) (neg odd : Bool) (half : Ordering) : Bool :=
  match rnd with
  | .rne => half == .gt || (half == .eq && odd)
  | .rtz => false
  | .rdn => neg
  | .rup => !neg
  | .rna => half != .lt

/-- `|x| = num / den` rounded to an integer, and whether it was inexact (R103). -/
def roundQuot (rnd : Rnd) (neg : Bool) (num den : Nat) : Nat × Bool :=
  let lo := num / den
  let r := num % den
  if r = 0 then (lo, false)
  else if roundsAway rnd neg (lo % 2 = 1) (compare (2 * r) den) then (lo + 1, true) else (lo, true)

/-- The exponent of the leading bit of `mant * 2^exp`, for a non-zero mantissa. -/
def floorLog2 (mant : Nat) (exp : Int) : Int := (Nat.log2 mant : Int) + exp

/-- A non-zero magnitude rounded to `prec` bits with the exponent unbounded below and above (R104, R115). -/
def roundUnbounded (prec : Nat) (rnd : Rnd) (neg : Bool) (mant : Nat) (exp : Int) : Nat × Int × Bool :=
  let q := floorLog2 mant exp - (prec - 1 : Nat)
  let (n, d) := shiftQuot mant (exp - q)
  let (m, ix) := roundQuot rnd neg n d
  (m, q, ix)

/-- A non-zero magnitude rounded to `prec` bits, with no quantum below `2^qmin` (R103, R104). -/
def roundBounded (prec : Nat) (qmin : Int) (rnd : Rnd) (neg : Bool) (mant : Nat) (exp : Int) : Nat × Int × Bool :=
  let q := max (floorLog2 mant exp - (prec - 1 : Nat)) qmin
  let (n, d) := shiftQuot mant (exp - q)
  let (m, ix) := roundQuot rnd neg n d
  (m, q, ix)

/-- The bits of a finite value `m * 2^q` that a binary format holds exactly. -/
def Fmt.encodeFinite (f : Fmt) (neg : Bool) (m : Nat) (q : Int) : Nat :=
  let p := f.params
  let sign := if neg then 1 <<< (p.eb + p.mb) else 0
  if m = 0 then sign
  else
    let e := floorLog2 m q
    let emin : Int := 1 - (p.bias : Int)
    if e < emin then
      let (n, d) := shiftQuot m (q - (emin - p.mb))
      sign + n / d
    else
      let (n, d) := shiftQuot m (q - (e - p.mb))
      sign + ((e + p.bias).toNat <<< p.mb) + (n / d - 1 <<< p.mb)

/-- The bits of an infinity in an IEEE-like format. -/
def Fmt.infBits (f : Fmt) (neg : Bool) : Nat :=
  let p := f.params
  (if neg then 1 <<< (p.eb + p.mb) else 0) + ((2 ^ p.eb - 1) <<< p.mb)

/-- The bits of plus or minus the largest finite value. -/
def Fmt.maxBits (f : Fmt) (neg : Bool) : Nat :=
  let (m, e) := f.maxFinite
  f.encodeFinite neg m e

/-- Does IEEE 754 overflow of this sign under this rounding deliver an infinity? -/
def overflowsToInf (rnd : Rnd) (neg : Bool) : Bool :=
  match rnd with
  | .rne | .rna => true
  | .rtz => false
  | .rdn => neg
  | .rup => !neg

/-- Decoding of a binary format (R106, R107): bits above the format's own are ignored. -/
def Fmt.decodeBinary (f : Fmt) (bits : Nat) : Val :=
  let p := f.params
  let neg := bits.testBit (p.eb + p.mb)
  let e := (bits >>> p.mb) % 2 ^ p.eb
  let m := bits % 2 ^ p.mb
  let top := 2 ^ p.eb - 1
  if f.isIeee && e = top then
    if m = 0 then .inf neg else .nan (f.hasSignalling && !m.testBit (p.mb - 1))
  else if f = .e4m3 && e = top && m = 2 ^ p.mb - 1 then .nan false
  else if e = 0 then .fin neg m (1 - (p.bias : Int) - p.mb)
  else .fin neg (m + 2 ^ p.mb) ((e : Int) - p.bias - p.mb)

/-- Length of the run of bits equal to `b` from bit `i` downward (R109). -/
def runLength (m : Nat) (b : Bool) : Nat → Nat
  | 0 => if m.testBit 0 = b then 1 else 0
  | i + 1 => if m.testBit (i + 1) = b then 1 + runLength m b i else 0

/-- The magnitude of a non-zero T8 field M (R109), as mantissa and exponent. -/
def t8Mag (m : Nat) : Nat × Int :=
  let b := m.testBit 6
  let k := runLength m b 6
  let r : Int := if b then (k : Int) - 1 else -(k : Int)
  let e := if k ≤ 5 then (m.testBit (5 - k)).toNat else 0
  let w := 5 - k
  let f := m % 2 ^ w
  (2 ^ w + f, 2 * r + e - w)

/-- The magnitude of a non-zero T6 field M (R110). -/
def t6Mag (m : Nat) : Nat × Int :=
  let b := m.testBit 4
  let k := runLength m b 4
  let r : Int := if b then (k : Int) - 1 else -(k : Int)
  let w := 4 - k
  (2 ^ w + m % 2 ^ w, r - w)

/-- Magnitude of field `m` of a tapered format. -/
def Fmt.taperedMag (f : Fmt) (m : Nat) : Nat × Int := if f = .t8 then t8Mag m else t6Mag m

/-- The largest magnitude field of a tapered format. -/
def Fmt.taperedTop (f : Fmt) : Nat := if f = .t8 then 127 else 31

/-- The sign bit's weight in a tapered format. -/
def Fmt.taperedSign (f : Fmt) : Nat := if f = .t8 then 128 else 32

/-- Decoding of a tapered format (R109, R110). -/
def Fmt.decodeTapered (f : Fmt) (bits : Nat) : Val :=
  let neg := (bits / f.taperedSign) % 2 = 1
  let m := bits % f.taperedSign
  if m = 0 then (if neg then .nan false else .fin false 0 0)
  else let (mant, e) := f.taperedMag m; .fin neg mant e

/-- The largest field `j ≤ n` whose magnitude does not exceed the value (0 when none). -/
def Fmt.taperedFloor (f : Fmt) (mant : Nat) (exp : Int) : Nat → Nat
  | 0 => 0
  | n + 1 =>
    let (m, e) := f.taperedMag (n + 1)
    if cmpMag m e mant exp == .gt then taperedFloor f mant exp n else n + 1

/-- Delivery of an exact value into T8 or T6 (R111). SAT has no effect there. -/
def Fmt.deliverTapered (f : Fmt) (rnd : Rnd) (v : Val) : Nat × Flags :=
  match v with
  | .nan _ => (f.defaultNaN, .none)
  | .inf _ => (f.defaultNaN, .invalid)
  | .fin neg mant exp =>
    if mant = 0 then (0, .none)
    else
      let s := if neg then f.taperedSign else 0
      let lo := f.taperedFloor mant exp f.taperedTop
      if lo = 0 then (s + 1, .underflow)
      else
        let (m, e) := f.taperedMag lo
        if cmpMag m e mant exp == .eq then (s + lo, .none)
        else if lo = f.taperedTop then (s + lo, .overflow)
        else
          let (m', e') := f.taperedMag (lo + 1)
          let q := min e e'
          let sum := (m <<< (e - q).toNat) + (m' <<< (e' - q).toNat)
          let half := cmpMag mant (exp + 1) sum q
          if roundsAway rnd neg (lo % 2 = 1) half then (s + lo + 1, .inexact true) else (s + lo, .inexact true)

/-- Delivery of an exact value into a binary format (R102 to R107, R112). -/
def Fmt.deliverBinary (f : Fmt) (rnd : Rnd) (sat : Bool) (v : Val) : Nat × Flags :=
  let p := f.params
  let tiny := f = .e2m3 || f = .e3m2 || f = .e2m1
  match v with
  | .nan _ => if tiny then (0, .invalid) else (f.defaultNaN, .none)
  | .inf neg =>
    if tiny then (f.maxBits neg, .invalid)
    else if sat then (f.maxBits neg, .none)
    else if f = .e4m3 then (f.defaultNaN, .invalid)
    else (f.infBits neg, .none)
  | .fin neg mant exp =>
    if mant = 0 then (f.encodeFinite neg 0 0, .none)
    else
      let emin : Int := 1 - (p.bias : Int)
      let (m, q, ix) := roundBounded (p.mb + 1) (emin - p.mb) rnd neg mant exp
      let (mm, me) := f.maxFinite
      if cmpMag m q mm me == .gt then
        if tiny || sat then (f.maxBits neg, .overflow)
        else if overflowsToInf rnd neg then
          (if f = .e4m3 then f.defaultNaN else f.infBits neg, .overflow)
        else (f.maxBits neg, .overflow)
      else
        let (um, uq, _) := roundUnbounded (p.mb + 1) rnd neg mant exp
        let isTiny := cmpMag um uq 1 emin == .lt
        (f.encodeFinite neg m q, ⟨ix, ix && isTiny, false, false, false⟩)

/-- Conversion of an exact value into E8M0 (R108). -/
def deliverE8M0 (rnd : Rnd) (v : Val) : Nat × Flags :=
  match v with
  | .nan _ | .inf _ => (0xFF, .invalid)
  | .fin neg mant exp =>
    if mant = 0 || neg then (0xFF, .invalid)
    else
      let e := floorLog2 mant exp
      let exact := mant = 2 ^ Nat.log2 mant
      let half := cmpMag mant exp 3 (e - 1)
      let up := !exact && roundsAway rnd false ((e + 127) % 2 = 1) half
      let e' := if up then e + 1 else e
      if e' < -127 then (0x00, .underflow)
      else if e' > 127 then (0xFE, .overflow)
      else ((e' + 127).toNat, .inexact (!exact))

/-- An exact integer delivered into an integer format: wrapped, or clamped with SAT (R113). -/
def Fmt.deliverInt (f : Fmt) (sat : Bool) (x : Int) : Nat :=
  let w := f.width
  let lo : Int := if f.isSigned then -(2 ^ (w - 1) : Int) else 0
  let hi : Int := if f.isSigned then (2 ^ (w - 1) : Int) - 1 else (2 ^ w : Int) - 1
  let y := if sat then max lo (min hi x) else x
  (y % (2 ^ w : Int)).toNat

/-- A value converted to an integer format: rounded, clamped, with R113's flags. -/
def Fmt.convertToInt (f : Fmt) (rnd : Rnd) (v : Val) : Nat × Flags :=
  let w := f.width
  let lo : Int := if f.isSigned then -(2 ^ (w - 1) : Int) else 0
  let hi : Int := if f.isSigned then (2 ^ (w - 1) : Int) - 1 else (2 ^ w : Int) - 1
  match v with
  | .nan _ => (0, .invalid)
  | .inf neg => (f.deliverInt false (if neg then lo else hi), .invalid)
  | .fin neg mant exp =>
    let (n, d) := shiftQuot mant exp
    let (m, ix) := roundQuot rnd neg n d
    let x : Int := if neg then -(m : Int) else m
    if x < lo then (f.deliverInt false lo, .invalid)
    else if hi < x then (f.deliverInt false hi, .invalid)
    else (f.deliverInt false x, .inexact ix)

/-- An integer element, signed under an I code and unsigned under an N code (R417). -/
def Fmt.decodeInt (f : Fmt) (bits : Nat) : Int :=
  let w := f.width
  let b := bits % 2 ^ w
  if f.isSigned && b.testBit (w - 1) then (b : Int) - 2 ^ w else b

/-- An integer as an exact value. -/
def Val.ofInt (x : Int) : Val := .fin (x < 0) x.natAbs 0

/-- Exact decoding of an element of any format (R102, R106 to R110, R113). -/
def Fmt.decode (f : Fmt) (bits : Nat) : Val :=
  if f.isInt then .ofInt (f.decodeInt bits)
  else if f.isTapered then f.decodeTapered bits
  else if f = .e8m0 then (if bits % 256 = 255 then .nan false else .fin false 1 ((bits % 256 : Nat) - 127))
  else f.decodeBinary bits

/-- Delivery of an exact result into a floating-point or E8M0 destination (R102, R108, R111, R112). -/
def Fmt.deliver (f : Fmt) (rnd : Rnd) (sat : Bool) (v : Val) : Nat × Flags :=
  if f.isTapered then f.deliverTapered rnd v
  else if f = .e8m0 then deliverE8M0 rnd v
  else f.deliverBinary rnd sat v

/-- Is a value a NaN? -/
def Val.isNaN : Val → Bool
  | .nan _ => true
  | _ => false

/-- Is a value a signalling NaN (R105)? -/
def Val.isSNaN : Val → Bool
  | .nan s => s
  | _ => false

/-- Is a value an infinity? -/
def Val.isInf : Val → Bool
  | .inf _ => true
  | _ => false

/-- Is a value a zero? -/
def Val.isZero : Val → Bool
  | .fin _ m _ => m = 0
  | _ => false

/-- The sign of a value. -/
def Val.neg? : Val → Bool
  | .nan _ => false
  | .inf n => n
  | .fin n _ _ => n

/-- The negation of a value. -/
def Val.negate : Val → Val
  | .nan s => .nan s
  | .inf n => .inf (!n)
  | .fin n m e => .fin (!n) m e

/-- A value times a power of two (block scales, R114). -/
def Val.scale (v : Val) (k : Int) : Val :=
  match v with
  | .fin n m e => .fin n m (e + k)
  | _ => v

/-- The exact sum, with IEEE 754's zero signs: an exact zero is +0, and -0 under RDN (R123). -/
def Val.addExact (rnd : Rnd) (a b : Val) : Val × Flags :=
  match a, b with
  | .nan s, .nan t => (.nan false, .invalidIf (s || t))
  | .nan s, _ => (.nan false, .invalidIf s)
  | _, .nan t => (.nan false, .invalidIf t)
  | .inf n, .inf m => if n = m then (.inf n, .none) else (.nan false, .invalid)
  | .inf n, _ => (.inf n, .none)
  | _, .inf m => (.inf m, .none)
  | .fin n1 m1 e1, .fin n2 m2 e2 =>
    let e := min e1 e2
    let x1 : Int := (m1 <<< (e1 - e).toNat : Nat)
    let x2 : Int := (m2 <<< (e2 - e).toNat : Nat)
    let x := (if n1 then -x1 else x1) + (if n2 then -x2 else x2)
    if x = 0 then
      (if m1 = 0 && m2 = 0 && n1 = n2 then .fin n1 0 0 else .fin (rnd = .rdn) 0 0, .none)
    else (.fin (x < 0) x.natAbs e, .none)

/-- The exact product; zero times infinity is invalid (R353). -/
def Val.mulExact (a b : Val) : Val × Flags :=
  match a, b with
  | .nan s, .nan t => (.nan false, .invalidIf (s || t))
  | .nan s, _ => (.nan false, .invalidIf s)
  | _, .nan t => (.nan false, .invalidIf t)
  | .inf n, .inf m => (.inf (n != m), .none)
  | .inf n, .fin m k _ => if k = 0 then (.nan false, .invalid) else (.inf (n != m), .none)
  | .fin n k _, .inf m => if k = 0 then (.nan false, .invalid) else (.inf (n != m), .none)
  | .fin n1 m1 e1, .fin n2 m2 e2 => (.fin (n1 != n2) (m1 * m2) (e1 + e2), .none)

/-- a × b + d before the one rounding (R353, R433): an invalid product raises NV even beside a quiet NaN. -/
def Val.fmaExact (rnd : Rnd) (a b d : Val) : Val × Flags :=
  let (p, f) := a.mulExact b
  let (r, g) := p.addExact rnd d
  (r, f.or g)

/-- The quotient with a sticky low bit (round to odd at more than twice any format's precision), so that one later
rounding is the rounding of the exact quotient (R353). -/
def Val.divExact (a b : Val) : Val × Flags :=
  match a, b with
  | .nan s, .nan t => (.nan false, .invalidIf (s || t))
  | .nan s, _ => (.nan false, .invalidIf s)
  | _, .nan t => (.nan false, .invalidIf t)
  | .inf _, .inf _ => (.nan false, .invalid)
  | .inf n, .fin m _ _ => (.inf (n != m), .none)
  | .fin n _ _, .inf m => (.fin (n != m) 0 0, .none)
  | .fin n1 m1 e1, .fin n2 m2 e2 =>
    if m2 = 0 then (if m1 = 0 then (.nan false, .invalid) else (.inf (n1 != n2), .divZero))
    else if m1 = 0 then (.fin (n1 != n2) 0 0, .none)
    else
      let k := 160 + Nat.log2 m2 - Nat.log2 m1
      let num := m1 <<< k
      let sticky := if num % m2 = 0 then 0 else 1
      (.fin (n1 != n2) (2 * (num / m2) + sticky) (e1 - e2 - k - 1), .none)

/-- Integer square root by trial bits. -/
def isqrt (n : Nat) : Nat → Nat → Nat
  | 0, r => r
  | i + 1, r =>
    let c := r + 2 ^ i
    if c * c ≤ n then isqrt n i c else isqrt n i r

/-- The square root with a sticky low bit, as for `divExact` (R353). -/
def Val.sqrtExact (a : Val) : Val × Flags :=
  match a with
  | .nan s => (.nan false, .invalidIf s)
  | .inf n => if n then (.nan false, .invalid) else (.inf false, .none)
  | .fin n m e =>
    if m = 0 then (.fin n 0 0, .none)
    else if n then (.nan false, .invalid)
    else
      let k0 := 320 - Nat.log2 m
      let k := if (e - k0) % 2 = 0 then k0 else k0 + 1
      let x := m <<< k
      let r := isqrt x 164 0
      let sticky := if r * r = x then 0 else 1
      (.fin false (2 * r + sticky) ((e - k) / 2 - 1), .none)

/-- Real order on values that are not NaN. -/
def Val.cmp (a b : Val) : Ordering :=
  match a, b with
  | .fin n1 m1 e1, .fin n2 m2 e2 => cmpFin n1 m1 e1 n2 m2 e2
  | .inf n, .inf m => if n = m then .eq else if n then .lt else .gt
  | .inf n, _ => if n then .lt else .gt
  | _, .inf m => if m then .gt else .lt
  | _, _ => .eq

/-- FMIN and FMAX (R354): -0 counts as smaller than +0; a lone NaN gives the other source; two NaNs give a NaN. -/
def Val.minMax (wantMax : Bool) (a b : Val) : Val × Flags :=
  let fl := Flags.invalidIf (a.isSNaN || b.isSNaN)
  if a.isNaN && b.isNaN then (.nan false, fl)
  else if a.isNaN then (b, fl)
  else if b.isNaN then (a, fl)
  else
    let less := match a.cmp b with
      | .lt => true
      | .gt => false
      | .eq => a.neg? && !b.neg?
    (if less != wantMax then a else b, fl)

/-- The kinds of floating comparison (R354, R430). -/
def fCompare (c : FCond) (a b : Val) : Bool × Flags :=
  let sn := a.isSNaN || b.isSNaN
  let un := a.isNaN || b.isNaN
  match c with
  | .eq => (!un && a.cmp b == .eq, .invalidIf sn)
  | .lt => (!un && a.cmp b == .lt, .invalidIf un)
  | .le => (!un && a.cmp b != .gt, .invalidIf un)
  | .un => (un, .invalidIf sn)

/-- FCLASS's one-hot value (R354). -/
def fClass (f : Fmt) (bits : Nat) : Nat :=
  let p := f.params
  match f.decodeBinary bits with
  | .nan s => if s then 2 else 1
  | .inf n => if n then 2 ^ 9 else 2 ^ 2
  | .fin n m e =>
    if m = 0 then (if n then 2 ^ 6 else 2 ^ 5)
    else if floorLog2 m e < 1 - (p.bias : Int) then (if n then 2 ^ 7 else 2 ^ 4)
    else (if n then 2 ^ 8 else 2 ^ 3)

/-- The format of a precision suffix (R352). -/
def Prec.fmt : Prec → Fmt
  | .s => .fp32
  | .d => .fp64

/-- The integer format of an FCVT side (R355). -/
def IntTy.fmt : IntTy → Fmt
  | .w => .i32
  | .wn => .n32
  | .l => .i64
  | .ln => .n64

/-- The bits of an element that its format has: of the containers of six-bit formats bits [7:6] are ignored on read and written as zero
(R107). -/
def Fmt.significant (f : Fmt) (x : Nat) : Nat :=
  match f with
  | .e2m3 | .e3m2 | .t6 => x % 64
  | _ => x

/-! Format words (R93, R94). -/

/-- The fields of a format word. -/
structure FmtWord where
  src1 : Fmt
  src2 : Fmt
  dst : Fmt
  rnd : Rnd
  sat : Bool
  scaled : Bool
  deriving DecidableEq, Repr

end Sys2Proof.Machine
end

