-- ==== Sys2Proof/Machine/State.lean ====
section
/-! DEFINITION. The state of the Jarit 4160: everything the specification gives the machine, as plain data, with the
reasons a step can stop and the state right after reset. INVENTORY.md names the rule behind each field. -/

namespace Sys2Proof.Machine

/-- Why the machine stops. -/
inductive Fault
  /-- A die at 125 °C: the module has removed power from the package, and no step follows (R18). Raised by `step` in a
  state without power. Safe: the specification gives no further behaviour. -/
  | powerOff
  deriving DecidableEq, Repr

/-- Why an instruction has no meaning in the model. -/
inductive Refusal
  /-- An instruction that the model does not give a meaning to. Raised by no arm of `exec` once every instruction is
  modelled. Safe: the model stops. -/
  | notModelled (mnemonic : String)
  deriving DecidableEq, Repr

/-- A list of cells (address, byte), the model's memory (log 8): addresses strictly rise and no byte is zero. -/
abbrev Memory := List Host.Cell

/-- A trap cause on its way (R263). Code 0x8B stands for MEMERR with TCAUSE.STATE = 1 and TADDR 0 (R272). -/
structure Trap where
  code : BitVec 8
  addr : Word
  deriving DecidableEq, Repr

/-- What a waiting slice waits for. Only queue waits on the partner count for R68. -/
inductive Stall
  | cqEmpty | aqFull | aqEmpty | cqFull          -- scalar queues
  | slipLimit | sdqShort                         -- access slice on LDQ and SDQ
  | popUnreserved | sdqFull                      -- compute slice's VPOP/PPOP and VPUSH/PPUSH
  | popFilling                                   -- waits on memory
  | viqFull | viqBusy                            -- waits on the vector instruction queue
  | barrier | vwait | join | matrix
  | reply                                        -- waits on the host or a remote package
  | fetch                                        -- waits for a far line of its code
  | release                                      -- waits for the acknowledgements of a release's write-backs
  | flags (last : Bool)                          -- VWAIT waits for the lines of its flags, for its last check or another
  | detSpace                                     -- AMOFADD.DET waits for space (R223)
  | fault (t : Trap)                             -- the compute slice has stopped on this fault, and the access slice is yet to stop (R73)
  | halt                                         -- HALT before it completes (R358)
  deriving DecidableEq, Repr

/-- The barrier-wait record of a slice (R41, R268). -/
structure BarWait where
  squad : Bool
  bar : Nat
  gen : BitVec 32
  deriving DecidableEq, Repr

/-- An answer from the host or from a remote package that a slice has yet to take. -/
structure Reply where
  addr : Nat             -- the location key it is for
  ack : Bool             -- it ends the write-backs of a release
  ok : Bool
  data : List Byte
  deriving DecidableEq, Repr

/-- What one slice of a strand holds beside its registers (R20, R64, R81 to R83, R117). -/
structure Slice where
  pc : Word
  fcsr : BitVec 13
  vl : BitVec 24           -- VLA or VLC
  legal : Bool             -- VTYPE.LEGAL
  width : BitVec 3         -- VTYPE.WIDTH
  vstart : BitVec 24
  halted : Bool
  stall : Option Stall     -- the wait its last execution ended in
  barWait : Option BarWait
  waitReq : Option Nat     -- the outstanding request that the slice waits for
  reply : Option Reply
  popMark : Nat            -- accesses of the partner numbered below it come before its own (R61)
  sent : Nat               -- elements of the vector request packet that is outstanding (R249); 0 when none is
  deriving DecidableEq, Repr

/-- A slice at strand start (R29, R81 to R83, R117). -/
def Slice.start (pc : Word) : Slice := ⟨pc, 0, 0, false, 0, 0, false, none, none, none, none, 0, 0⟩

/-- A queue entry of LDQ or SDQ: descriptor (R54) and payload. FILLING is `full = false`; `arrived` says that its load has read
every element and only LDQ_SLOT_FULL is outstanding. `mark`: accesses of the pushing slice numbered below it precede the push (R61). -/
structure QSlot where
  count : BitVec 24
  width : BitVec 3
  full : Bool
  arrived : Bool
  filled : BitVec 24
  payload : VWord
  mark : Nat
  deriving DecidableEq, Repr

/-- An AQ entry (R56). -/
structure AqEntry where
  value : Word
  grant : Bool             -- KIND
  mark : Nat               -- as in QSlot
  deriving DecidableEq, Repr

/-- A CQ entry (R53). -/
structure CqEntry where
  value : Word
  mark : Nat               -- as in QSlot
  deriving DecidableEq, Repr

/-- An entry of the vector instruction queue (R98, R268). -/
structure ViqEntry where
  ins : Instr
  scalar : Word
  fmtWord : Word
  addr : Word
  slot : Option (BitVec 3)    -- the LDQ slot a VPOP or PPOP is bound to
  waiting : Bool              -- a marker that has not fired yet
  stamp : Nat                 -- logical time of its dispatch (log 12)
  mark : Nat                  -- accesses of the compute slice numbered below it precede the instruction (R61)
  passed : Bool               -- a younger instruction of the slice has executed (R72; log 17)
  deriving DecidableEq, Repr

/-- A matrix instruction that has left for the matrix queue, with the operands it read (R167). -/
structure MqEntry where
  ins : Instr
  fmtWord : Word
  vl : Nat
  a : VWord
  scales : VWord
  granted : Bool
  scalar : Word               -- of MLDB, MLDB.P, MLDACC and MST, xs1 and xs2 as in a ViqEntry (R268)
  addr : Word
  behind : Nat                -- entries of the vector instruction queue, from its head, that are older
  wait : Nat                  -- those of them, from the head, that complete before it reads its registers and begins (R100, R167, R168)
  entry : Option ViqEntry     -- the entry as which it left that queue past older ones
  deriving DecidableEq, Repr

/-- The scalar registers of a strand (R29, R259). -/
structure Regs where
  user : Vector Word 32        -- access user bank
  super : Vector Word 32       -- access supervisor bank
  comp : Vector Word 32        -- compute bank
  deriving DecidableEq, Repr

/-- Vector, mask and function state (R79, R127 to R129, R269). -/
structure VecState where
  v : Vector VWord 32
  m : Vector MWord 8
  f : Vector (Vector FWord 32) 8      -- physical function register, then lane
  pdesc : Vector (BitVec 25) 8
  dg : Vector (BitVec 4) 8
  vvalid : Vector (BitVec 2) 32
  mvalid : BitVec 8
  fvalid : Vector (BitVec 7) 8
  vdirty : BitVec 48
  deriving DecidableEq, Repr

/-- The queues of a strand (R53, R98, R167). -/
structure Queues where
  ldq : List QSlot             -- outstanding slots, oldest first
  ldqHead : BitVec 3           -- physical index of the oldest slot
  sdq : List QSlot
  sdqHead : BitVec 3
  aq : List AqEntry
  cq : List CqEntry
  viq : List ViqEntry
  headStall : Option Stall     -- what the head of `viq` waits for, when it is a VWAIT (R43)
  headReq : Option Nat         -- the outstanding request it waits for
  headReply : Option Reply
  mq : List MqEntry
  deriving DecidableEq, Repr

/-- Registers of the strand that no slice owns alone (R62, R66, R97, R175, R194, R222). -/
structure SysRegs where
  mtype : BitVec 2
  spstat : BitVec 2
  slip : BitVec 4
  lod : BitVec 48
  lodcyc : BitVec 48
  vbconf : BitVec 48
  vbrun : Bool                 -- a vector instruction has executed since VBCONF was last known (R97)
  ovf : Bool                   -- DETSTAT.OVF
  deriving DecidableEq, Repr

/-- Trap registers and privilege of a core pair (R258 to R261, R181, R270). -/
structure TrapRegs where
  priv : Bool                  -- the access slice runs at S
  tcause : Word
  taddr : Word
  tpca : Word
  tpcc : Word
  tstat : BitVec 53
  tscratch : Word
  tvec : Word
  ptbr : Word
  savearea : Word
  restaddr : Word
  vabsent : Bool
  held : Bool                  -- the compute slice is held (R261)
  accStop : Option Trap        -- the access slice stands stopped on this fault (R71)
  determ : Option Word         -- an engine command of the strand has met a conflict at this word (R220; log 22)
  preempt : Bool               -- a pre-emption is requested
  dead : Bool                  -- halted by a double fault or an abort (R265, R277)
  parked : Bool                -- parked by a HALT in a PREEMPT handler (R266)
  loading : Bool               -- placed again, and its context is yet to be loaded (R269)
  deriving DecidableEq, Repr

/-- A child of VFORK that has not been joined (R46). -/
structure Child where
  name : Nat                   -- k'
  completed : Bool
  kept : List (Nat × Nat)      -- its lanes, when it had completed before its gang was saved and is no strand any more (R47, R266)
  deriving DecidableEq, Repr

/-- Who and where a strand is (R20 to R22, R28, R46). -/
structure StrandId where
  lid : BitVec 32
  squad : Nat
  gang : Nat
  name : Nat                   -- x3 at strand start
  cluster : Nat                -- global cluster number
  pair : Nat
  lane0 : Nat
  lanes : Nat                  -- L
  parent : Option Nat          -- x3 of the parent of a VFORK child
  children : List Child
  trigger : Bool
  back : List (Nat × Nat)      -- lanes of joined children that do not adjoin its own yet: first lane and count (R47; log 54)
  deriving DecidableEq, Repr

/-- The path of an access (R198). -/
inductive Path | scalar | vector
  deriving DecidableEq, Repr

/-- Where a load that waits puts its data: a scalar register of a bank, or element `i` of the LDQ slot of an index. -/
inductive LoadTo
  | reg (side : Side) (priv : Bool) (rd : Reg) (size : LdSize)
  | slot (idx : BitVec 3) (i w : Nat) (hi : Bool)
  deriving DecidableEq, Repr

/-- A load that has been checked and has not read its data: the key, the bytes and where they go. -/
structure PendLoad where
  key : Nat
  n : Nat
  dst : LoadTo
  deriving DecidableEq, Repr

/-- The operations of an atomic. -/
inductive AtOp | add | and | or | xor | min | max | minn | maxn | swp | cas | fadd
  deriving DecidableEq, Repr

/-- An atomic that has been checked and is yet to be performed (R203): its operation, its key, its operand and the value that CAS expects.
-/
structure PendAtom where
  op : AtOp
  size : AtSize
  rnd : Rnd
  key : Nat
  value : Word
  expect : Word
  deriving DecidableEq, Repr

/-- Which accesses an acquire that has not read yet holds back (R207, R208): none for a plain access, the partner slice's for one at STRAND
scope, in which nobody else is, otherwise those of its own slice. -/
inductive Acquires | none | strand | all
  deriving DecidableEq, Repr

/-- What an ordering instruction between two accesses of its slice asks for (R204, R205, R210): accesses before it, on a path or on both and
of some kinds, are performed before such accesses after it. `strand` marks one that asks for it at STRAND scope alone. -/
structure Edge where
  fromPath : Option Path
  fromKind : FenceKind
  toPath : Option Path
  toKind : FenceKind
  strand : Bool
  deriving DecidableEq, Repr

/-- An access waiting in its FIFO towards each memory slice it touches (R203): a store of bytes and of nibbles, the reads of a load that
are one read of one line (R185), or an atomic, whose old value is its load. An ordering instruction that accesses of its slice stand
before waits among them, with an edge and no memory slice. -/
structure Access where
  side : Side
  path : Path
  mslices : List Nat
  num : Nat                    -- its number among the accesses of the strand, in the order of their issue (R61)
  after : Nat                  -- accesses of the partner slice numbered below it come first (R61)
  kind : FenceKind             -- reads, writes or both
  rel : Bool                   -- a release: every earlier access of its slice comes first (R207)
  acq : Acquires
  edge : Option Edge
  bytes : List (Nat × Byte)    -- location keys and the bytes to write
  half : List (Nat × Bool × Byte)  -- single nibbles: key, the high one?, value
  loads : List PendLoad
  atom : Option PendAtom
  deriving DecidableEq, Repr

/-- A strand. -/
structure Strand where
  id : StrandId
  acc : Slice
  cmp : Slice
  regs : Regs
  vec : VecState
  q : Queues
  sys : SysRegs
  trap : TrapRegs
  stores : List Access         -- accesses not yet performed, oldest first (R200, R203)
  issued : Nat                 -- numbers the accesses of the strand
  lost : List LostPart         -- its storage that holds an uncorrectable error (R272)
  deriving DecidableEq, Repr

/-- Who has arrived at a barrier, for the detector (R219): a slice of a strand, at a point of the detector's time. -/
structure BarArrival where
  detid : Nat
  side : Side
  stamp : Nat
  deriving DecidableEq, Repr

/-- A barrier (R37), with the arrivals of its generation, which the detector needs (R219). -/
structure Barrier where
  expected : Nat
  count : Nat
  gen : BitVec 32
  arrivals : List BarArrival
  deriving DecidableEq, Repr

/-- A panel (R156): tag none is EMPTY. -/
structure Panel where
  tag : Option (BitVec 5)
  scaled : Bool
  pruned : Bool
  weights : BitVec 131072         -- weight (k, n) at bit 8 * (256 k + n)
  index : BitVec 65536            -- nibble (j, n) of MLDB.P at bit 4 * (256 j + n)
  scales : BitVec 4096            -- scale (block, n) at bit 8 * (256 block + n)
  deriving DecidableEq, Repr

/-- A tile (R156): element (r, n) at bit 32 * (256 r + n). -/
structure Tile where
  isInt : Bool
  data : BitVec 262144
  deriving DecidableEq, Repr

/-- A resident gang (R22, R37, R156, R188). -/
structure Gang where
  lid : BitVec 32
  squad : Nat
  index : Nat
  cluster : Nat
  spadPage : Nat                  -- the name of the first 4 KiB page of its scratchpad allotment (log 58)
  spadPages : Nat
  npanels : Nat
  naccs : Nat
  bars : List (Nat × Barrier)     -- barriers that differ from the start state
  panels : List (Nat × Panel)
  tiles : List (Nat × Tile)
  records : List (List Byte)      -- engine records not yet popped
  outstanding : Nat               -- commands from issue to EVPOP
  maxSeq : Nat                    -- largest engine number the gang received (R349)
  deriving DecidableEq, Repr

/-- A resident squad (R23, R37). -/
structure Squad where
  lid : BitVec 32
  index : Nat
  die : Nat
  slot : Option Nat               -- save slot of a pre-emption (R266)
  bars : List (Nat × Barrier)
  completed : Bool
  deriving DecidableEq, Repr

/-- A launch packet (R25). -/
structure Packet where
  entrya : Word
  entryc : Word
  n : Word
  ctl : Word
  lid : BitVec 32
  pred : BitVec 32
  shbase : BitVec 16
  shsize : BitVec 16
  squads : BitVec 32
  doneaddr : Word
  doneval : Word
  args : List Word
  deriving DecidableEq, Repr

/-- A parked strand as the hub remembers it (R266, R268). -/
structure SavedStrand where
  gang : Nat
  name : Nat
  lanes : Nat
  laneOff : Nat                   -- lane offset from its gang member's partition start
  parent : Option Nat
  children : List Child
  trigger : Bool
  back : List (Nat × Nat)
  deriving DecidableEq, Repr

/-- A saved gang as the hub remembers it (R220, R267, R349). -/
structure SavedGang where
  cluster : Nat                   -- where it stood
  spadPage : Nat
  maxSeq : Nat
  sysFirst : Option Nat           -- the lowest command of its engine that ended OK at SYSTEM scope (R212)
  arrivals : List (Nat × List BarArrival)    -- arrivals of its barriers' generations, for the detector (R219)
  deriving DecidableEq, Repr

/-- A saved squad (R266, R267). -/
structure SavedSquad where
  index : Nat
  die : Nat
  slot : Nat
  strands : List SavedStrand
  gangs : List SavedGang          -- in gang order
  arrivals : List (Nat × List BarArrival)
  deriving DecidableEq, Repr

/-- What a die has of a HOST or REMOTE line of a launch's code (R198): `have_` marks the bytes it has. -/
structure CodeLine where
  die : Nat
  line : Nat
  have_ : BitVec 64
  data : BitVec 512
  deriving DecidableEq, Repr

/-- A launch in flight (R27, R31, R34, R266, R278). -/
structure Launch where
  pkt : Packet
  queue : Nat
  ptbr : Word
  nextSquad : Nat                 -- squads below this index have been placed
  done : Nat                      -- squads completed
  triggered : Bool                -- the trigger has fired
  atSystem : Bool                 -- some strand has executed LTRIG.SYSTEM (R49)
  loose : List Nat                -- dies on which strands have completed without triggering (R49)
  firing : List Nat               -- dies of such strands whose writes are on their way to SYSTEM scope
  parked : Bool
  go : Bool                       -- a GO is under way
  resume : Bool                   -- a RESUME is under way
  saveBase : Word                 -- latched SAVEBASE
  nextSlot : Nat
  saved : List SavedSquad
  savedCount : Nat
  ending : Nat                    -- 0 running, 1 its writes are being written back, 2 its completion write is under way (R34)
  faulty : Bool                   -- the completion write has failed (R34)
  code : Memory                   -- memory as it was when the launch started, which its strands fetch from (R198)
  codeLines : List CodeLine       -- and its HOST and REMOTE lines
  codeSent : List (Nat × BitVec 64)   -- far lines, and their bytes that this package has written since then
  deriving DecidableEq, Repr

/-- The checked head of a launch queue (R27, R31): it waits for its predecessor or for dispatch. -/
structure Head where
  pkt : Packet
  order : Nat                     -- order of the tail write that posted it
  deriving DecidableEq, Repr

/-- A launch queue (R280). -/
structure LaunchQueue where
  base : Word
  size : Word
  head : BitVec 32
  tail : BitVec 32
  ptbr : Word
  en : Bool
  err : Bool
  checked : Option Head
  posts : List (BitVec 32 × Nat)  -- tail values and the order in which they reached BAR0
  deriving DecidableEq, Repr

/-- The event queue (R280). -/
structure EventQueue where
  base : Word
  size : Word
  head : BitVec 32
  tail : BitVec 32
  en : Bool
  msix : Bool
  lost : BitVec 32
  held : List (List Byte)
  interrupts : Nat
  deriving DecidableEq, Repr

/-- A command that PREEMPTCTL.BUSY stands for (R278). -/
structure HubCommand where
  lid : BitVec 32
  resume : Bool
  abort : Bool
  deriving DecidableEq, Repr

/-- A sealed region (R279). -/
structure Seal where
  base : Word
  length : Word
  pages : List Nat                -- location keys of its physical pages, in virtual order
  digest : BitVec 256
  deriving DecidableEq, Repr

/-- A command of a copy engine (R187 to R190). -/
structure Command where
  seq : Nat
  op : Nat
  desc : List Byte
  owner : StrandId
  ptbr : Word
  priv : Bool
  failed : Option Nat             -- the code of a failed check at issue
  started : Bool
  moved : Bool                    -- its data have moved and it waits for a remote package
  released : Bool                 -- the write-backs of its release have been sent (R189)
  code : Nat                      -- code and numbers of its record, once moved
  failAddr : Word
  written : Nat
  needed : Nat
  deriving DecidableEq, Repr

/-- A copy engine (R188). -/
structure Engine where
  cluster : Nat
  issued : Nat
  done : Nat
  ended : List Nat                -- commands above `done` that have ended
  errs : BitVec 16
  cmds : List Command
  sysFirst : Option Nat           -- the lowest command that ended OK at SYSTEM scope (R212)
  deriving DecidableEq, Repr

/-- A cached translation (R179, R181). -/
structure TlbEntry where
  ptbr : Word
  vpn : Nat                       -- VA[55:16]
  leaf : Word
  level : Nat
  deriving DecidableEq, Repr

/-- A die's copy of a HOST or REMOTE line (R214). -/
structure L2Line where
  die : Nat
  line : Nat                      -- location key of its first byte, without the die
  filled : Bool                   -- every byte is present; otherwise only the dirty ones and those whose write-back is in flight
  data : BitVec 512
  dirty : BitVec 64
  flying : BitVec 64              -- bytes whose write-back has no answer yet (R246, R406)
  deriving DecidableEq, Repr

/-- Who waits for a request to the host or to a remote package. -/
inductive Requester
  | slice (strand : Nat) (side : Side)
  | queue (strand : Nat)             -- the VWAIT at the head of its vector instruction queue
  | engine (cluster seq : Nat)
  | engineLines                      -- nobody: the die's slice holds what a command wrote to the line until its RELMARK is answered (R200)
  | launch (lid : BitVec 32)         -- the hub, for this launch (R34, R267)
  | hub
  deriving DecidableEq, Repr

/-- An AtomicOp request to the host (R330): the operation as in OPX, its size in bytes, its operand and the value that CAS expects. -/
structure HostAtomic where
  op : Nat
  bytes : Nat
  value : Word
  expect : Word
  deriving DecidableEq, Repr

/-- An outstanding request (R249, R250, R333). -/
structure Request where
  id : Nat
  who : Requester
  addr : Nat                      -- location key
  fill : Bool                     -- its answer becomes the die's copy of the line
  stale : Bool                    -- unless the line may have been written or acquired since it left (R202, R216)
  die : Nat
  dst : BitVec 16                 -- target package
  cls : BitVec 2
  seq : BitVec 32
  remote : Bool
  wrote : List (Nat × BitVec 64)  -- far lines, and the bytes that an atomic or a packet writes at their home (R198)
  mask : BitVec 64                -- the bytes that a write-back carries
  data : BitVec 512               -- and the line as it stood
  atomic : Option HostAtomic
  flits : List (BitVec 2 × BitVec 32 × Nat)   -- the flits that it rests on: class, first SEQ, count
  deriving DecidableEq, Repr

/-- A posted write or an answer that leaves for the host (R13, R405). -/
structure HostOut where
  addr : Nat
  bytes : List Byte
  deriving DecidableEq, Repr

/-- One access as the detector records it: word, kind (0 R, 1 W, 2 C, 3 D), slice and stamp (R219, R220). -/
structure DetAcc where
  word : Nat
  kind : Nat
  side : Side
  stamp : Nat
  deriving DecidableEq, Repr

/-- What one strand has done to one line in the current interval (R220). -/
structure DetEntry where
  lid : BitVec 32
  squad : Nat
  line : Nat
  die : Nat                       -- whose slice holds the record: of a HOST or REMOTE line the die, otherwise 0 (R199)
  detid : Nat
  acc : List DetAcc
  deriving DecidableEq, Repr

/-- A line in fall-back (R221). -/
structure DetTags where
  lid : BitVec 32
  squad : Nat
  line : Nat
  die : Nat                       -- as in DetEntry
  tags : List (Nat × Nat)         -- word and DETID
  deriving DecidableEq, Repr

/-- A buffered AMOFADD.DET add (R223). -/
structure DetAdd where
  lid : BitVec 32
  squad : Nat
  addr : Nat                      -- location key
  size : AtSize
  detid : Nat
  seq : Nat
  value : Word
  deriving DecidableEq, Repr

/-- Separation known to a slice of a strand (R219): accesses of the slice `ofSide` of `of` before `stamp` are separated from later ones of the
slice `side` of `detid`. -/
structure DetSync where
  lid : BitVec 32
  squad : Nat
  detid : Nat
  side : Side
  of : Nat
  ofSide : Side
  stamp : Nat
  deriving DecidableEq, Repr

/-- Buffered adds to one aligned 8-byte word of a far line that were due when its die had not all of the word (R223): the bytes the die had
then, those written since, and the adds in order. Until they are applied the die has no other byte of the word that could be read. -/
structure DueAdds where
  die : Nat
  key : Nat
  known : List (Option Byte)
  newer : BitVec 8
  adds : List DetAdd
  deriving DecidableEq, Repr

/-- The detector (R218 to R224). -/
structure Detector where
  entries : List DetEntry
  fallback : List DetTags
  adds : List DetAdd
  due : List DueAdds
  sync : List DetSync
  deriving DecidableEq, Repr

/-- A flit that a package holds to send (R239 to R244): 0 relay custody, 1 retry, 2 CONTROL, 3 new. -/
structure GateFlit where
  flit : Flit
  cls : Nat
  port : Option Nat               -- the port that first sent it
  age : Nat                       -- its place among all flits queued or taken into custody (R244)
  deriving DecidableEq, Repr

/-- A flit sent in this window (R238). -/
structure SentFlit where
  slot : Nat
  item : GateFlit
  failed : Bool                   -- struck by a loss of light
  deriving DecidableEq, Repr

/-- A port (R231, R232). -/
structure Port where
  en : Bool
  actmask : BitVec 16
  lost : BitVec 16
  lit : BitVec 16
  turn : Nat
  lock : Bool
  cfgerr : Bool
  turns : BitVec 64
  rply : BitVec 48
  rearm : Bool
  window : Bool                   -- in the data window, not in the guard
  stopped : Bool                  -- sends nothing more in this window (R252)
  slot : Nat
  started : Bool                  -- has reached a turn with index 0 since it locked (R233)
  partner : Option (BitVec 16)    -- from the turn-start flit of this turn
  partnerLocked : Bool
  classes : List (BitVec 2)
  relayed : Nat                   -- flits relayed through this partner in this turn
  idle : Nat
  seen : Option Nat               -- turn index found last while acquiring
  sent : List SentFlit
  partnerAct : BitVec 16          -- ACTMASK of the turn-start flit received in this turn
  report : BitVec 16              -- wavelengths reported to the partner as dark (R253)
  held : BitVec 16                -- wavelengths that wait for the turn start after a re-arm (R254)
  counts : Bool                   -- has locked, so that PORTTURNS counts (R231)
  acks : List Nat                 -- slots of this turn's window whose data flit is acknowledged to the partner (R238)
  out : Option TurnFlit           -- the turn-start flit sent in this turn (R236)
  deriving DecidableEq, Repr

/-- What the package knows of one peer (R245, R246, R250). -/
structure Peer where
  id : BitVec 16
  ordNext : BitVec 32             -- SEQ of the next ORDERED flit to it
  freeNext : BitVec 32
  ordAcked : BitVec 32            -- NEXTO of its latest PACK
  freeAcked : BitVec 32
  nexto : BitVec 32               -- lowest ORDERED SEQ from it not yet performed
  lowf : BitVec 32
  window : List Flit              -- reorder window
  freeDone : List (BitVec 32)     -- FREE SEQs performed at or above `lowf`
  replies : List (BitVec 32 × Flit)  -- reply cache: SEQ of the ATOMIC, and the ATREPLY
  vec : List Byte                 -- vector request packet in progress
  packDue : Bool
  packAge : Nat                   -- its place among the queued flits (R244)
  deriving DecidableEq, Repr

/-- The fabric (R228 to R257). -/
structure Fabric where
  self : BitVec 10
  d : Nat
  rthresh : BitVec 4
  en : Bool
  timeout : BitVec 16
  cal : List (Nat × BitVec 16)    -- calendar entries that are not zero
  ports : List (Nat × Port)       -- ports that differ from the reset state
  gate : List GateFlit            -- queued and retry flits, in order
  custody : List GateFlit         -- flits held as relay, oldest first
  order : Nat                     -- place of the next flit queued or taken into custody
  peers : List Peer
  deriving DecidableEq, Repr

/-- Power, temperature and grants (R15 to R18, R89, R169). -/
structure Power where
  on : Bool
  celsius : Vector Nat 5
  milliwatt : Nat
  coolant : Bool
  thermalLanes : Nat
  thermalRate : Nat
  powerLanes : Nat
  powerRate : Nat
  lgrant : List (Nat × Nat)       -- clusters whose LGRANT.LANES is not 32
  mgrant : List (Nat × Nat)       -- clusters whose MGRANT.RATE is not 16
  deriving DecidableEq, Repr

/-- Saved training trims: their SM3 digest, and each die's temperature when they were saved (R275). -/
structure Trims where
  digest : BitVec 256
  celsius : Vector Nat 5
  deriving DecidableEq, Repr

/-- The hub (files 01, 02, 11). -/
structure Hub where
  phase : BitVec 4
  fail : BitVec 4
  ready : Bool
  fatal : Bool
  link0 : BitVec 4
  link1 : BitVec 4
  keep : Bool
  auto : Bool
  warm : Bool                     -- a warm start is due (R275)
  rtvec : Word
  pctlLid : BitVec 32
  pctlErr : Bool
  busy : Option HubCommand
  saveBase : Word
  queues : List (Nat × LaunchQueue)   -- queues that differ from the reset state
  postOrder : Nat
  events : EventQueue
  rejected : List (BitVec 32)         -- newest first, at most 1,024 (R27)
  present : Vector (BitVec 40) 4
  spared : List (Nat × BitVec 34)     -- faulty physical lanes that spare lanes stand in for (R8)
  trims : Option Trims
  seals : List Seal
  image : BitVec 256                  -- firmware image in use
  goodImage : BitVec 256              -- the image that verified last
  pending : Option (BitVec 256)
  imageRejected : Bool
  report : List Byte                  -- attestation report readable in BAR0
  monitor : List Nat                  -- the last PLDM answer
  deriving DecidableEq, Repr

/-- A turn of one agent: a slice of a resident strand, or an event. -/
inductive Turn
  | slice (strand : Nat) (side : Side)
  | event (e : Instr)
  deriving DecidableEq, Repr

/-- The whole machine. `agenda`, `side`, `delays`, `stops`, `fresh` and `stamp` are the model's own (log 2, 6, 12). -/
structure State where
  strand : Strand                 -- the strand in focus
  others : List Strand            -- the other resident strands
  gangs : List Gang
  squads : List Squad
  launches : List Launch
  mem : Memory
  bad : List Nat                  -- keys of 64-byte lines with an uncorrectable error (R272)
  tlb : List TlbEntry
  l2 : List L2Line
  reqs : List Request
  reqNext : Nat
  hostOut : List HostOut
  engines : List Engine
  det : Detector
  power : Power
  hub : Hub
  fab : Fabric
  side : Side                     -- the slice of the strand in focus whose turn it is
  agenda : List Turn              -- the turns that come first
  delays : List Bool              -- for each access to come: does its performance wait for an event?
  stops : List Nat                -- for each pre-emption to come: the element at which it stops a vector memory instruction (R75)
  fresh : Nat                     -- numbers the free values
  stamp : Nat                     -- logical time of the detector
  deriving DecidableEq, Repr

/-- No vector, mask or function state (R127 to R129). -/
def VecState.zero : VecState :=
  ⟨Vector.replicate 32 0, Vector.replicate 8 0, Vector.replicate 8 (Vector.replicate 32 0), Vector.replicate 8 0,
    Vector.replicate 8 0, Vector.replicate 32 0, 0, Vector.replicate 8 0, 0⟩

/-- Empty queues (R57). -/
def Queues.empty : Queues := ⟨[], 0, [], 0, [], [], [], none, none, none, []⟩

/-- The strand registers at strand start (R62, R66, R97, R175, R194, R222). -/
def SysRegs.start : SysRegs := ⟨0, 0, 8, 0, 0, 0, false, false⟩

/-- The trap registers of a core pair at placement: TVEC and PTBR given, every other one at its reset value (R181, R260). -/
def TrapRegs.start (tvec ptbr : Word) : TrapRegs :=
  ⟨false, 0, 0, 0, 0, 0, 0, tvec, ptbr, 0, 0, false, false, none, none, false, false, false, false⟩

/-- The three register banks, all zero. -/
def Regs.zero : Regs := ⟨Vector.replicate 32 0, Vector.replicate 32 0, Vector.replicate 32 0⟩

/-- The place in focus when no strand is resident: halted slices, which never run. -/
def Strand.vacant : Strand :=
  { id := ⟨0, 0, 0, 0, 0, 0, 0, 4, none, [], false, []⟩
    acc := { Slice.start 0 with halted := true }
    cmp := { Slice.start 0 with halted := true }
    regs := Regs.zero
    vec := VecState.zero
    q := Queues.empty
    sys := SysRegs.start
    trap := TrapRegs.start 0 0
    stores := []
    issued := 0
    lost := [] }

/-- A launch queue after reset (R280). -/
def LaunchQueue.reset : LaunchQueue := ⟨0, 0, 0, 0, 0, false, false, none, []⟩

/-- A port after reset (R231): nothing in progress, all wavelengths lit. -/
def Port.reset : Port :=
  { en := false, actmask := 0, lost := 0, lit := 0xFFFF, turn := 0, lock := false, cfgerr := false, turns := 0, rply := 0,
    rearm := false, window := false, stopped := false, slot := 0, started := false, partner := none, partnerLocked := false,
    classes := [], relayed := 0, idle := 0, seen := none, sent := [], partnerAct := 0, report := 0, held := 0, counts := false, acks := [],
    out := none }

/-- The fabric after reset (R229, R230). -/
def Fabric.reset : Fabric :=
  { self := 0, d := 1, rthresh := 2, en := false, timeout := 1000, cal := [], ports := [], gate := [], custody := [], order := 0,
    peers := [] }

/-- Power and grants after reset (R89, R169). -/
def Power.reset : Power :=
  { on := true, celsius := Vector.replicate 5 25, milliwatt := 0, coolant := true, thermalLanes := 32, thermalRate := 16,
    powerLanes := 32, powerRate := 16, lgrant := [], mgrant := [] }

/-- The event queue after reset (R280). -/
def EventQueue.reset : EventQueue := ⟨0, 0, 0, 0, false, false, 0, [], 0⟩

/-- The hub after reset, before the cold start has run: phase 1, all clusters present (R8, R274, R280). -/
def Hub.reset : Hub :=
  { phase := 1, fail := 0, ready := false, fatal := false, link0 := 0, link1 := 0, keep := false, auto := false, warm := false, rtvec := 0,
    pctlLid := 0, pctlErr := false, busy := none, saveBase := 0, queues := [], postOrder := 0, events := EventQueue.reset,
    rejected := [], present := Vector.replicate 4 0xFFFFFFFFFF, spared := [], trims := none, seals := [], image := 0, goodImage := 0, pending := none,
    imageRejected := false, report := [], monitor := [] }

/-- The machine right after reset: powered, nothing resident, memory clear (R274; logs 3, 5). -/
def State.reset : State :=
  { strand := Strand.vacant, others := [], gangs := [], squads := [], launches := [], mem := [], bad := [], tlb := [], l2 := [],
    reqs := [], reqNext := 0, hostOut := [], engines := [], det := ⟨[], [], [], [], []⟩, power := Power.reset, hub := Hub.reset,
    fab := Fabric.reset, side := .access, agenda := [], delays := [], stops := [], fresh := 0, stamp := 0 }

end Sys2Proof.Machine
end

