-- ==== Sys2Proof/Machine/Memory.lean ====
section
/-! DEFINITION. Memory as one list of cells in canonical form, and the numbering of every location of the machine by one
natural number, its key (log 8): HBM, LPDDR, shared SRAM, scratchpads, TCMs, and the lines of the HOST and REMOTE tiers,
which a die holds as copies (R173, R178, R199, R214). -/

namespace Sys2Proof.Machine

/-- The byte at a key; an unlisted byte reads as zero (log 8). -/
def Memory.get : Memory → Nat → Byte
  | [], _ => 0
  | (k, b) :: m, a => if a = k then b else if a < k then 0 else Memory.get m a

/-- Does every key of the list stand above `a`, when its keys rise? -/
def Memory.above (a : Nat) : Memory → Bool
  | [] => true
  | (k, _) :: _ => decide (a < k)

/-- Writing a byte keeps the canonical form: zero is not listed. In a list whose keys do not rise, which no run reaches, a zero stays
listed where it hides later cells, so that a read after a write gives what it should from every list. -/
def Memory.set : Memory → Nat → Byte → Memory
  | [], a, v => if v = 0 then [] else [(a, v)]
  | (k, b) :: m, a, v =>
    if a < k then (if v = 0 then (k, b) :: m else (a, v) :: (k, b) :: m)
    else if a = k then (if v = 0 && Memory.above a m then m else (a, v) :: m)
    else (k, b) :: Memory.set m a v

/-- Every key of the list is above `lo`, keys rise strictly, and no byte is zero. -/
def Memory.wfFrom (lo : Nat) : Memory → Bool
  | [] => true
  | (k, b) :: m => decide (lo ≤ k) && decide (b ≠ 0) && Memory.wfFrom (k + 1) m

/-- The canonical form. -/
def Memory.wf (m : Memory) : Bool := Memory.wfFrom 0 m

/-- Writing a list of bytes at their keys, in order. -/
def Memory.setAll (m : Memory) : List (Nat × Byte) → Memory
  | [] => m
  | (a, b) :: bs => Memory.setAll (m.set a b) bs

/-- The `n` bytes from a key. -/
def Memory.read (m : Memory) (a : Nat) : Nat → List Byte
  | 0 => []
  | n + 1 => m.get a :: Memory.read m (a + 1) n

/-- Bytes at consecutive keys. -/
def atKeys : Nat → List Byte → List (Nat × Byte)
  | _, [] => []
  | a, b :: bs => (a, b) :: atKeys (a + 1) bs

/-- Removing every byte of a range of keys (clearing it to zero). -/
def Memory.clearRange (m : Memory) (lo n : Nat) : Memory := m.filter fun c => c.1 < lo || lo + n ≤ c.1

/-- The bytes that stand in a list of cells from a key on, when the list starts at or above it. -/
def Memory.span : Memory → Nat → Nat → List Byte
  | _, _, 0 => []
  | [], _, n + 1 => List.replicate (n + 1) 0
  | (k, b) :: m, a, n + 1 => if k = a then b :: Memory.span m (a + 1) n else 0 :: Memory.span ((k, b) :: m) (a + 1) n

/-- The `n` bytes from a key, in one pass. -/
def Memory.bytes (m : Memory) (a n : Nat) : List Byte := Memory.span (m.dropWhile fun c => c.1 < a) a n

/-- Writing consecutive bytes from a key, in one pass. -/
def Memory.write (m : Memory) (a : Nat) (bs : List Byte) : Memory :=
  m.takeWhile (fun c => c.1 < a) ++ (atKeys a bs).filter (fun c => c.2 ≠ 0) ++ m.dropWhile (fun c => c.1 < a + bs.length)

/-! Keys. -/

/-- Key of an LPDDR offset; an HBM offset is its own key. -/
def lpddrKey (pa : Nat) : Nat := 2 ^ 41 + pa
/-- Key of an offset in the shared SRAM of a die. -/
def sharedKey (die off : Nat) : Nat := 2 ^ 42 + die * 2 ^ 25 + off
/-- Key of an offset in the scratchpad pages of a cluster, by the names of their pages (log 58). -/
def spadKey (cluster off : Nat) : Nat := 2 ^ 43 + cluster * 2 ^ 24 + off
/-- Key of an offset in the TCM of a core. -/
def tcmKey (cluster pair : Nat) (side : Side) (off : Nat) : Nat :=
  2 ^ 44 + ((cluster * 8 + pair) * 2 + (if side = .access then 0 else 1)) * 2 ^ 16 + off
/-- Key of a host bus address. -/
def hostKey (pa : Nat) : Nat := 2 ^ 60 + pa
/-- Key of a REMOTE address: package and PA[51:0]. -/
def remoteKey (rpkg pa : Nat) : Nat := 2 ^ 70 + rpkg * 2 ^ 52 + pa

/-- Is the location a HOST or REMOTE one, which the machine holds only as copies (R214)? -/
def isFar (key : Nat) : Bool := decide (2 ^ 60 ≤ key)
/-- Is the location a REMOTE one? -/
def isRemote (key : Nat) : Bool := decide (2 ^ 70 ≤ key)

/-- The memory slice of a location, as a number, for a requester on `die` (R11, R176, R178, R199): one of the 128 L2 slices of the
package, die × 32 + slice; a bank of a scratchpad; a slice of a shared SRAM; or a TCM. -/
def memSlice (die key : Nat) : Nat :=
  if isFar key then die * 32 + key / 256 % 32
  else if 2 ^ 44 ≤ key then 200000 + (key - 2 ^ 44) / 2 ^ 16
  else if 2 ^ 43 ≤ key then 1000 + (key - 2 ^ 43) / 2 ^ 24 * 64 + key / 4 % 64
  else if 2 ^ 42 ≤ key then 300000 + (key - 2 ^ 42) / 2 ^ 25 * 32 + key / 256 % 32
  else if 2 ^ 41 ≤ key then (key - 2 ^ 41) / 256 % 128
  else key / 2 ^ 37 % 4 * 32 + key / 256 % 32

/-- The memory slices that an aligned access of at most 8 bytes touches: in a scratchpad an access of 8 bytes stands in the FIFOs of two
banks, and is performed as one (R176, R201, R203; log 19). -/
def memSlices (die key n : Nat) : List Nat :=
  if 4 < n && memSlice die key != memSlice die (key + 4) then [memSlice die key, memSlice die (key + 4)] else [memSlice die key]

/-- Tier and physical address of a key in HBM or LPDDR. -/
def tierPa (key : Nat) : Tier × Nat := if 2 ^ 41 ≤ key then (.lpddr, key - 2 ^ 41) else (.hbm, key)

/-- The offset lies in the relay spill region (R178). -/
def inSpill (pa : Nat) : Bool := decide (pa % 2 ^ 37 ≥ 2 ^ 37 - 2 ^ 30)

/-- The key of a physical address of a tier of this package, when it exists (R178, R180). -/
def localKey (tier : Tier) (pa : Nat) : Option Nat :=
  match tier with
  | .hbm => if pa < Config.hbmBytes && !inSpill pa then some pa else none
  | .lpddr => if pa < Config.lpddrBytes then some (lpddrKey pa) else none
  | _ => none

/-- The little-endian number at a key. -/
def Memory.readNat (m : Memory) (a n : Nat) : Nat := leNat (m.read a n)

end Sys2Proof.Machine
end

