-- ==== Sys2Proof/Machine/EngDesc.lean ====
section
/-! DEFINITION. The descriptors of the copy engines and the bytes that a command reads and writes (R187, R345 to R348). -/

namespace Sys2Proof.Machine

/-! Descriptors (R187). -/

/-- The fields of a descriptor. -/
structure EngDesc where
  src : Nat
  dst : Nat
  cols : Nat
  rows : Nat
  sp : Nat
  dp : Nat
  flags : Nat
  fmt : Nat
  a1 : Nat
  a2 : Nat
  a3 : Nat
  deriving DecidableEq, Repr

/-- The fields of 64 bytes. -/
def engDesc (d : List Byte) : EngDesc :=
  let f := fun o n => leNat ((d.drop o).take n)
  ⟨f 0 8, f 8 8, f 16 4, f 20 4, f 24 4, f 28 4, f 32 4, f 36 4, f 40 8, f 48 8, f 56 8⟩

/-- A space of a two-bit code (R173). -/
def spaceOf (c : Nat) : Space := if c = 0 then .global else if c = 1 then .spad else if c = 2 then .shared else .tcm

/-- SSPACE. -/
def EngDesc.sspace (d : EngDesc) : Space := spaceOf (bits d.flags 0 2)
/-- DSPACE. -/
def EngDesc.dspace (d : EngDesc) : Space := spaceOf (bits d.flags 2 2)
/-- SNIB. -/
def EngDesc.snib (d : EngDesc) : Nat := bits d.flags 4 1
/-- DNIB. -/
def EngDesc.dnib (d : EngDesc) : Nat := bits d.flags 5 1
/-- ACQ. -/
def EngDesc.acq (d : EngDesc) : Bool := bits d.flags 6 1 == 1
/-- REL. -/
def EngDesc.rel (d : EngDesc) : Bool := bits d.flags 7 1 == 1
/-- SCOPE. -/
def EngDesc.scope (d : EngDesc) : Nat := bits d.flags 8 3
/-- PATH is DIRECT_ONLY. -/
def EngDesc.direct (d : EngDesc) : Bool := bits d.flags 11 1 == 1
/-- TRANSPOSE. -/
def EngDesc.transpose (d : EngDesc) : Bool := bits d.flags 12 1 == 1
/-- SRC1's code names a format. -/
def EngDesc.f1 (d : EngDesc) : Option Fmt := Fmt.ofCode (bits d.fmt 0 5)
/-- DST's code names a format. -/
def EngDesc.fd (d : EngDesc) : Option Fmt := Fmt.ofCode (bits d.fmt 10 5)
/-- RND. -/
def EngDesc.rnd (d : EngDesc) : Option Rnd := Rnd.ofCode (bits d.fmt 15 3)
/-- SAT. -/
def EngDesc.sat (d : EngDesc) : Bool := bits d.fmt 18 1 == 1

/-- Bytes of the bitmap of EPACK, from offset 32 (R193). -/
def EngDesc.bitmap (d : EngDesc) : Nat := (d.rows * d.cols + 63) / 64 * 8
/-- Offset of the packed values. -/
def EngDesc.values (d : EngDesc) : Nat := (32 + d.bitmap + 63) / 64 * 64

/-- Byte intervals, half open, of `n` rows of `len` elements of width `w`, from a bit address, in steps of a pitch. -/
def rowSpans (base n pitch len w : Nat) : List (Nat × Nat) :=
  (List.range n).map fun r => ((base + r * pitch * w) / 8, (base + (r * pitch + len) * w + 7) / 8)

/-- What a command reads, as far as its issue can tell. -/
def engReads (op : Nat) (d : EngDesc) : List (Nat × Nat) :=
  match d.f1 with
  | some a => if op = 3 then [(d.src, d.src + 32 + d.bitmap)] else rowSpans (8 * d.src + 4 * d.snib) d.rows d.sp d.cols a.width
  | none => []

/-- What a command may write. -/
def engWrites (op : Nat) (d : EngDesc) : List (Nat × Nat) :=
  match d.fd with
  | some b =>
    let (n, len) := if d.transpose then (d.cols, d.rows) else (d.rows, d.cols)
    if op = 2 then [(d.dst, d.dst + d.a1)]
    else if op = 1 then
      rowSpans (8 * d.dst + 4 * d.dnib) d.rows d.dp d.cols b.width ++ rowSpans (8 * d.a1 + 4 * d.dnib) n d.dp len b.width
        ++ [(d.a2, d.a2 + d.rows * (d.cols / 32)), (d.a3, d.a3 + d.rows / 32 * d.cols)]
    else rowSpans (8 * d.dst + 4 * d.dnib) n d.dp len b.width
  | none => []

/-- Bytes of a list of intervals. -/
def spanBytes (l : List (Nat × Nat)) : List Nat := l.flatMap fun r => (List.range (r.2 - r.1)).map (r.1 + ·)

end Sys2Proof.Machine
end

