-- ==== Sys2Proof/Machine/Quant.lean ====
section
/-! DEFINITION. Quantisation of a block into an MX element format (R115), and the conversion of one element (R435). -/

namespace Sys2Proof.Machine

/-- The largest magnitude of a list of finite values, as mantissa and exponent. -/
def amax : List Val → Nat × Int
  | [] => (0, 0)
  | .fin _ m e :: vs => let (m', e') := amax vs; if cmpMag m e m' e' == .gt then (m, e) else (m', e')
  | _ :: vs => amax vs

/-- The shared exponent `s` for a non-zero largest magnitude. -/
def blockExp (f : Fmt) (rnd : Rnd) (m : Nat) (e : Int) : Int :=
  let s := floorLog2 m e - f.emax
  let (r, q, _) := roundUnbounded (f.params.mb + 1) rnd false m (e - s)
  let (mm, me) := f.maxFinite
  if cmpMag r q mm me == .gt then s + 1 else s

/-- The scale byte of a block of active values, and each value's encoding and flags, in order (R115). -/
def quantBlock (f : Fmt) (rnd : Rnd) (sat : Bool) (vs : List Val) : Nat × List (Nat × Flags) :=
  if vs.any fun v => v.isNaN || v.isInf then
    (0xFF, (List.range vs.length).map fun i => (0, .invalidIf (i == 0)))
  else
    let (m, e) := amax vs
    if m = 0 then (0, vs.map fun _ => (0, .none))
    else
      let x := (max 0 (min 254 (blockExp f rnd m e + 127))).toNat
      (x, vs.map fun v => f.deliver rnd sat (v.scale (127 - (x : Int))))

/-- The conversion of one element (R435); a signalling NaN raises invalid (R105, R111). -/
def convert (f : FmtWord) (v : Val) : Nat × Flags :=
  if f.dst.isInt then
    if f.src1.isInt then
      match v with
      | .fin n m _ => (f.dst.deliverInt f.sat (if n then -(m : Int) else m), .none)
      | _ => (0, .none)
    else f.dst.convertToInt f.rnd v
  else let (y, g) := f.dst.deliver f.rnd f.sat v; (y, g.or (.invalidIf v.isSNaN))

end Sys2Proof.Machine
end

