-- ==== Sys2Proof/Machine/Access.lean ====
section
/-! DEFINITION. The slice in turn and its registers, the keyed records of the machine, the copies of far lines, and the accesses that
wait in their FIFOs (R29, R61, R200 to R203, R214, R259). -/

namespace Sys2Proof.Machine

/-! The slice in turn and its registers. -/

/-- The slice whose turn it is. -/
def State.cur (s : State) : Slice := if s.side = .access then s.strand.acc else s.strand.cmp

/-- Replacing the slice whose turn it is. -/
def State.setCur (s : State) (c : Slice) : State :=
  if s.side = .access then { s with strand := { s.strand with acc := c } }
  else { s with strand := { s.strand with cmp := c } }

/-- The register bank that the slice in turn uses (R259). -/
def State.bank (s : State) : Vector Word 32 :=
  if s.side = .compute then s.strand.regs.comp
  else if s.strand.trap.priv then s.strand.regs.super else s.strand.regs.user

/-- Replacing that bank. -/
def State.setBank (s : State) (b : Vector Word 32) : State :=
  if s.side = .compute then { s with strand := { s.strand with regs := { s.strand.regs with comp := b } } }
  else if s.strand.trap.priv then { s with strand := { s.strand with regs := { s.strand.regs with super := b } } }
  else { s with strand := { s.strand with regs := { s.strand.regs with user := b } } }

/-- Reading a scalar register: x0 is zero, always (R29). -/
def State.x (s : State) (r : Reg) : Word := if r = 0 then 0 else s.bank.get r

/-- Writing a scalar register: a write to x0 is discarded (R29, R58). -/
def State.setX (s : State) (r : Reg) (v : Word) : State :=
  if r = 0 then s else s.setBank (s.bank.set r.val v r.isLt)

/-- The program counter of the slice in turn. -/
def State.pc (s : State) : Word := s.cur.pc

/-- Going on at an address: the wait of the slice, if any, has ended. -/
def State.goto (s : State) (pc : Word) : State := s.setCur { s.cur with pc := pc, stall := none }

/-- Going on at the next instruction, `n` bytes on (R281). -/
def State.advance (s : State) (n : Nat) : State := s.goto (s.pc + BitVec.ofNat 64 n)

/-- A waiting instruction has no effect: it stays at its address and runs again (R58). -/
def State.wait (s : State) (why : Stall) : State := s.setCur { s.cur with stall := some why }

/-- A next state. -/
abbrev Out := Host.Outcome State Fault Refusal

/-- The scalar result of an instruction of `n` bytes: write the register and go on. -/
def State.result (s : State) (rd : Reg) (v : Word) (n : Nat) : State := (s.setX rd v).advance n

/-! Keyed records. -/

/-- The value of a key, with a default. -/
def assocGet {α : Type} (d : α) : List (Nat × α) → Nat → α
  | [], _ => d
  | (k, v) :: l, a => if k = a then v else assocGet d l a

/-- Setting the value of a key. -/
def assocSet {α : Type} : List (Nat × α) → Nat → α → List (Nat × α)
  | [], a, v => [(a, v)]
  | (k, w) :: l, a, v => if k = a then (a, v) :: l else (k, w) :: assocSet l a v

/-- Is a strand in this place (launch ids are not zero, R27)? -/
def Strand.resident (t : Strand) : Bool := t.id.lid ≠ 0

/-- The number that names a resident strand: its core pair in the package. -/
def Strand.key (t : Strand) : Nat := t.id.cluster * 8 + t.id.pair

/-- The resident strands. -/
def State.strands (s : State) : List Strand := (s.strand :: s.others).filter Strand.resident

/-- The strands given, with the first in focus. -/
def State.setStrands (s : State) : List Strand → State
  | [] => { s with strand := Strand.vacant, others := [] }
  | t :: ts => { s with strand := t, others := ts }

/-- Applying a function to every resident strand that satisfies `p`. -/
def State.mapStrands (s : State) (p : Strand → Bool) (f : Strand → Strand) : State :=
  { s with
    strand := if s.strand.resident && p s.strand then f s.strand else s.strand
    others := s.others.map fun t => if t.resident && p t then f t else t }

/-- Bringing a strand into focus; nothing changes when it is not resident. -/
def State.focus (s : State) (key : Nat) : State :=
  if s.strand.resident && s.strand.key == key then s
  else
    match s.others.find? (fun t => t.resident && t.key == key) with
    | none => s
    | some t =>
      let rest := s.others.filter fun u => !(u.resident && u.key == key)
      { s with strand := t, others := if s.strand.resident then s.strand :: rest else rest }

/-- Is the strand resident? -/
def State.isResident (s : State) (key : Nat) : Bool := s.strands.any fun t => t.key == key

/-- The next strand comes into focus, the one in focus goes to the end. -/
def State.rotate (s : State) : State :=
  match s.others with
  | [] => s
  | t :: ts => { s with strand := t, others := if s.strand.resident then ts ++ [s.strand] else ts }

/-- The die of a strand. -/
def Strand.die (t : Strand) : Nat := t.id.cluster / 40

/-- A gang with nothing in it, for a strand whose gang is gone. -/
def Gang.none : Gang := ⟨0, 0, 0, 0, 0, 0, 0, 0, [], [], [], [], 0, 0⟩
/-- A squad with nothing in it. -/
def Squad.none : Squad := ⟨0, 0, 0, Option.none, [], false⟩
/-- A packet of zeros. -/
def Packet.zero : Packet := ⟨0, 0, 0, 0, 0, 0, 0, 0, 0, 0, 0, []⟩
/-- A launch with nothing in it. -/
def Launch.none : Launch := ⟨Packet.zero, 0, 0, 0, 0, false, false, [], [], false, false, false, 0, 0, [], 0, 0, false, [], [], []⟩

/-- The gang of a strand. -/
def State.gangOf (s : State) (i : StrandId) : Gang :=
  (s.gangs.find? fun g => g.lid == i.lid && g.squad == i.squad && g.index == i.gang).getD Gang.none
/-- The squad of a strand. -/
def State.squadOf (s : State) (i : StrandId) : Squad :=
  (s.squads.find? fun q => q.lid == i.lid && q.index == i.squad).getD Squad.none
/-- A launch in flight. -/
def State.launchOf (s : State) (lid : BitVec 32) : Launch :=
  (s.launches.find? fun l => l.pkt.lid == lid).getD Launch.none
/-- Is a launch in flight (R27)? -/
def State.inFlight (s : State) (lid : BitVec 32) : Bool := s.launches.any fun l => l.pkt.lid == lid

/-- Changing one gang. -/
def State.mapGang (s : State) (i : StrandId) (f : Gang → Gang) : State :=
  { s with gangs := s.gangs.map fun g => if g.lid == i.lid && g.squad == i.squad && g.index == i.gang then f g else g }
/-- Changing one squad. -/
def State.mapSquad (s : State) (i : StrandId) (f : Squad → Squad) : State :=
  { s with squads := s.squads.map fun q => if q.lid == i.lid && q.index == i.squad then f q else q }
/-- Changing one launch. -/
def State.mapLaunch (s : State) (lid : BitVec 32) (f : Launch → Launch) : State :=
  { s with launches := s.launches.map fun l => if l.pkt.lid == lid then f l else l }

/-- The engine of a cluster (R188). -/
def State.engine (s : State) (c : Nat) : Engine := (s.engines.find? fun e => e.cluster == c).getD ⟨c, 0, 0, [], 0, [], none⟩
/-- Replacing the engine of a cluster. -/
def State.setEngine (s : State) (e : Engine) : State :=
  { s with engines := e :: s.engines.filter fun x => x.cluster != e.cluster }

/-- A port of the fabric. -/
def State.port (s : State) (p : Nat) : Port := assocGet Port.reset s.fab.ports p
/-- Replacing a port. -/
def State.setPort (s : State) (p : Nat) (v : Port) : State := { s with fab := { s.fab with ports := assocSet s.fab.ports p v } }

/-- What the package knows of a peer. -/
def State.peer (s : State) (id : BitVec 16) : Peer :=
  (s.fab.peers.find? fun p => p.id == id).getD ⟨id, 0, 0, 0, 0, 0, 0, [], [], [], [], false, 0⟩
/-- Replacing that. -/
def State.setPeer (s : State) (p : Peer) : State :=
  { s with fab := { s.fab with peers := p :: s.fab.peers.filter fun q => q.id != p.id } }

/-- A launch queue. -/
def State.lq (s : State) (q : Nat) : LaunchQueue := assocGet LaunchQueue.reset s.hub.queues q
/-- Replacing a launch queue. -/
def State.setLq (s : State) (q : Nat) (v : LaunchQueue) : State :=
  { s with hub := { s.hub with queues := assocSet s.hub.queues q v } }

/-- LGRANT.LANES of a cluster (R89). -/
def State.lgrant (s : State) (c : Nat) : Nat := assocGet 32 s.power.lgrant c
/-- MGRANT.RATE of a cluster (R169). -/
def State.mgrant (s : State) (c : Nat) : Nat := assocGet 16 s.power.mgrant c

/-! Copies of HOST and REMOTE lines, and performing stores (R200, R214). -/

/-- The line of a key. -/
def lineOf (key : Nat) : Nat := key / 64 * 64

/-- The die's copy of a line. -/
def State.l2Line (s : State) (die line : Nat) : Option L2Line := s.l2.find? fun l => l.die == die && l.line == line

/-- One byte of a copy, when it is present. -/
def State.l2Has (s : State) (die key : Nat) : Option Byte :=
  match s.l2Line die (lineOf key) with
  | none => none
  | some l => if l.filled || (l.dirty ||| l.flying).getLsbD (key % 64) then some (l.data.extractLsb' (8 * (key % 64)) 8) else none

/-- Is a byte of a far line one that buffered adds of its die which are due have yet to reach (R223)? One written since is not. -/
def State.dueByte (s : State) (die key : Nat) : Bool :=
  s.det.due.any fun d => d.die == die && d.key == key / 8 * 8 && !d.newer.getLsbD (key % 8)

/-- One byte of a copy as an agent on the die reads it: one that adds have yet to reach is not there (R223). -/
def State.l2Byte (s : State) (die key : Nat) : Option Byte := if s.dueByte die key then none else s.l2Has die key

/-- Setting 8 bits of a wide word at a bit position. -/
def putBits {n : Nat} (x : BitVec n) (lo w v : Nat) : BitVec n :=
  (x &&& ~~~(BitVec.ofNat n ((2 ^ w - 1) * 2 ^ lo))) ||| BitVec.ofNat n (v % 2 ^ w * 2 ^ lo)

/-- Writing one byte of a copy, which becomes dirty. -/
def State.l2Put (s : State) (die key : Nat) (b : Byte) : State :=
  let l := (s.l2Line die (lineOf key)).getD ⟨die, lineOf key, false, 0, 0, 0⟩
  let l' := { l with data := putBits l.data (8 * (key % 64)) 8 b.toNat, dirty := l.dirty ||| BitVec.ofNat 64 (2 ^ (key % 64)) }
  { s with l2 := l' :: s.l2.filter fun x => !(x.die == die && x.line == lineOf key) }

/-- Adds that wait for a line are not applied over a byte written after they were due (R223). -/
def DueAdds.wrote (d : DueAdds) (die key : Nat) : DueAdds :=
  if d.die = die ∧ d.key = key / 8 * 8 then { d with newer := d.newer ||| BitVec.twoPow 8 (key % 8) } else d

/-- The write of one byte of a far line, to the die's copy. -/
def State.l2Write (s : State) (die key : Nat) (b : Byte) : State :=
  ({ s with det := { s.det with due := s.det.due.map fun d : DueAdds => d.wrote die key } }).l2Put die key b

/-- Bytes of a far line that this package writes at its home now: no launch in flight fetches what is written (R198). -/
def State.codeWrote (s : State) (line : Nat) (mask : BitVec 64) : State :=
  { s with launches := s.launches.map fun l =>
      { l with codeSent := assocSet l.codeSent line (assocGet 0 l.codeSent line ||| mask) } }

/-- The fills of a line that a die has asked for may be older than what it now holds or has sent (R202, R216). -/
def State.staleFills (s : State) (die line : Nat) : State :=
  { s with reqs := s.reqs.map fun r => if r.fill && r.die == die && r.addr == line then { r with stale := true } else r }

/-- Performing the write of bytes at their keys, for an agent on `die` (R200, R214). -/
def State.perform (s : State) (die : Nat) : List (Nat × Byte) → State
  | [] => s
  | (k, b) :: bs => (if isFar k then s.l2Write die k b else { s with mem := s.mem.set k b }).perform die bs

/-- The byte that an agent on `die` reads now; none when its die has no copy of a HOST or REMOTE line. -/
def State.byteAt (s : State) (die key : Nat) : Option Byte :=
  if isFar key then s.l2Byte die key else some (s.mem.get key)

/-- The bytes that an agent on `die` reads now. -/
def State.bytesAt (s : State) (die key : Nat) : Nat → Option (List Byte)
  | 0 => some []
  | n + 1 =>
    match s.byteAt die key, s.bytesAt die (key + 1) n with
    | some b, some bs => some (b :: bs)
    | _, _ => none

/-! Accesses that wait (R61, R200, R203). -/

/-- SignExtend of an immediate to 64 bits (R285). -/
def sext {n : Nat} (i : BitVec n) : Word := i.signExtend 64

/-- The value of a load: sign-extended or zero-extended by its size (R287, R363). -/
def ldExtend (z : LdSize) (v : Nat) : Word :=
  match z with
  | .b => sext (BitVec.ofNat 8 v)
  | .h => sext (BitVec.ofNat 16 v)
  | .w => sext (BitVec.ofNat 32 v)
  | .d | .bn | .hn | .wn => BitVec.ofNat 64 v

/-- Writing a register of one bank; a write to x0 is discarded (R29, R259). -/
def Regs.put (r : Regs) (side : Side) (priv : Bool) (rd : Reg) (v : Word) : Regs :=
  if rd = 0 then r
  else if side = .compute then { r with comp := r.comp.set rd.val v rd.isLt }
  else if priv then { r with super := r.super.set rd.val v rd.isLt }
  else { r with user := r.user.set rd.val v rd.isLt }

/-- The part of a byte string that one element of `w` bits is: a nibble of one byte, or all of it (R184). -/
def elementOf (w : Nat) (hi : Bool) (bs : List Byte) : Nat :=
  if w = 4 then leNat bs / (if hi then 16 else 1) % 16 else leNat bs

/-- The LDQ slot of an index, changed. -/
def Queues.mapSlot (q : Queues) (idx : BitVec 3) (f : QSlot → QSlot) : Queues :=
  { q with ldq := q.ldq.modify (idx - q.ldqHead).toNat f }

/-- The data of a load reaches its register or its element (R55, R363). -/
def Strand.land (t : Strand) (d : LoadTo) (bs : List Byte) : Strand :=
  match d with
  | .reg side priv rd z => { t with regs := t.regs.put side priv rd (ldExtend z (leNat bs)) }
  | .slot idx i w hi => { t with q := t.q.mapSlot idx fun e => { e with payload := putBits e.payload (i * w) w (elementOf w hi bs) } }

/-- A byte with one nibble replaced (R184). -/
def nibbleIn (hi : Bool) (old : Byte) (v : Nat) : Byte :=
  BitVec.ofNat 8 (if hi then old.toNat % 16 + v % 16 * 16 else old.toNat / 16 * 16 + v % 16)

/-- Performing the write of nibbles: the other nibble of each byte is as it stands (R422). -/
def State.performHalf (s : State) (die : Nat) : List (Nat × Bool × Byte) → State
  | [] => s
  | (k, hi, v) :: l => (s.perform die [(k, nibbleIn hi ((s.byteAt die k).getD 0) v.toNat)]).performHalf die l

/-- The reads of a load deliver their data. -/
def State.landAll (s : State) : List PendLoad → State
  | [] => s
  | l :: ls => { s with strand := s.strand.land l.dst ((s.bytesAt s.strand.die l.key l.n).getD []) }.landAll ls

/-- Bytes of an atomic's size (R287). -/
def atBytes : AtSize → Nat
  | .w => 4
  | .d => 8

/-- The value that an AMOFADD of a size writes: Round(old + v), with its flags (R334). -/
def atomicFadd (sz : AtSize) (rnd : Rnd) (old v : Nat) : Nat × Flags :=
  let f : Fmt := if sz = .w then .fp32 else .fp64
  let (x, fl) := Val.addExact rnd (f.decode old) (f.decode v)
  let (r, g) := f.deliver rnd false x
  (r, fl.or g)

/-- The signed reading of a number of `w` bits. -/
def signedOf (w x : Nat) : Int := if x % 2 ^ w < 2 ^ (w - 1) then (x % 2 ^ w : Int) else (x % 2 ^ w : Int) - 2 ^ w

/-- The new value of an atomic of `w` bits (R329, R334): none when CAS writes nothing. -/
def AtOp.new (op : AtOp) (sz : AtSize) (rnd : Rnd) (old v e : Nat) : Option Nat × Flags :=
  let w := 8 * atBytes sz
  let v := v % 2 ^ w
  match op with
  | .add => (some ((old + v) % 2 ^ w), .none)
  | .and => (some (old &&& v), .none)
  | .or => (some (old ||| v), .none)
  | .xor => (some (old ^^^ v), .none)
  | .min => (some (if signedOf w old < signedOf w v then old else v), .none)
  | .max => (some (if signedOf w old < signedOf w v then v else old), .none)
  | .minn => (some (if old < v then old else v), .none)
  | .maxn => (some (if old < v then v else old), .none)
  | .swp => (some v, .none)
  | .cas => (if old = e % 2 ^ w then some v else none, .none)
  | .fadd => let (r, fl) := atomicFadd sz rnd old v; (some r, fl)

/-- What an atomic on a location of this package writes now, and its flags. -/
def State.atomNow (s : State) (p : PendAtom) : Option Nat × Flags :=
  p.op.new p.size p.rnd (s.mem.readNat p.key (atBytes p.size)) p.value.toNat p.expect.toNat

/-- Performing the write of an atomic (R329, R332). -/
def State.performAtom (s : State) (die : Nat) (p : PendAtom) : State :=
  match (s.atomNow p).1 with
  | some v => s.perform die (atKeys p.key (leBytes (atBytes p.size) v))
  | none => s

/-- DETID (R218). -/
def StrandId.detid (i : StrandId) : Nat := i.squad * 640 + i.gang * 16 + i.name

/-- CTL.DET of a launch (R26). -/
def State.isDet (s : State) (lid : BitVec 32) : Bool := (s.launchOf lid).pkt.ctl.getLsbD 14

/-- The die whose memory slice holds the record of a line for an agent on `die`: HOST and REMOTE lines have a slice on each die, every
other line has one in the package (R199, R220). -/
def detDie (die line : Nat) : Nat := if isFar line then die else 0

/-- The fall-back record of a line at that slice. -/
def Detector.tagsOf (d : Detector) (line die : Nat) : Option DetTags := d.fallback.find? fun f => f.line == line && f.die == detDie die line

/-- A store of a strand reaches a word of a line in fall-back: it does not write when the word's tag holds a higher DETID; otherwise the tag
takes its own (R221). -/
def DetTags.meets (f : DetTags) (detid word : Nat) : Bool × DetTags :=
  if assocGet 0 (f.tags.map fun t => (t.1, t.2 + 1)) word > detid + 1 then (false, f)
  else (true, { f with tags := assocSet f.tags word detid })

/-- The words of a list that a store of a strand writes, and the tags after it (R221). -/
def State.tagWords (s : State) (i : StrandId) : List Nat → List Nat × State
  | [] => ([], s)
  | w :: ws =>
    match s.det.tagsOf (lineOf (8 * w)) (i.cluster / 40) with
    | none => let (l, s) := s.tagWords i ws; (w :: l, s)
    | some f =>
      let (ok, f) := f.meets i.detid w
      let (l, s) := ({ s with det := { s.det with
        fallback := f :: s.det.fallback.filter fun g => !(g.line == f.line && g.die == f.die) } }).tagWords i ws
      (if ok then w :: l else l, s)

/-- The bytes and nibbles that a store of a strand writes when it is performed: in a DET launch a word of a line in fall-back may refuse it
(R221). -/
def State.tagged (s : State) (i : StrandId) (bytes : List (Nat × Byte)) (half : List (Nat × Bool × Byte)) :
    (List (Nat × Byte) × List (Nat × Bool × Byte)) × State :=
  if s.det.fallback.isEmpty || !s.isDet i.lid then ((bytes, half), s)
  else
    let words := (bytes.map fun b : Nat × Byte => b.1 / 8) ++ half.map fun h : Nat × Bool × Byte => h.1 / 8
    let (ws, s) := s.tagWords i words.eraseDups
    ((bytes.filter fun b => ws.contains (b.1 / 8), half.filter fun h => ws.contains (h.1 / 8)), s)

/-- A store of a strand is performed (R200, R221). -/
def State.performStore (s : State) (i : StrandId) (bytes : List (Nat × Byte)) (half : List (Nat × Bool × Byte) := []) : State :=
  let ((b, h), s) := s.tagged i bytes half
  (s.perform (i.cluster / 40) b).performHalf (i.cluster / 40) h

/-- The writes of an access of a strand. -/
def State.performWrites (s : State) (i : StrandId) (a : Access) : State :=
  let s := s.performStore i a.bytes a.half
  match a.atom with
  | some p => s.performAtom (i.cluster / 40) p
  | none => s

/-- FCSR.FLAGS of one slice of the strand in focus, with flags added (R117). -/
def State.flagSide (s : State) (side : Side) (fl : Flags) : State :=
  let f := fun c : Slice => { c with fcsr := c.fcsr ||| BitVec.setWidth 13 fl.toBits }
  if side = .access then { s with strand := { s.strand with acc := f s.strand.acc } }
  else { s with strand := { s.strand with cmp := f s.strand.cmp } }

/-- Performing one access of the strand in focus, for its die: its bytes are written, or its data are read (R200, R202). The old value of an
atomic is read before it writes, and its flags reach FCSR (R334). -/
def State.performOne (s : State) (a : Access) : State :=
  match a.atom with
  | none => (s.performWrites s.strand.id a).landAll a.loads
  | some p => ((s.landAll a.loads).performAtom s.strand.die p).flagSide a.side (s.atomNow p).2

/-- Do two accesses stand in one FIFO (R203)? -/
def Access.sameFifo (a b : Access) : Bool := a.side == b.side && a.path == b.path && a.mslices.any b.mslices.contains

/-- Has a kind of access something of a kind that a FENCE names (R210)? -/
def kindsMeet (a b : FenceKind) : Bool := a == b || a == .rw || b == .rw

/-- Is an access one that comes before the instruction of this edge, when it is older? -/
def Edge.holds (e : Edge) (a : Access) : Bool := a.edge.isNone && (e.fromPath.all fun p => p == a.path) && kindsMeet a.kind e.fromKind

/-- Is an access one that comes behind the instruction of this edge, when it is younger? -/
def Edge.delays (e : Edge) (a : Access) : Bool := a.edge.isNone && (e.toPath.all fun p => p == a.path) && kindsMeet a.kind e.toKind

/-- Does an access have to be performed before a later one: one before it in its FIFO (R203), one that a pop has ordered before it (R61), one
of its slice before a release or behind an acquire (R207), one that an ordering instruction holds (R204, R205, R210); the partner's
behind an acquire at STRAND scope (R208)? -/
def Access.precedes (a b : Access) : Bool :=
  a.sameFifo b ||
    if a.side == b.side then b.rel || a.acq == .all || b.edge.any (·.holds a) || a.edge.any (·.delays b)
    else a.num < b.after || a.acq == .strand

/-- Splitting waiting accesses, oldest first, into those that satisfy `p` with all that have to come before them, and the rest. -/
def splitAccesses (p : Access → Bool) : List Access → List Access × List Access
  | [] => ([], [])
  | a :: l =>
    let (yes, no) := splitAccesses p l
    if p a || yes.any a.precedes then (a :: yes, no) else (yes, a :: no)

/-- The keys that an access writes. -/
def Access.targets (a : Access) : List Nat :=
  a.bytes.map (·.1) ++ a.half.map (·.1) ++ match a.atom with | some p => [p.key] | none => []

/-- Is a load of this LDQ slot still waiting? -/
def Strand.awaits (t : Strand) (idx : BitVec 3) : Bool :=
  t.stores.any fun a => a.loads.any fun l => match l.dst with
    | .slot j _ _ _ => j == idx
    | .reg .. => false

/-- The lowest element of a slot that a waiting load is to bring, up to `n`. -/
def Strand.firstAwaited (t : Strand) (idx : BitVec 3) (n : Nat) : Nat :=
  (t.stores.flatMap (·.loads)).foldl (fun m l => match l.dst with
    | .slot j i _ _ => if j == idx then min m i else m
    | .reg .. => m) n

/-- FILLED and the arrival of every slot follow from the loads that still wait for it (R54, R55). `was` are those that waited before. -/
def Strand.settleSlots (t : Strand) (was : Strand) : Strand :=
  let settle (k : Nat) (e : QSlot) : QSlot :=
    let idx := t.q.ldqHead + BitVec.ofNat 3 k
    if was.awaits idx then
      { e with filled := BitVec.ofNat 24 (t.firstAwaited idx e.count.toNat), arrived := !t.awaits idx }
    else e
  { t with q := { t.q with ldq := t.q.ldq.mapIdx settle } }

/-- Performing the strand's waiting accesses that satisfy `p`, and what has to come before them, in order (R203). -/
def State.drain (s : State) (p : Access → Bool) : State :=
  let (now, later) := splitAccesses p s.strand.stores
  let s' := now.foldl State.performOne s
  if now.isEmpty then s else { s' with strand := ({ s'.strand with stores := later } : Strand).settleSlots s.strand }

/-- Performing every waiting access of the strand. -/
def State.drainAll (s : State) : State := s.drain fun _ => true

/-- Performing every waiting access of one slice of the strand. -/
def State.drainSide (s : State) (side : Side) : State := s.drain fun st => st.side == side

/-- Before a release of the slice in turn: its own accesses and what its pops have ordered before it are performed (R207, R208). -/
def State.settleOwn (s : State) : State := s.drain fun a => a.side == s.side || a.num < s.cur.popMark

/-- The loads that wait have their data: their slices stop (R69, R73, R75). -/
def State.finishLoads (s : State) : State := s.drain fun a => !a.loads.isEmpty

/-- The next entry of the schedule of the memory system: does this access wait for an event (log 2)? -/
def State.nextDelay (s : State) : Bool × State :=
  match s.delays with
  | [] => (false, s)
  | d :: ds => (d, { s with delays := ds })

/-- A new access of the slice in turn, with nothing to read or write in it yet. -/
def State.access (s : State) (path : Path) (mslices : List Nat) (kind : FenceKind) : Access :=
  ⟨s.side, path, mslices, s.strand.issued, s.cur.popMark, kind, false, .none, none, [], [], [], none⟩

/-- A new access of the slice in turn joins its FIFO. -/
def State.issue (s : State) (a : Access) : State :=
  { s with strand := { s.strand with stores := s.strand.stores ++ [a], issued := s.strand.issued + 1 } }

/-- What has to be performed before a new access of the slice in turn is performed. -/
def State.ahead (s : State) (a : Access) : State := s.drain fun x => x.precedes a

/-- A new access that writes waits in its FIFO, or is performed at once behind what comes before it (R203). -/
def State.launchWrite (s : State) (a : Access) : State :=
  let (d, s) := s.nextDelay
  if d then s.issue a else (s.ahead a).performWrites s.strand.id a

/-- A store of the slice in turn to its memory slices (R203). -/
def State.store (s : State) (path : Path) (mslices : List Nat) (bytes : List (Nat × Byte)) (half : List (Nat × Bool × Byte) := []) : State :=
  s.launchWrite { s.access path mslices .w with bytes := bytes, half := half }

/-- An ordering instruction of the slice in turn has its effect: it waits among the accesses when one stands before it, and nothing stands
still for it (R204, R205, R210, R357, R408, R442). -/
def State.order (s : State) (e : Edge) : State :=
  let a : Access := { s.access .scalar [] .rw with edge := some e }
  if s.strand.stores.any fun x => x.precedes a then s.issue a else s

/-- May a read take its value from stores of its slice that are performed at STRAND scope alone: only what orders at that scope holds it
back, and only stores (R200, R204, R316; log 76)? -/
def State.readsAhead (s : State) (a : Access) : Bool :=
  let now := (splitAccesses (fun x => x.precedes a) s.strand.stores).1
  ((now.filter fun x => x.precedes a).all fun x => x.edge.any (·.strand)) && (now.any fun x => x.edge.isNone) &&
    now.all fun x => x.loads.isEmpty && x.atom.isNone

/-- A read of the slice in turn that is performed now: the state whose memory it reads, and the state that goes on. What comes before it is
performed first; where stores need only be performed at STRAND scope for it, the schedule may leave them waiting (R203; log 76). -/
def State.readNow (s : State) (a : Access) : State × State :=
  if s.readsAhead a then
    let (d, s) := s.nextDelay
    (s.ahead a, if d then s else s.ahead a)
  else (s.ahead a, s.ahead a)

/-- Performing the waiting accesses of every strand that satisfy `p`. -/
def State.drainEach (s : State) (p : Access → Bool) : State :=
  ((s.strands.map Strand.key).foldl (fun (u : State) k => (u.focus k).drain p) s).focus s.strand.key

/-- Does a sealed region hold this key (R279)? -/
def State.sealedKey (s : State) (key : Nat) : Bool := s.hub.seals.any fun r => r.pages.any fun p => p ≤ key && key < p + 2 ^ 16

end Sys2Proof.Machine
end

