-- ==== Sys2Proof/Machine/Walk.lean ====
section
/-! DEFINITION. Translation and its checks, and the places of the four spaces (R173 to R182). -/

namespace Sys2Proof.Machine

/-- What an access needs of a page (R182). -/
structure Need where
  r : Bool
  w : Bool
  x : Bool
  packed : Bool          -- by EPACK or EUNPACK
  cause : Nat            -- the cause of a failed walk: 5, 6 or 7
  deriving DecidableEq, Repr

/-- A load. -/
def Need.load : Need := ⟨true, false, false, false, 5⟩
/-- A store. -/
def Need.store : Need := ⟨false, true, false, false, 6⟩
/-- An atomic or CAS. -/
def Need.atomic : Need := ⟨true, true, false, false, 6⟩
/-- A fetch. -/
def Need.fetch : Need := ⟨false, false, true, false, 7⟩

/-- Bits `[lo + n - 1 : lo]` of a page-table entry. -/
def pte (e lo n : Nat) : Nat := bits e lo n

/-- The size of a leaf page at a level (R179). -/
def pageSize (level : Nat) : Nat := if level = 2 then 2 ^ 30 else if level = 1 then 2 ^ 21 else 2 ^ 16

/-- The index of a level, as its lowest address bit and its width (R179). -/
def levelIndex (level va : Nat) : Nat :=
  match level with
  | 4 => bits va 48 8
  | 3 => bits va 39 9
  | 2 => bits va 30 9
  | 1 => bits va 21 9
  | _ => bits va 16 5

/-- The key of a table: tier 0 HBM, 1 LPDDR (R180). Where the address lies beyond its tier or in the relay spill region, for which R180
lists no failure, the walk reads the bytes at that key (log 55). -/
def tableKey (tier addr : Nat) : Nat := if tier = 1 then lpddrKey addr else addr

/-- A leaf entry whose own fields are legal at its level (R180). -/
def leafOk (level e : Nat) : Bool :=
  level ≤ 2 && pte e 10 6 == 0 && pte e 62 2 == 0 && (pte e 16 36 * 2 ^ 16) % pageSize level == 0

/-- A pointer entry that is legal at its level, which is above 0 (R180). -/
def pointerOk (level e : Nat) : Bool :=
  pte e 1 4 == 0 && pte e 6 2 == 0 && pte e 54 10 == 0 && pte e 52 2 < 2 && (level == 1 || pte e 8 4 == 0)

/-- The walk from a table of some level (R179, R180): the leaf entry and its level. -/
def walk (m : Memory) (va : Nat) : Nat → Nat → Option (Nat × Nat)
  | 0, table =>
    let e := m.readNat (table + 8 * levelIndex 0 va) 8
    if pte e 0 1 = 1 && pte e 5 1 = 1 && leafOk 0 e then some (e, 0) else none
  | l + 1, table =>
    let e := m.readNat (table + 8 * levelIndex (l + 1) va) 8
    if pte e 0 1 = 0 then none
    else if pte e 5 1 = 1 then (if leafOk (l + 1) e then some (e, l + 1) else none)
    else if pointerOk (l + 1) e then walk m va l (tableKey (pte e 52 2) (pte e 8 44 * 256))
    else none

/-- The walk from PTBR (R179, R181); from a root that R181 gives no tier or that breaks its table's alignment it fails. -/
def walkRoot (m : Memory) (ptbr : Word) (va : Nat) : Option (Nat × Nat) :=
  if va < 2 ^ 56 && ptbr.toNat % 4 < 2 && bits ptbr.toNat 8 3 == 0 then walk m va 4 (tableKey (ptbr.toNat % 4) (bits ptbr.toNat 8 44 * 256)) else none

/-- The leaf of an address: a cached translation under an equal PTBR, or a walk (R179, R181). -/
def State.leafOf (s : State) (ptbr : Word) (va : Nat) : Option (Nat × Nat) :=
  if va < 2 ^ 56 then
    match s.tlb.find? fun t => t.ptbr == ptbr && t.vpn == va / 2 ^ 16 with
    | some t => some (t.leaf.toNat, t.level)
    | none => walkRoot s.mem ptbr va
  else none

/-- Keeping the translation of an address until a TLBINV (R179; log 9). -/
def State.remember (s : State) (ptbr : Word) (va : Nat) : State :=
  if s.tlb.any fun t => t.ptbr == ptbr && t.vpn == va / 2 ^ 16 then s
  else
    match walkRoot s.mem ptbr va with
    | some (leaf, level) => { s with tlb := ⟨ptbr, va / 2 ^ 16, BitVec.ofNat 64 leaf, level⟩ :: s.tlb }
    | none => s

/-- The key that a leaf gives to an address, when its physical address lies in its tier (R178, R180). -/
def leafKey (leaf level va : Nat) : Option Nat :=
  let pa := pte leaf 16 36 * 2 ^ 16 + va % pageSize level
  match pte leaf 8 2 with
  | 0 => localKey .hbm pa
  | 1 => localKey .lpddr pa
  | 2 => some (hostKey pa)
  | _ => if pa / 2 ^ 50 < 2 then some (remoteKey (pte leaf 52 10) pa) else none

/-- Translation and the checks of R182, in order: a cause code, or the key of the location. -/
def State.translate (s : State) (ptbr : Word) (priv : Bool) (n : Need) (va : Word) : Except Nat Nat :=
  match s.leafOf ptbr va.toNat with
  | none => .error n.cause
  | some (leaf, level) =>
    match leafKey leaf level va.toNat with
    | none => .error n.cause
    | some key =>
      if (n.r && pte leaf 1 1 = 0) || (n.w && pte leaf 2 1 = 0) || (n.x && pte leaf 3 1 = 0) || (!priv && pte leaf 4 1 = 0)
      then .error 0x08
      else if n.w && (pte leaf 7 1 = 1 || s.sealedKey key) then .error 0x09
      else if n.packed != (pte leaf 6 1 = 1) then .error 0x0A
      else .ok key

/-- The key of an offset in a local space for the slice in turn; none at or beyond the space's size (R173). -/
def State.localSpace (s : State) (i : StrandId) (side : Side) (sp : Space) (off : Nat) : Option Nat :=
  match sp with
  | .global => none
  | .spad => let g := s.gangOf i; if off < g.spadPages * 4096 then some (spadKey i.cluster (g.spadPage * 4096 + off)) else none
  | .shared =>
    let p := (s.launchOf i.lid).pkt
    if off < p.shsize.toNat * 65536 then some (sharedKey (i.cluster / 40) (p.shbase.toNat * 65536 + off)) else none
  | .tcm => if off < Config.tcmBytes then some (tcmKey i.cluster i.pair side off) else none

/-- Is the line of this key known to hold an uncorrectable error (R272)? -/
def State.isBad (s : State) (key : Nat) : Bool := s.bad.contains (lineOf key)

/-- The cause of an uncorrectable error at a key: MEMERR, in a TCM with TCAUSE.STATE = 1 (R263, R272). -/
def memErr (key : Nat) : Nat := if 2 ^ 44 ≤ key ∧ key < 2 ^ 60 then 0x8B else 0x0B

/-- The place of an access of the slice in turn: a cause code, or its key (R173, R182). -/
def State.place (s : State) (sp : Space) (n : Need) (a : Word) : Except Nat Nat :=
  match sp with
  | .global => s.translate s.strand.trap.ptbr (s.side == Side.access && s.strand.trap.priv) n a
  | sp =>
    match s.localSpace s.strand.id s.side sp a.toNat with
    | some k => .ok k
    | none => .error n.cause

/-- The location of an access: its place, where a read of a line with an uncorrectable error is MEMERR (R272). -/
def State.locate (s : State) (sp : Space) (n : Need) (a : Word) : Except Nat Nat :=
  match s.place sp n a with
  | .ok k => if n.r && s.isBad k then .error (memErr k) else .ok k
  | .error c => .error c

/-! Packages that can be reached. -/

/-- Package and PA of a REMOTE key. -/
def remotePa (key : Nat) : Nat × Nat := ((key - 2 ^ 70) / 2 ^ 52, (key - 2 ^ 70) % 2 ^ 52)

/-- The number of turns of a round (R228). -/
def Fabric.turns (f : Fabric) : Nat := max 1 ((f.d - 1 + 127) / 128)

/-- A calendar entry: VALID and PARTNER (R230). -/
def Fabric.entry (f : Fabric) (t p : Nat) : BitVec 16 := assocGet 0 f.cal (128 * t + p)

/-- Does some valid calendar entry name the package (R251)? Entries with t ≥ T are ignored (R230). -/
def Fabric.reaches (f : Fabric) (x : Nat) : Bool :=
  f.cal.any fun e => e.1 / 128 < f.turns && e.2.getLsbD 15 && e.2.toNat % 1024 == x

/-- An operation to this package fails before any flit is sent (R251). -/
def State.remoteFails (s : State) (x : Nat) : Bool := x ≥ s.fab.d || x == s.fab.self.toNat || !s.fab.reaches x

end Sys2Proof.Machine
end

