-- ==== Sys2Proof/Machine/EngPlan.lean ====
section
/-! DEFINITION. What a command of a copy engine comes to: its checks, the elements that it reads and the bytes that it writes (R190 to R193,
R345 to R348). -/

namespace Sys2Proof.Machine

/-- FORMAT at issue, for command `op`. -/
def engFormat (op : Nat) (d : EngDesc) : Bool :=
  match d.f1, d.fd with
  | some a, some b =>
    let cols := 1 ≤ d.cols && d.cols ≤ 2 ^ 24 && 1 ≤ d.rows && d.rows ≤ 2 ^ 24
    let common := d.flags < 2 ^ 13 && d.fmt < 2 ^ 20 && d.rnd.isSome && d.scope ≤ 4 && cols && bits d.fmt 19 1 == 0
    let srow := d.cols ≤ d.sp
    let drow := (if d.transpose then d.rows else d.cols) ≤ d.dp
    let src2 := (Fmt.ofCode (bits d.fmt 5 5)).isSome
    let own :=
      if op = 0 then srow && drow && d.a1 == 0 && d.a2 == 0 && d.a3 == 0
      else if op = 1 then
        src2 && srow && drow && d.cols ≤ d.dp && (a == .fp32 || a == .bf16 || a == .fp16) && b.isMx && d.cols % 32 == 0
          && d.rows % 32 == 0
      else
        src2 && a == b && bits d.fmt 15 5 == 0 && !d.transpose && d.a2 == 0 && d.a3 == 0
          && (if op = 2 then srow && d.dnib == 0 else drow && d.snib == 0 && d.a1 == 0)
    !(common && own)
  | _, _ => true

/-- PITCH at issue: the pitches that the command uses, and SNIB or DNIB on a wide format. -/
def engPitch (op : Nat) (d : EngDesc) : Bool :=
  match d.f1, d.fd with
  | some a, some b =>
    (op != 3 && d.sp * a.width % 8 != 0) || (op != 2 && d.dp * b.width % 8 != 0) || (d.snib == 1 && a.width != 4)
      || (d.dnib == 1 && b.width != 4)
  | _, _ => false

/-- Bytes at the ends of rows that elements of four bits cover in part. -/
def rowEdges (base n pitch len : Nat) : List Nat :=
  (List.range n).flatMap fun r =>
    let lo := base + r * pitch * 4
    let hi := lo + len * 4
    (if lo % 8 = 0 then [] else [lo / 8]) ++ (if hi % 8 = 0 then [] else [hi / 8])

/-- The bytes of which a command writes one nibble and keeps the other. -/
def engEdges (op : Nat) (d : EngDesc) : List Nat :=
  if op = 2 || d.fd.map Fmt.width != some 4 then []
  else
    let (n, len) := if d.transpose then (d.cols, d.rows) else (d.rows, d.cols)
    if op = 1 then rowEdges (8 * d.dst + 4 * d.dnib) d.rows d.dp d.cols ++ rowEdges (8 * d.a1 + 4 * d.dnib) n d.dp len
    else rowEdges (8 * d.dst + 4 * d.dnib) n d.dp len

/-- Lowest and highest byte of a list of intervals. -/
def hull (l : List (Nat × Nat)) : Nat × Nat := ((l.map (·.1)).foldl min (2 ^ 80), (l.map (·.2)).foldl max 0)

/-- Do two lists of intervals share a byte? -/
def spansMeet (a b : List (Nat × Nat)) : Bool :=
  let (la, ha) := hull a
  let (lb, hb) := hull b
  la < hb && lb < ha && a.any fun x => b.any fun y => decide (x.1 < y.2 ∧ y.1 < x.2)

/-- Size of a local space for a strand; GLOBAL has no bound here. -/
def State.spaceSize (s : State) (i : StrandId) (sp : Space) : Nat :=
  match sp with
  | .global => 2 ^ 80
  | .spad => (s.gangOf i).spadPages * 4096
  | .shared => (s.launchOf i.lid).pkt.shsize.toNat * 65536
  | .tcm => Config.tcmBytes

/-- RANGE at issue. -/
def State.engRange (s : State) (i : StrandId) (op : Nat) (d : EngDesc) : Bool :=
  let r := engReads op d
  let w := engWrites op d
  (hull r).2 > s.spaceSize i d.sspace || (hull w).2 > s.spaceSize i d.dspace || (d.sspace == d.dspace && spansMeet r w)
    || (op == 2 && d.dspace != .global && d.dst % 64 != 0)

/-- The code of a check that fails at issue: FORMAT, then PITCH, then RANGE (R190). -/
def State.engCheck (s : State) (i : StrandId) (op : Nat) (d : EngDesc) : Option Nat :=
  if engFormat op d then some 2 else if engPitch op d then some 1 else if s.engRange i op d then some 3 else none

/-! Moving data. -/

/-- One output of a command: nibble address in its space, width in bits, and value. -/
structure EngOut where
  nib : Nat
  w : Nat
  v : Nat
  deriving DecidableEq, Repr

/-- Bytes that an element at a nibble address covers, as first byte and count. -/
def nibBytes (nib w : Nat) : Nat × Nat := (nib / 2, (nib % 2 * 4 + w + 7) / 8)

/-- The place of one byte for a command: a code of R190, or its key. -/
def State.engLoc (s : State) (c : Command) (sp : Space) (n : Need) (a : Nat) : Except Nat Nat :=
  match sp with
  | .global =>
    if 2 ^ 64 ≤ a then .error 4
    else
      match s.translate c.ptbr c.priv n (BitVec.ofNat 64 a) with
      | .ok k => if isRemote k && s.remoteFails (remotePa k).1 then .error 8 else if n.r && s.isBad k then .error 7 else .ok k
      | .error e => .error (if e = 0x09 then 5 else if e = 0x0A then 6 else 4)
  | sp =>
    match s.localSpace c.owner .access sp a with
    | some k => if n.r && s.isBad k then .error 7 else .ok k
    | none => .error 4

/-- The keys of `n` bytes from `a`: the first failing byte with its code, or all of them. -/
def State.engKeys (s : State) (c : Command) (sp : Space) (need : Need) (a : Nat) : Nat → Except (Nat × Nat) (List Nat)
  | 0 => .ok []
  | n + 1 =>
    match s.engLoc c sp need a with
    | .error e => .error (e, a)
    | .ok k =>
      match s.engKeys c sp need (a + 1) n with
      | .ok l => .ok (k :: l)
      | e => e

/-- One element read at a nibble address; a byte of a far line that is missing reads as 0, and `missing` has been empty first. -/
def State.engRead (s : State) (c : Command) (need : Need) (sp : Space) (nib w : Nat) : Except (Nat × Nat) Nat :=
  let (a, n) := nibBytes nib w
  match s.engKeys c sp need a n with
  | .error e => .error e
  | .ok ks => .ok (bits (leNat (ks.map fun k => (s.byteAt (c.owner.cluster / 40) k).getD 0)) (nib % 2 * 4) w)

/-- Nibble address of source element (i, j) (R345). -/
def EngDesc.srcNib (d : EngDesc) (w i j : Nat) : Nat := 2 * d.src + d.snib + (i * d.sp + j) * (w / 4)

/-- Nibble address of destination element (i, j) from a base. -/
def EngDesc.dstNib (d : EngDesc) (base w : Nat) (tr : Bool) (i j : Nat) : Nat :=
  2 * base + d.dnib + (if tr then j * d.dp + i else i * d.dp + j) * (w / 4)

/-- Reading a list of nibble addresses, in order, each at its place: values, and the first failure. -/
def State.engReadAll (s : State) (c : Command) (need : Need) (sp : Space) (w : Nat) (nibs : List Nat) :
    List (Option Nat) × Option (Nat × Nat) :=
  let rs := nibs.map (s.engRead c need sp · w)
  (rs.map fun r => match r with | .ok v => some v | .error _ => none,
    rs.findSome? fun r => match r with | .ok _ => none | .error e => some e)

/-- Row-major indices. -/
def gridOf (rows cols : Nat) : List (Nat × Nat) := (List.range rows).flatMap fun i => (List.range cols).map fun j => (i, j)

/-- What a command comes to: its outputs, the first failure, and bytes needed (EPACK). -/
structure EngPlan where
  outs : List EngOut
  fail : Option (Nat × Nat)
  needed : Nat
  deriving DecidableEq, Repr

/-- ECOPY (R191, R346): bitwise between equal formats. -/
def State.planCopy (s : State) (c : Command) (d : EngDesc) (a b : Fmt) (rnd : Rnd) : EngPlan :=
  let g := gridOf d.rows d.cols
  let (vs, fail) := s.engReadAll c .load d.sspace a.width (g.map fun p => d.srcNib a.width p.1 p.2)
  let f : FmtWord := ⟨a, a, b, rnd, d.sat, false⟩
  let outs := (g.zip vs).filterMap fun (p, v) => v.map fun v =>
    ⟨d.dstNib d.dst b.width d.transpose p.1 p.2, b.width, if a = b then v else (convert f (a.decode v)).1⟩
  ⟨outs, fail, 0⟩

/-- EQUANT (R192, R347): both orientations of every 32 × 32 tile. -/
def State.planQuant (s : State) (c : Command) (d : EngDesc) (a b : Fmt) (rnd : Rnd) : EngPlan :=
  let (vs, fail) := s.engReadAll c .load d.sspace a.width ((gridOf d.rows d.cols).map fun p => d.srcNib a.width p.1 p.2)
  match fail with
  | some e => ⟨[], some e, 0⟩
  | none =>
    let x := (vs.map fun v => a.decode (v.getD 0)).toArray
    let val := fun i j => x.getD (i * d.cols + j) (.fin false 0 0)
    let rowOuts := (gridOf d.rows (d.cols / 32)).flatMap fun (r, t) =>
      let (sc, ys) := quantBlock b rnd d.sat ((List.range 32).map fun k => val r (32 * t + k))
      ⟨2 * (d.a2 + r * (d.cols / 32) + t), 8, sc⟩ ::
        (List.range 32).map fun k => ⟨d.dstNib d.dst b.width false r (32 * t + k), b.width, (ys.getD k (0, .none)).1⟩
    let colOuts := (gridOf (d.rows / 32) d.cols).flatMap fun (t, j) =>
      let (sc, ys) := quantBlock b rnd d.sat ((List.range 32).map fun k => val (32 * t + k) j)
      ⟨2 * (d.a3 + t * d.cols + j), 8, sc⟩ ::
        (List.range 32).map fun k => ⟨d.dstNib d.a1 b.width d.transpose (32 * t + k) j, b.width, (ys.getD k (0, .none)).1⟩
    ⟨rowOuts ++ colOuts, none, 0⟩

/-- EPACK (R193, R348): header, bitmap and the flagged elements; padding bytes hold free values. An output that would reach beyond AUX1
bytes is not written. -/
def State.planPack (s : State) (c : Command) (d : EngDesc) (a : Fmt) : EngPlan :=
  let (vs, fail) := s.engReadAll c .load d.sspace a.width ((gridOf d.rows d.cols).map fun p => d.srcNib a.width p.1 p.2)
  match fail with
  | some e => ⟨[], some e, 0⟩
  | none =>
    let xs := vs.map fun v => a.significant (v.getD 0)
    let kept := xs.filter (· ≠ 0)
    let used := d.values + (kept.length * a.width + 7) / 8
    let total := (used + 63) / 64 * 64
    let byte := fun o v => EngOut.mk (2 * (d.dst + o)) 8 v
    let header := (leBytes 8 d.rows ++ leBytes 8 d.cols ++ leBytes 8 a.code ++ leBytes 8 total).map (·.toNat)
    let map := (List.range d.bitmap).map fun k => leNat [BitVec.ofNat 8 (((List.range 8).map fun b =>
      if xs.getD (8 * k + b) 0 = 0 then 0 else 2 ^ b).sum)]
    let free := fun o => (Config.freeValue (s.fresh + o)).toNat % 256
    let pad := ((List.range (d.values - 32 - d.bitmap)).map (· + 32 + d.bitmap) ++ (List.range (total - used)).map (· + used)).map
      fun o => byte o (free o)
    let vals := (List.range kept.length).map fun k => EngOut.mk (2 * (d.dst + d.values) + k * (a.width / 4)) a.width (kept.getD k 0)
    let half := if a.width = 4 ∧ kept.length % 2 = 1 then
        [EngOut.mk (2 * (d.dst + d.values) + kept.length) 4 (free used % 16)] else []
    let outs := (header ++ map).zipIdx.map (fun (v, o) => byte o v) ++ vals ++ half ++ pad
    if d.dspace = .global ∧ d.dst % 64 ≠ 0 then ⟨[], some (4, d.dst), total⟩
    else if d.a1 < total then ⟨outs.filter fun o => (4 * o.nib + o.w + 7) / 8 ≤ d.dst + d.a1, some (9, 0), total⟩
    else ⟨outs, none, total⟩

/-- EUNPACK (R193, R348): the header and bitmap first, then dense elements. Only the bitmap tells where its packed values end; RANGE for them
is found here, before any write (R190; log 22). A FORMAT that the header brings names SRC, where R190 leaves the address open (log 74). -/
def State.planUnpack (s : State) (c : Command) (d : EngDesc) (a : Fmt) : EngPlan :=
  let need : Need := { Need.load with packed := d.sspace == .global }
  let (hs, fail) := s.engReadAll c need d.sspace 8 ((List.range (32 + d.bitmap)).map fun o => 2 * (d.src + o))
  match fail with
  | some e => ⟨[], some e, 0⟩
  | none =>
    let h := hs.map (·.getD 0)
    let num := fun o => leNat (((h.drop o).take 8).map (BitVec.ofNat 8))
    if num 0 ≠ d.rows ∨ num 8 ≠ d.cols ∨ num 16 ≠ a.code then ⟨[], some (2, d.src), 0⟩
    else
      let flag := fun e => (h.getD (32 + e / 8) 0).testBit (e % 8)
      let flagged := (List.range (d.rows * d.cols)).filter flag
      let from_ := d.src + d.values
      let until_ := from_ + (flagged.length * a.width + 7) / 8
      if s.spaceSize c.owner d.sspace < until_ || (d.sspace == d.dspace && !flagged.isEmpty && spansMeet [(from_, until_)] (engWrites 3 d)) then
        ⟨[], some (3, 0), 0⟩
      else
      let (vs, fail) := s.engReadAll c need d.sspace a.width
        ((List.range flagged.length).map fun k => 2 * (d.src + d.values) + k * (a.width / 4))
      let put := fun (e v : Nat) => EngOut.mk (d.dstNib d.dst a.width false (e / d.cols) (e % d.cols)) a.width (a.significant v)
      let zeros := ((List.range (d.rows * d.cols)).filter fun e => !flag e).map fun e => put e 0
      ⟨zeros ++ (flagged.zip vs).filterMap (fun (e, v) => v.map (put e)), fail, 0⟩

/-- The plan of a command. -/
def State.engPlan (s : State) (c : Command) : EngPlan :=
  let d := engDesc c.desc
  match d.f1, d.fd, d.rnd with
  | some a, some b, some rnd =>
    if c.op = 0 then s.planCopy c d a b rnd
    else if c.op = 1 then s.planQuant c d a b rnd
    else if c.op = 2 then s.planPack c d a
    else s.planUnpack c d a
  | _, _, _ => ⟨[], some (2, 0), 0⟩

/-- What the command's writes need of a page. -/
def Command.writeNeed (c : Command) : Need :=
  { Need.store with packed := c.op == 2 && (engDesc c.desc).dspace == .global }

/-- The bytes that one output writes, at their keys; `laid` holds the bytes that outputs of part of a byte have written before it. -/
def State.engOutBytes (s : State) (c : Command) (laid : List (Nat × Byte)) (o : EngOut) : Except (Nat × Nat) (List (Nat × Byte)) :=
  let d := engDesc c.desc
  let (a, n) := nibBytes o.nib o.w
  match s.engKeys c d.dspace c.writeNeed a n with
  | .error e => .error e
  | .ok ks =>
    if o.w = 4 ∨ o.nib % 2 = 1 then
      let old := leNat (ks.map fun k =>
        match laid.find? fun b => b.1 == k with
        | some b => b.2
        | none => (s.byteAt (c.owner.cluster / 40) k).getD 0)
      let lo := o.nib % 2 * 4
      let new := old - bits old lo o.w * 2 ^ lo + o.v % 2 ^ o.w * 2 ^ lo
      .ok (ks.zip (leBytes n new))
    else .ok (ks.zip (leBytes n o.v))

/-- The bytes of each output in turn. -/
def State.engAllBytes (s : State) (c : Command) (laid : List (Nat × Byte)) : List EngOut → List (Except (Nat × Nat) (List (Nat × Byte)))
  | [] => []
  | o :: rest =>
    let r := s.engOutBytes c laid o
    let laid := match r with
      | .ok bs => if o.w = 4 ∨ o.nib % 2 = 1 then bs ++ laid else laid
      | .error _ => laid
    r :: s.engAllBytes c laid rest

/-- One output of a plan: its number, which two nibbles of one byte share, the address of its first byte and its bytes at their keys. -/
structure EngBytes where
  num : Nat
  addr : Nat
  bytes : List (Nat × Byte)
  deriving DecidableEq, Repr

/-- The far lines of some bytes of the source that the die has no copy of. -/
def State.engAbsent (s : State) (c : Command) (need : Need) (bytes : List Nat) : List Nat :=
  (bytes.filterMap fun a =>
    match s.engLoc c .global need a with
    | .ok k => if isFar k && (s.byteAt (c.owner.cluster / 40) k).isNone then some (lineOf k) else none
    | .error _ => none).eraseDups

/-- The packed values of an EUNPACK source, once its bitmap can be read. -/
def State.engValues (s : State) (c : Command) (d : EngDesc) (w : Nat) : List Nat :=
  let (bs, _) := s.engReadAll c { Need.load with packed := true } d.sspace 8 ((List.range d.bitmap).map fun o => 2 * (d.src + 32 + o))
  let n := ((bs.map fun b => (List.range 8).countP (fun k => (b.getD 0).testBit k)).sum)
  (List.range ((n * w + 7) / 8)).map (d.src + d.values + ·)

/-- What the command's reads need of a page. -/
def Command.readNeed (c : Command) : Need := { Need.load with packed := c.op == 3 && (engDesc c.desc).sspace == .global }

/-- The far lines that the command still has to read: those of its source, and then those of bytes of which it writes one nibble. -/
def State.engMissing (s : State) (c : Command) : List Nat :=
  let d := engDesc c.desc
  match d.f1 with
  | none => []
  | some a =>
    let first := if d.sspace = .global then s.engAbsent c c.readNeed (spanBytes (engReads c.op d)) else []
    if !first.isEmpty then first
    else
      (if c.op = 3 ∧ d.sspace = .global then s.engAbsent c c.readNeed (s.engValues c d a.width) else [])
        ++ (if d.dspace = .global then s.engAbsent c c.writeNeed (engEdges c.op d) else [])

/-- The first byte of an output that lies in a word with an uncorrectable error and is written without the whole of that word (log 15). -/
def State.engMerge (s : State) (outs : List EngBytes) : Option (Nat × Nat) :=
  if s.bad.isEmpty then none
  else
    let all := outs.flatMap fun o => o.bytes.map (·.1)
    outs.findSome? fun o => (o.bytes.zipIdx.find? fun (p, _) =>
      s.isBad p.1 && (List.range 8).any fun j => !all.contains (p.1 / 8 * 8 + j)).map fun (_, j) => (7, o.addr + j)

/-- The scratchpad range of a command: lowest and highest byte and whether it writes there; none without SPAD (R189). Of an EUNPACK it
reaches to the packed values that its bitmap, as it stands, tells of; of an EPACK, whose output size is not known before it runs, to the
end of its AUX1 bytes, which is the model's choice (log 45). -/
def State.engSpad (s : State) (c : Command) : Option (Nat × Nat × Bool) :=
  let d := engDesc c.desc
  let r := if d.sspace = .spad then
      engReads c.op d ++ (match d.f1 with
        | some a => if c.op = 3 then (s.engValues c d a.width).map fun x => (x, x + 1) else []
        | none => [])
    else []
  let w := if d.dspace = .spad then engWrites c.op d else []
  if r.isEmpty && w.isEmpty then none
  else let (lo, hi) := hull (r ++ w); some (lo, hi, !w.isEmpty)

/-- Must a command wait for an earlier one of its gang (R189)? -/
def State.engConflict (s : State) (a b : Command) : Bool :=
  a.owner.lid == b.owner.lid && a.owner.squad == b.owner.squad && a.owner.gang == b.owner.gang &&
    match s.engSpad a, s.engSpad b with
    | some (l1, h1, w1), some (l2, h2, w2) => decide (l1 < h2 ∧ l2 < h1) && (w1 || w2)
    | _, _ => false

/-- The number of output `i`: two nibbles of one byte are one write, and bear the number of the first of them. -/
def EngPlan.number (p : EngPlan) (i : Nat) (o : EngOut) : Nat :=
  if o.w = 4 then (p.outs.findIdx? fun q => q.w == 4 && q.nib / 2 == o.nib / 2).getD i else i

/-- Does an output cover nibble `h` of its `j`-th byte? -/
def EngOut.covers (o : EngOut) (j h : Nat) : Bool := decide (o.nib % 2 ≤ 2 * j + h) && decide (2 * j + h < o.nib % 2 + o.w / 4)

/-- The bytes of the outputs of a command that fails: one of which only a part is written is left out where the die has no copy of the rest,
unless another output writes that with it. -/
def State.engKept (s : State) (c : Command) (l : List (EngOut × List (Nat × Byte))) : List (EngOut × List (Nat × Byte)) :=
  let half := fun k h => l.any fun q => q.1.w == 4 && q.2.zipIdx.any fun (p, j) => p.1 == k && q.1.covers j h
  l.map fun q => (q.1, (q.2.zipIdx.filter fun (p, j) =>
    (s.byteAt (c.owner.cluster / 40) p.1).isSome || (q.1.covers j 0 && q.1.covers j 1) || (half p.1 0 && half p.1 1)).map (·.1))

/-- The outputs of a plan that pass their checks, and the first failure of the command. -/
def State.engOuts (s : State) (c : Command) (p : EngPlan) : List EngBytes × Option (Nat × Nat) :=
  let checked := s.engAllBytes c [] p.outs
  let passed := (checked.zip p.outs).zipIdx.filterMap fun ((r, o), i) => match r with
    | .ok bs => some (p.number i o, o, bs)
    | .error _ => none
  let made := fun l : List (Nat × EngOut × List (Nat × Byte)) => l.map fun q => EngBytes.mk q.1 (q.2.1.nib / 2) q.2.2
  let fail := match p.fail with
    | some e => some e
    | none =>
      match checked.findSome? fun r => match r with | .error e => some e | .ok _ => none with
      | some e => some e
      | none => s.engMerge (made passed)
  (made (if fail.isNone then passed else (passed.map (·.1)).zip (s.engKept c (passed.map (·.2)))), fail)

/-- The writes of which a command that fails performs any subset: what lies in one aligned 8-byte word that it covers wholly is one write
(R345), otherwise each output is one. -/
def engPieces (outs : List EngBytes) : List EngBytes :=
  let all := outs.flatMap fun o => o.bytes.map (·.1)
  outs.flatMap fun o => ((o.bytes.map fun p => p.1 / 8).eraseDups).map fun w =>
    let whole := (List.range 8).all fun j => all.contains (8 * w + j)
    let first := (o.bytes.findIdx? fun p => p.1 / 8 == w).getD 0
    ⟨if whole then 2 * w else 2 * o.num + 1, o.addr + first, o.bytes.filter fun p => p.1 / 8 == w⟩

/-- Does a command of an engine wait for an earlier one (R189)? -/
def State.engQueued (s : State) (c : Command) : Bool :=
  (s.engine c.owner.cluster).cmds.any fun x => x.seq < c.seq && s.engConflict x c

/-- Has a request of the command yet to be answered? -/
def State.engWaits (s : State) (c : Command) : Bool := s.reqs.any fun r => r.who == .engine c.owner.cluster c.seq

end Sys2Proof.Machine
end

