-- ==== Sys2Proof/Machine/Fetch.lean ====
section
/-! DEFINITION. The fetch (R281, R282), and the VLSYNCs at which a trap finds the access slice (R442). -/

namespace Sys2Proof.Machine

/-- One halfword of the instruction at `pc`: its bytes, or the trap, or the far key that is missing. -/
inductive FetchHalf
  | ok (v : Nat)
  | trap (t : Trap)
  | miss (key : Nat)
  deriving DecidableEq, Repr

/-- What a die has of a far line of a launch's code. -/
def Launch.codeLine (l : Launch) (die line : Nat) : CodeLine :=
  (l.codeLines.find? fun c => c.die == die && c.line == line).getD ⟨die, line, 0, 0⟩

/-- The bytes that a fetch of the strand in focus finds at a key: those performed before its launch started (R198). Of a far line they are
those that its die had then, and otherwise what the line's home has answered to a fetch (log 56). -/
def State.codeBytes (s : State) (key n : Nat) : Option (List Byte) :=
  let l := s.launchOf s.strand.id.lid
  if isFar key then
    let c := l.codeLine s.strand.die (lineOf key)
    let at_ := key % 64
    if (List.range n).all fun j => c.have_.getLsbD (at_ + j)
    then some ((List.range n).map fun j => c.data.extractLsb' (8 * (at_ + j)) 8) else none
  else some (l.code.read key n)

/-- The answer to a fetch of a far line: it gives the bytes that the die did not have when the launch started. A byte that this package has
written since then is not the one to fetch: it is a free value (log 56). -/
def State.codeCame (s : State) (lid : BitVec 32) (die line : Nat) (data : List Byte) : State :=
  let c := (s.launchOf lid).codeLine die line
  let sent := assocGet 0 (s.launchOf lid).codeSent line
  let bytes := (List.range 64).foldl (fun (d : BitVec 512) j =>
    if c.have_.getLsbD j then d
    else putBits d (8 * j) 8 (if sent.getLsbD j then (Config.freeValue (s.fresh + j)).toNat else (data.getD j 0).toNat)) c.data
  let c := { c with have_ := BitVec.allOnes 64, data := bytes }
  { s.mapLaunch lid fun l => { l with codeLines := c :: l.codeLines.filter fun x => !(x.die == die && x.line == line) } with
    fresh := s.fresh + 64 }

/-- The halfword at `a` of the instruction at `pc`. Whatever fails reports the instruction's own address (R281; log 56). -/
def State.fetchHalf (s : State) (pc a : Word) : FetchHalf :=
  match s.translate s.strand.trap.ptbr (s.side == Side.access && s.strand.trap.priv) .fetch a with
  | .error c => .trap ⟨BitVec.ofNat 8 c, pc⟩
  | .ok k =>
    if s.isBad k then .trap ⟨0x0B, pc⟩
    else
      match s.codeBytes k 2 with
      | some bs => .ok (leNat bs)
      | none => .miss k

/-- Halfwords `i` to `i + n - 1` of the instruction at `pc`, as one number. -/
def State.fetchMore (s : State) (pc : Word) (i : Nat) : Nat → FetchHalf
  | 0 => .ok 0
  | n + 1 =>
    match s.fetchHalf pc (pc + BitVec.ofNat 64 (2 * i)) with
    | .ok h =>
      match s.fetchMore pc (i + 1) n with
      | .ok rest => .ok (h + 65536 * rest)
      | e => e
    | e => e

/-- The instruction at the PC of the slice in turn: its length and its word (R281). A PC that is odd faults. -/
def State.fetch (s : State) : Except (Trap ⊕ Nat) (Nat × Nat) :=
  let pc := s.pc
  if pc.getLsbD 0 then .error (.inl ⟨0x07, pc⟩)
  else
    match s.fetchHalf pc pc with
    | .trap t => .error (.inl t)
    | .miss k => .error (.inr k)
    | .ok h =>
      let len := lengthOf h
      match s.fetchMore pc 0 (len / 2) with
      | .trap t => .error (.inl t)
      | .miss k => .error (.inr k)
      | .ok w => .ok (len, w)

/-- The instruction at the PC of the slice in turn, when it can be fetched and decoded. -/
def State.nextInstr (s : State) : Option Instr :=
  match s.fetch with
  | .ok (len, w) => match decodeWord len w with | .ok i => some i | .error _ => none
  | .error _ => none

/-- VLSYNC's effect: the vector memory accesses that follow stand behind those before it (R205, R442). -/
def State.vlsync (s : State) : State := (s.order ⟨some .vector, .rw, some .vector, .rw, false⟩).advance 4

/-- The access slice past the VLSYNCs, up to `n`, that come next: where a trap stops it, a VLSYNC is in force and TPCA holds the address after
it (R442). -/
def State.passVlsyncs (s : State) : Nat → State
  | 0 => s
  | n + 1 => if s.nextInstr = some .vlsync then s.vlsync.passVlsyncs n else s

/-- The same whichever slice is in turn, for as many in a row as a page of 64 KiB holds (log 81). -/
def State.pastVlsync (s : State) : State := { ({ s with side := .access }).passVlsyncs 16384 with side := s.side }

end Sys2Proof.Machine
end

