-- ==== Sys2Proof/Machine/Ops.lean ====
section
/-! DEFINITION. The named operations that end what a strand or a launch does: event records, the abort of a launch, the queue
occupancies that a trap records, taking a trap and returning from one (R77, R258 to R265, R277, R280). -/

namespace Sys2Proof.Machine

/-! Event records and the abort of a launch. -/

/-- Tier and physical address that LQBASE or EQBASE names, as a key (R280). -/
def baseKey (w : Word) : Nat :=
  let pa := w.toNat / 128 % 2 ^ 45 * 128
  if w.toNat % 4 = 1 then lpddrKey pa else pa

/-- Room in the event queue (R280). -/
def EventQueue.room (e : EventQueue) : Bool := (e.tail - e.head).toNat < 2 ^ (e.size.toNat % 32)

/-- Writing one record and advancing EQTAIL (R280). A slot in a sealed page is not written (R279; log 59). -/
def State.writeRecord (s : State) (r : List Byte) : State :=
  let e := s.hub.events
  let a := baseKey e.base + e.tail.toNat % 2 ^ (e.size.toNat % 32) * 64
  { s with
    mem := if s.sealedKey a then s.mem else s.mem.setAll (atKeys a r)
    hub := { s.hub with events :=
      { e with tail := e.tail + 1, interrupts := if e.msix then e.interrupts + 1 else e.interrupts } } }

/-- Writing held records while the queue has room and EN is 1 (R280). -/
def State.drainRecords (s : State) : Nat → State
  | 0 => s
  | n + 1 =>
    match s.hub.events.held with
    | [] => s
    | r :: rs =>
      if s.hub.events.en && s.hub.events.room then
        let s := { s with hub := { s.hub with events := { s.hub.events with held := rs } } }
        (s.writeRecord r).drainRecords n
      else s

/-- Posting a record of 64 bytes (R280): it is held while the queue is full or off, and lost beyond 4,096 held. -/
def State.post (s : State) (r : List Byte) : State :=
  let e := s.hub.events
  let r := (r ++ List.replicate 64 0).take 64
  if e.held.length < 4096 then
    ({ s with hub := { s.hub with events := { e with held := e.held ++ [r] } } }).drainRecords 4097
  else if e.en && e.room then (s.drainRecords 4097)
  else { s with hub := { s.hub with events := { e with lost := e.lost + 1 } } }

/-- A record's bytes: TYPE, byte 1, bytes 2 and 3, then the rest from byte 4 (R280). -/
def record (typ b1 h2 : Nat) (rest : List Byte) : List Byte := leBytes 1 typ ++ leBytes 1 b1 ++ leBytes 2 h2 ++ rest

/-- A record that holds a LID at 4 to 7 and more from byte 8. -/
def lidRecord (typ b1 : Nat) (lid : BitVec 32) (rest : List Byte) : List Byte := record typ b1 0 (leBytes 4 lid.toNat ++ rest)

/-- A write to a sealed page that no strand is there to fault for is dropped and reported (R279). The device address of the record is the
physical address without its tier, which R280 leaves open (log 59). -/
def State.sealWrite (s : State) (pa : Nat) : State := s.post (record 0x09 0 0 (List.replicate 12 0 ++ leBytes 8 pa))

/-- Keeping the LID of a rejected or aborted launch, the 1,024 most recent (R27). -/
def State.keepRejected (s : State) (lid : BitVec 32) : State :=
  { s with hub := { s.hub with rejected := (lid :: s.hub.rejected).take 1024 } }

/-- Taking the head packet off its queue (R27, R31). -/
def State.popHead (s : State) (q : Nat) : State :=
  let l := s.lq q
  s.setLq q { l with head := l.head + 1, checked := none, posts := l.posts.filter fun p => (p.1 - (l.head + 1)).toNat ≠ 0 }

/-- Rejecting the packet at the head of a queue (R27). -/
def State.reject (s : State) (q code : Nat) (lid : BitVec 32) : State :=
  ((s.popHead q).keepRejected lid).post (lidRecord 0x02 code lid [])

/-- Does PRED name a launch that was rejected or aborted (R27)? A launch in flight bears its LID alone (log 23). -/
def State.predFails (s : State) (pred : BitVec 32) : Bool := pred ≠ 0 && s.hub.rejected.contains pred && !s.inFlight pred

/-- Rejecting the waiting packets whose predecessor is one of the rejected or aborted launches, until none is left (R27). -/
def State.predFail (s : State) : Nat → State
  | 0 => s
  | n + 1 =>
    match s.hub.queues.find? (fun p => match p.2.checked with
        | some h => s.predFails h.pkt.pred
        | none => false) with
    | some (q, l) =>
      match l.checked with
      | some h => (s.reject q 0x06 h.pkt.lid).predFail n
      | none => s
    | none => s

/-- Nobody waits any longer for the requests of those who satisfy `p`: line fills and what writes at the home of a line go on as the hub's,
the rest is dropped. -/
def State.orphan (s : State) (p : Requester → Bool) : State :=
  { s with reqs := (s.reqs.filter fun r => !p r.who || r.fill || r.mask != 0 || !r.wrote.isEmpty).map fun r => if p r.who then { r with who := .hub } else r }

/-- Is it a slice of this core pair? -/
def Requester.isSlice (w : Requester) (key : Nat) : Bool :=
  match w with
  | .slice k _ => k == key
  | _ => false

/-- A command of this launch leaves its engine: it counts as ended (R277). -/
def Engine.dropLaunch (e : Engine) (lid : BitVec 32) : Engine :=
  { e with
    cmds := e.cmds.filter fun c => c.owner.lid ≠ lid
    ended := e.ended ++ (e.cmds.filter fun c => c.owner.lid == lid).map (·.seq) }

/-- Removing a launch's strands, gangs, squads and everything of theirs in progress. -/
def State.dropResident (s : State) (lid : BitVec 32) : State :=
  let keys := (s.strands.filter fun t => t.id.lid == lid).map Strand.key
  let s := s.orphan fun w => match w with
    | .slice k _ | .queue k => keys.contains k
    | .launch l => l == lid
    | .engine .. | .engineLines | .hub => false
  let s := s.setStrands (s.strands.filter fun t => t.id.lid ≠ lid)
  { s with
    gangs := s.gangs.filter fun g => g.lid ≠ lid
    squads := s.squads.filter fun q => q.lid ≠ lid
    engines := s.engines.map fun e => e.dropLaunch lid
    det :=
      { entries := s.det.entries.filter fun d => d.lid ≠ lid
        fallback := s.det.fallback.filter fun d => d.lid ≠ lid
        adds := s.det.adds.filter fun d => d.lid ≠ lid
        due := s.det.due.filter fun d => !(d.adds.any fun a => a.lid == lid)
        sync := s.det.sync.filter fun d => d.lid ≠ lid } }

/-- A free subset of the launch's stores in flight takes effect (R277). -/
def State.someStores (s : State) (lid : BitVec 32) : State :=
  let pend := (s.strands.filter fun t => t.id.lid == lid).flatMap fun t => t.stores.map fun st => (t.id, st)
  let s' := pend.zipIdx.foldl (fun u (p, i) => if Config.freeChoice s.fresh i then u.performWrites p.1 p.2 else u) s
  { s' with fresh := s.fresh + 1 }

/-- A free subset of the writes of a running engine command takes effect, as its die performs them (R200, R277; log 22): of a command that
has its source and waits for no earlier one. -/
def State.someMovesOf (s : State) (c : Command) : State :=
  if c.moved || c.failed.isSome || s.engQueued c || !(s.engMissing c).isEmpty then s
  else
    let p := s.engPlan c
    let s' := (engPieces (s.engOuts c p).1).foldl (fun (u : State) o =>
      if Config.freeChoice s.fresh o.num then u.perform (c.owner.cluster / 40) o.bytes else u) s
    { s' with fresh := s.fresh + 1 + p.needed }

/-- A free subset of the writes of the launch's running engine commands takes effect (R277; log 22). -/
def State.someMoves (s : State) (lid : BitVec 32) : State :=
  ((s.engines.flatMap (·.cmds)).filter fun c => c.owner.lid == lid).foldl (fun (u : State) c => u.someMovesOf c) s

/-- BUSY returns to 0 when the record of its launch is posted (R278). -/
def State.clearBusy (s : State) (lid : BitVec 32) : State :=
  match s.hub.busy with
  | some c => if c.lid = lid then { s with hub := { s.hub with busy := none } } else s
  | none => s

/-- Aborting a launch (R277): its strands stop, its squads are dropped, it writes no completion word, the hub posts ABORT
with the reason, and packets waiting for it are rejected. -/
def State.abort (s : State) (lid : BitVec 32) (reason : Nat) : State :=
  if s.inFlight lid then
    let s := ((s.someMoves lid).someStores lid).dropResident lid
    let s := { s with launches := s.launches.filter fun l => l.pkt.lid ≠ lid }
    (((s.keepRejected lid).post (lidRecord 0x03 reason lid [])).clearBusy lid).predFail 64
  else s

/-! Queue occupancies (R77). -/

/-- Pops dispatched into the vector instruction queue and not yet taken (R55). -/
def Queues.boundPops (q : Queues) : Nat := (q.viq.filter fun e => e.slot.isSome).length

/-- Pushes that wait in the vector instruction queue. -/
def Queues.boundPushes (q : Queues) : Nat :=
  (q.viq.filter fun e => match e.ins with | .vpush _ | .ppush .. => true | _ => false).length

/-- The fields of QSTAT for some LDQ slots and a number of SDQ entries. -/
def Queues.occupancy (q : Queues) (ldq : List QSlot) (sdq : Nat) : BitVec 24 :=
  BitVec.ofNat 24
    ((ldq.filter (·.full)).length + (ldq.filter (!·.full)).length * 2 ^ 4 + sdq * 2 ^ 8 + q.aq.length * 2 ^ 12 + q.cq.length * 2 ^ 18)

/-- QSTAT. -/
def Strand.qstat (t : Strand) : BitVec 24 := t.q.occupancy t.q.ldq t.q.sdq.length

/-- QSTAT as a slice reads it: it reflects every push and pop of that slice before the read, those that wait in the vector instruction
queue among them. -/
def Strand.qstatOf (t : Strand) (side : Side) : BitVec 24 :=
  if side = .access then t.qstat else t.q.occupancy (t.q.ldq.drop t.q.boundPops) (t.q.sdq.length + t.q.boundPushes)

/-! Traps (R258 to R265). -/

/-- TSTAT at a trap's entry: SLICE, PPRIV, ACK = 0, RESUME, ELEM, QOCC (R260, R261). -/
def tstatWord (slice ppriv resume : Bool) (elem qocc : BitVec 24) : BitVec 53 :=
  qocc ++ elem ++ BitVec.ofBool resume ++ 0#1 ++ 0#1 ++ BitVec.ofBool ppriv ++ BitVec.ofBool slice

/-- TSTAT.ACK (R260). -/
def TrapRegs.ack (t : TrapRegs) : Bool := t.tstat.getLsbD 3

/-- Every load that has read all its elements has completed when its slice stops (R69, R73, R75). -/
def Queues.finishLoads (q : Queues) : Queues :=
  { q with ldq := q.ldq.map fun e => if e.arrived then { e with full := true } else e }

/-- The entries of the matrix queue that wait for older entries of the vector instruction queue, with all behind them: none has begun (R167).
-/
def Queues.notBegun (q : Queues) : List MqEntry := q.mq.dropWhile fun e => e.wait == 0

/-- They stand in the vector instruction queue again, where there is room for them, so that the strand's context holds them (R171; log 21). -/
def Queues.returnMatrix (q : Queues) : Queues :=
  let back := q.notBegun
  if 32 < q.viq.length + back.length then q
  else
    { q with
      mq := q.mq.takeWhile fun e => e.wait == 0
      viq := back.foldr (fun e l => match e.entry with
        | some x => l.take e.behind ++ x :: l.drop e.behind
        | none => l) q.viq }

/-- Has the matrix queue nothing to complete before a pre-emption (R171)? -/
def Queues.matrixAway (q : Queues) : Bool := q.returnMatrix.mq.isEmpty

/-- The code of a cause as TCAUSE shows it. -/
def Trap.shown (t : Trap) : BitVec 8 := t.code &&& 0x7F

/-- Trap entry (R261): the trap registers are written with the addresses at which the slices resume (R262), the compute
slice is held, the access slice enters S and fetches from TVEC. `compute` tells whose cause it is. -/
def Strand.enterTrap (t : Strand) (cause : Trap) (compute resume state : Bool) (tpca tpcc : Word) : Strand :=
  let elem := if compute then t.cmp.vstart else t.acc.vstart
  let t := { t with q := t.q.finishLoads.returnMatrix }
  { t with
    acc := { t.acc with pc := t.trap.tvec &&& 0x00FFFFFFFFFFFFFE, stall := none, waitReq := none, reply := none, sent := 0 }
    cmp := { t.cmp with stall := none, waitReq := none, reply := none }
    trap :=
      { t.trap with
        tcause := BitVec.setWidth 64 cause.shown + (if state || cause.code.getLsbD 7 then 0x10000 else 0)
        taddr := if cause.code.getLsbD 7 then 0 else cause.addr
        tpca := tpca
        tpcc := tpcc
        tstat := tstatWord compute t.trap.priv resume elem t.qstat
        priv := true
        held := true
        accStop := none } }

/-- Is it a FENCE, which on the compute slice may wait in the vector instruction queue (R357)? -/
def isFence (i : Instr) : Bool :=
  match i with
  | .fence .. => true
  | _ => false

/-- The compute slice stops precisely at a FENCE that waits, when nothing younger has executed: it executes again, in full (R357; log 77). -/
def State.stopAtFence (s : State) : State :=
  match s.strand.q.viq.getLast? with
  | some e =>
    if isFence e.ins && !e.passed then
      let s := s.orphan fun w => w == .queue s.strand.key
      { s with strand := { s.strand with
        q := { s.strand.q with viq := s.strand.q.viq.dropLast, headStall := none, headReq := none, headReply := none }
        cmp := { s.strand.cmp with pc := e.addr } } }
    else s
  | none => s

/-- The strand in focus takes a trap, with the slices' own program counters: its loads have their data, and an answer that a slice
waited for is no longer waited for. -/
def State.enterTrap (s : State) (cause : Trap) (compute : Bool) : State :=
  let s := (if compute then s else s.stopAtFence).finishLoads.orphan fun w => w.isSlice s.strand.key
  { s with strand := s.strand.enterTrap cause compute false false s.strand.acc.pc s.strand.cmp.pc }

/-- A double fault (R265): both slices halt, TCAUSE.CODE2 takes the second cause, the hub posts a DOUBLE record and
aborts the launch. -/
def State.doubleFault (s : State) (cause : Trap) : State :=
  let t := s.strand
  let tcause := (t.trap.tcause &&& ~~~(0xFF00 : Word)) ||| (BitVec.setWidth 64 cause.shown <<< 8)
  let rest := leBytes 1 tcause.toNat ++ leBytes 1 cause.shown.toNat ++ leBytes 2 t.id.cluster ++ leBytes 1 t.id.pair
    ++ [0, 0, 0] ++ leBytes 8 t.trap.tpca.toNat ++ leBytes 8 t.trap.tpcc.toNat ++ leBytes 8 t.trap.taddr.toNat
  let s := { s with strand := { t with trap := { t.trap with tcause := tcause, dead := true } } }
  (s.post (lidRecord 0x04 0 t.id.lid rest)).abort t.id.lid 2

/-- A trap raised by the instruction of the slice in turn (R69 to R73, R261, R265). At S before the TACK it is a double
fault, at S after it an ordinary trap. At U, a fault of the compute slice enters the handler at once, with the access
slice's cause when that slice already stands stopped, or stands stopped itself until the access slice has the answer of its oldest
instruction; a fault of that instruction meanwhile recurs, and the trap has the compute slice's cause (R73). The access slice then stops at
an instruction boundary, which is the model's choice among the places that R75 lets the device choose (log 30). A fault of the access slice
alone stops it there, and the handler is entered when the compute slice stops (R71). VSTART holds the element already. -/
def State.raiseAt (s : State) (cause : Trap) : State :=
  if s.side = .access then
    if s.strand.trap.priv then
      if s.strand.trap.ack then s.enterTrap cause false else s.doubleFault cause
    else
      let s := (s.drain fun a => !a.loads.isEmpty && a.side == .access).orphan fun w => w == .slice s.strand.key .access
      match s.strand.cmp.stall with
      | some (.fault c) => s.enterTrap c true
      | _ =>
      { s with strand := { s.strand with
        acc := { s.strand.acc with stall := none, waitReq := none, reply := none, sent := 0 }
        q := s.strand.q.finishLoads
        trap := { s.strand.trap with accStop := some cause } } }
  else
    match s.strand.trap.accStop with
    | some c => s.enterTrap c false
    | none => if s.strand.acc.waitReq.isSome then s.wait (.fault cause) else s.pastVlsync.enterTrap cause true

/-- A trap raised by an instruction that has no elements: of the access slice VSTART becomes 0 (R69). -/
def State.raise (s : State) (cause : Trap) : State :=
  (if s.side = .access then s.setCur { s.cur with vstart := 0 } else s).raiseAt cause

/-- A trap with a cause code of R263. -/
def State.trap (s : State) (code : Nat) (addr : Word) : State := s.raise ⟨BitVec.ofNat 8 code, addr⟩

/-- ILLEGAL: TADDR holds the first 32 bits of the instruction (R263, R282). -/
def State.illegal (s : State) (i : Instr) : State := s.trap 0x01 (BitVec.ofNat 64 (encode i % 2 ^ 32))

/-- VTYPE (R86, R94). -/
def State.vtype (s : State) : State := s.trap 0x02 0

/-- PRIV (R258). -/
def State.privTrap (s : State) : State := s.trap 0x03 0

/-- MISALIGN (R263). -/
def State.misalign (s : State) (addr : Word) : State := s.trap 0x04 addr

/-- Executed on the access slice only (R52, R282 step 2). -/
def State.onAccess (s : State) (i : Instr) (k : State → Out) : Out :=
  if s.side = .access then k s else .next (s.illegal i)

/-- Executed on the compute slice only (R52, R282 step 2). -/
def State.onCompute (s : State) (i : Instr) (k : State → Out) : Out :=
  if s.side = .compute then k s else .next (s.illegal i)

/-- Reserved to S on the access slice (R264, R282 steps 2 and 3): ILLEGAL on the compute slice, PRIV at U. -/
def State.onSupervisor (s : State) (i : Instr) (k : State → Out) : Out :=
  s.onAccess i fun s => if s.strand.trap.priv then k s else .next s.privTrap

/-- The return of TRET (R264): user bank, TSTAT.PPRIV, both slices at TPCA and TPCC, the queue released. -/
def State.trapReturn (s : State) : State :=
  let t := s.strand
  let toS := t.trap.tstat.getLsbD 1
  { s with strand :=
    { t with
      acc := { t.acc with pc := t.trap.tpca, stall := none }
      cmp := { t.cmp with pc := t.trap.tpcc, stall := none }
      trap := { t.trap with priv := toS, held := toS } } }

end Sys2Proof.Machine
end

