-- ==== Sys2Proof/Machine/Translate.lean ====
section
/-! DEFINITION. The requests that leave for the host and for remote packages (R249 to R251). -/

namespace Sys2Proof.Machine

/-- Keeping the translation that an access used. -/
def State.used (s : State) (sp : Space) (a : Word) : State :=
  match sp with
  | .global => s.remember s.strand.trap.ptbr a.toNat
  | _ => s

/-! Requests to the host and to remote packages. -/

/-- A flit with nothing in it but a type, a class and a destination. -/
def Fabric.flit (f : Fabric) (typ cls dst seq : Nat) : Flit :=
  { typ := BitVec.ofNat 8 typ, flags := BitVec.ofNat 8 cls, src := BitVec.setWidth 16 f.self, dst := BitVec.ofNat 16 dst, len := 0,
    seq := BitVec.ofNat 32 seq, mark := 0, addr := 0, opx := 0, payload := [], crc := 0 }

/-- Queueing a flit at the gateway behind the others (R244). -/
def State.enqueue (s : State) (f : Flit) (cls : Nat) : State :=
  { s with fab := { s.fab with gate := s.fab.gate ++ [⟨f, cls, none, s.fab.order⟩], order := s.fab.order + 1 } }

/-- A new ORDERED (0) or FREE (1) flit: it takes the next number of its space (R245). -/
def State.sendFlit (s : State) (typ cls dst : Nat) (direct : Bool) (fill : Flit → Flit) : Nat × State :=
  let p := s.peer (BitVec.ofNat 16 dst)
  let seq := if cls = 0 then p.ordNext else p.freeNext
  let f := fill (s.fab.flit typ (cls + if direct then 8 else 0) dst seq.toNat)
  let p' := if cls = 0 then { p with ordNext := p.ordNext + 1 } else { p with freeNext := p.freeNext + 1 }
  (seq.toNat, (s.setPeer p').enqueue f 3)

/-- Registering an outstanding request. -/
def State.addReq (s : State) (who : Requester) (key : Nat) (fill remote : Bool) (die dst cls seq : Nat) : Nat × State :=
  (s.reqNext,
    { s with
      reqNext := s.reqNext + 1
      reqs := s.reqs ++ [⟨s.reqNext, who, key, fill, false, die, BitVec.ofNat 16 dst, BitVec.ofNat 2 cls, BitVec.ofNat 32 seq, remote, [], 0,
        0, none, if remote then [(BitVec.ofNat 2 cls, BitVec.ofNat 32 seq, 1)] else []⟩] })

/-- The flits that the newest request rests on, and the bytes that it writes back. -/
def State.restsOn (s : State) (mask : BitVec 64) (data : BitVec 512) (l : List (BitVec 2 × BitVec 32 × Nat)) : State :=
  { s with reqs := s.reqs.map fun r => if r.id + 1 = s.reqNext then { r with mask := mask, data := data, flits := l } else r }

/-- The newest request is this AtomicOp. -/
def State.asksAtomic (s : State) (op : HostAtomic) : State :=
  { s with reqs := s.reqs.map fun r => if r.id + 1 = s.reqNext then { r with atomic := some op } else r }

/-- The newest request writes these bytes of far lines at their home: no launch in flight, nor one that starts before it ends, fetches what it
writes (R198). -/
def State.writesHome (s : State) (l : List (Nat × BitVec 64)) : State :=
  let s := { s with reqs := s.reqs.map fun r => if r.id + 1 = s.reqNext then { r with wrote := l } else r }
  l.foldl (fun (u : State) w => u.codeWrote w.1 w.2) s

/-- The bytes of far lines that this package has on their way to their home (R198, R200). -/
def State.onTheWay (s : State) : List (Nat × BitVec 64) :=
  (s.reqs.flatMap fun r => (r.addr, r.mask) :: r.wrote).foldl (fun l w => if w.2 = 0 then l else assocSet l w.1 (assocGet 0 l w.1 ||| w.2)) []

/-- Have buffered adds that are due yet to reach a word of this line on this die (R223)? -/
def State.dueOn (s : State) (die line : Nat) : Bool := s.det.due.any fun d => d.die == die && lineOf d.key == line

/-- Is a write-back of this line by this die in flight (R246)? -/
def State.backInFlight (s : State) (die key : Nat) : Bool := s.reqs.any fun r => r.mask != 0 && r.die == die && r.addr == lineOf key

/-- Asking for the line of a far key, from host memory or by RDREQ; class 0 for a SYSTEM-scope acquire (R247, R249). -/
def State.askLineBy (s : State) (direct : Bool) (who : Requester) (key die cls : Nat) (fill : Bool) : Nat × State :=
  let line := lineOf key
  if isRemote key then
    let (x, pa) := remotePa line
    let (seq, s) := s.sendFlit 0x02 cls x direct fun f => { f with addr := BitVec.ofNat 64 pa, opx := 64 }
    s.addReq who line fill true die x cls seq
  else s.addReq who line fill false die 0 0 0

/-- The same with the ADAPTIVE policy of every access but an engine's (R243). -/
def State.askLine (s : State) (who : Requester) (key die cls : Nat) (fill : Bool) : Nat × State :=
  s.askLineBy false who key die cls fill

/-- The hub asks for a far line for a die, unless it is on its way or cannot come yet. -/
def State.hubLine (s : State) (die key : Nat) : State :=
  if s.backInFlight die key || (s.reqs.any fun r => r.fill && r.die == die && r.addr == lineOf key)
      || (isRemote key && s.remoteFails (remotePa key).1) then s
  else (s.askLine .hub key die 1 true).2

/-- The slice in turn waits for an answer. -/
def State.waitReply (s : State) (id : Nat) : State :=
  s.setCur { s.cur with stall := some .reply, waitReq := some id }

/-- The slice in turn has taken its answer. -/
def State.takeReply (s : State) : State := s.setCur { s.cur with reply := none, waitReq := none }

/-- A read or write that needs the line of a far key: it waits for the line, behind any write-back of it that is in flight, and fails with
REMOTE when the answer for the line is a failure or the package cannot be reached (R251, R333). Once the line is present the
instruction runs again. -/
def State.needLine (s : State) (a : Word) (key : Nat) : State :=
  match s.cur.reply with
  | some r => if r.ok || r.addr != lineOf key then s.takeReply.wait .reply else s.takeReply.trap 0x13 a
  | none =>
    if s.cur.waitReq.isSome || s.backInFlight s.strand.die key then s.wait .reply
    else if isRemote key && s.remoteFails (remotePa key).1 then s.trap 0x13 a
    else let (id, s) := s.askLine (.slice s.strand.key s.side) key s.strand.die 1 true; s.waitReply id

/-- Installing an answered line as the die's copy: bytes that are dirty there stay (R214). Other fills of the line may be older (R202). -/
def State.installLine (s : State) (die line : Nat) (data : List Byte) : State :=
  let s := s.staleFills die line
  let old := (s.l2Line die line).getD ⟨die, line, false, 0, 0, 0⟩
  let merged := (List.range 64).foldl (fun (d : BitVec 512) i =>
    if (old.dirty ||| old.flying).getLsbD i then d else putBits d (8 * i) 8 (data.getD i 0).toNat) old.data
  { s with l2 := { old with filled := true, data := merged } :: s.l2.filter fun x => !(x.die == die && x.line == line) }

end Sys2Proof.Machine
end

