-- ==== Sys2Proof/Machine/Operands.lean ====
section
/-! DEFINITION. The operand forms of the scalar instructions: immediates (R285), addresses (R362, R404), sizes (R287),
and the scalar registers that an instruction names. -/

namespace Sys2Proof.Machine

/-- imm19 of the U layout (R285). -/
def uimm (i : BitVec 19) : Word := sext i <<< 12

/-- A branch or jump offset: SignExtend × 2 (R285, R291). -/
def boff {n : Nat} (i : BitVec n) : Word := sext i <<< 1

/-- Bytes of a load size (R287). -/
def ldBytes : LdSize → Nat
  | .b | .bn => 1
  | .h | .hn => 2
  | .w | .wn => 4
  | .d => 8

/-- Bytes of a store size (R287). -/
def stBytes : StSize → Nat
  | .b => 1
  | .h => 2
  | .w => 4
  | .d => 8

/-- The scalar registers that an instruction reads by number. -/
def scalarReads (i : Instr) : List Reg :=
  match i with
  | .add a | .sub a | .mul a | .mulh a | .mulhn a | .div a | .divn a | .rem a | .remn a | .and a | .or a | .xor a | .sll a
  | .srl a | .sra a | .slt a | .sltn a | .min a | .max a | .minn a | .maxn a | .bext a | .vfork a => [a.rs1, a.rs2]
  | .bins a => [a.rd, a.rs1, a.rs2]
  | .clz a | .ctz a | .popc a => [a.rs1]
  | .addi a | .andi a | .ori a | .xori a | .slti a | .sltin a | .jalr a => [a.rs1]
  | .slli a | .srli a | .srai a => [a.rs1]
  | .beq a | .bne a | .blt a | .bge a | .bltn a | .bgen a => [a.rs1, a.rs2]
  | .ld a => [a.rs1]
  | .st a => [a.rs1, a.rs2]
  | .ldAcq a => [a.rs1]
  | .stRel a => [a.rs1, a.rs2]
  | .amoadd a | .amoand a | .amoor a | .amoxor a | .amomin a | .amomax a | .amoswp a | .amofadd a => [a.rs1, a.rs2]
  | .cas a => [a.rd, a.rs1, a.rs2]
  | .amofaddDet a => [a.rs1, a.rs2]
  | .fadd a | .fsub a | .fmul a | .fdiv a | .fmin a | .fmax a | .fcmpEq a | .fcmpLt a | .fcmpLe a => [a.rs1, a.rs2]
  | .fsqrt a | .fclass a => [a.rs1]
  | .ffma a => [a.rs1, a.rs2, a.rs3]
  | .fcvt _ a => [a.rs1]
  | .mts _ r => [r]
  | .join r | .cpush r | .apush r | .slipReg r | .vsave r | .vrestore r => [r]
  | .vsetl _ _ xs => [xs]
  | .vle r | .vlx r | .vlff r | .vse r | .vsx r | .vamo _ r => [r]
  | .vls r q | .vlb r q | .vss r q | .vsb r q => [r, q]
  | .ecopy _ x | .equant _ x | .epack _ x | .eunpack _ x | .evpop _ x => [x]
  | .seal a => [a.rs1, a.rs2]
  | .barinit a | .barinitSq a => [a.xs]
  | .vadd a | .vsub a | .vmul a | .vmulh a | .vdiv a | .vrem a | .vmin a | .vmax a | .vand a | .vor a | .vxor a | .vsll a
  | .vsrl a | .vsra a | .vfadd a | .vfsub a | .vfmul a | .vfdiv a | .vfma a | .vfms a | .vfnma a | .vfmin a | .vfmax a
  | .vwma a | .vmerge a | .vslideup a | .vslidedn a | .vperm a | .vredsum a | .vredmin a | .vredmax a | .vscan a
  | .vfredsum a | .vfredmin a | .vfredmax a | .vfscan a =>
    (match a.src2 with | .vs x => [x] | _ => []) ++ [Fin.ofNat 32 (24 + a.fmt.val)]
  | .vcmp a => (match a.src2 with | .vs x => [x] | _ => []) ++ [Fin.ofNat 32 (24 + a.fmt.val)]
  | .vfcmp a => (match a.src2 with | .vs x => [x] | _ => []) ++ [Fin.ofNat 32 (24 + a.fmt.val)]
  | .vmv a => (match a.src2 with | .vs x => [x] | _ => []) ++ [Fin.ofNat 32 (24 + a.fmt.val)]
  | .viota a => (match a.src2 with | .vs x => [x] | _ => []) ++ [Fin.ofNat 32 (24 + a.fmt.val)]
  | .vfsqrt a | .vfcvt a | .vcompress a | .vexpand a => [Fin.ofNat 32 (24 + a.fmt.val)]
  | .vbmand a | .visect a => [Fin.ofNat 32 (24 + a.fmt.val)]
  | .vbprefix a => [a.xs, Fin.ofNat 32 (24 + a.fmt.val)]
  | .vhacc a => [a.xs, Fin.ofNat 32 (24 + a.fmt.val)]
  | .vpruneN1M4 a | .vpruneN2M4 a | .vpruneN1M8 a | .vpruneN2M8 a | .vpruneN4M8 a => [Fin.ofNat 32 (24 + a.fmt.val)]
  | .vwait a => [a.xs]
  | .pscl a => [a.xs]
  | .paxpy a | .pjump a | .pavg a => [a.xs]
  | .pint a | .peval a => [a.xs]
  | .ppop _ x | .ppush _ x | .pset _ x | .psetDg _ x => [x]
  | .mldb a | .mldbP a | .mst a | .mldacc a => [a.xs1, a.xs2, Fin.ofNat 32 (24 + a.fmt.val)]
  | .mma a => [Fin.ofNat 32 (24 + a.fmt.val)]
  | .mzero _ fmt => [Fin.ofNat 32 (24 + fmt.val)]
  | .hAddi r _ => [r]
  | .hCopy _ x => [x]
  | .hAdd r x => [r, x]
  | .hBz r _ | .hBnz r _ => [r]
  | _ => []

/-- The scalar register that an instruction writes by number. -/
def scalarWrite (i : Instr) : Option Reg :=
  match i with
  | .add a | .sub a | .mul a | .mulh a | .mulhn a | .div a | .divn a | .rem a | .remn a | .and a | .or a | .xor a | .sll a
  | .srl a | .sra a | .slt a | .sltn a | .min a | .max a | .minn a | .maxn a | .bext a | .bins a | .vfork a => some a.rd
  | .clz a | .ctz a | .popc a => some a.rd
  | .addi a | .andi a | .ori a | .xori a | .slti a | .sltin a | .jalr a => some a.rd
  | .slli a | .srli a | .srai a => some a.rd
  | .lui a | .auipc a | .jal a => some a.rd
  | .ld a => some a.rd
  | .ldAcq a => some a.rd
  | .amoadd a | .amoand a | .amoor a | .amoxor a | .amomin a | .amomax a | .amoswp a | .cas a | .amofadd a => some a.rd
  | .fadd a | .fsub a | .fmul a | .fdiv a | .fmin a | .fmax a | .fcmpEq a | .fcmpLt a | .fcmpLe a => some a.rd
  | .fsqrt a | .fclass a => some a.rd
  | .ffma a => some a.rd
  | .fcvt _ a => some a.rd
  | .mfs rd _ => some rd
  | .cpop r | .apop r | .vsetlQ r | .eseq r => some r
  | .vsetl _ rd _ => some rd
  | .ecopy rd _ | .equant rd _ | .epack rd _ | .eunpack rd _ | .evpop rd _ => some rd
  | .seal a => some a.rd
  | .barinit a | .barinitSq a => some a.rd
  | .pget x _ | .pgetDg x _ => some x
  | .vpopc a | .vfirst a => some a.rd
  | .hAddi r _ | .hSeti r _ => some r
  | .hCopy r _ | .hAdd r _ => some r
  | _ => none

/-- The scalar registers that an instruction reads or writes by number. -/
def scalarRegs (i : Instr) : List Reg := scalarReads i ++ (scalarWrite i).toList

/-- The scalar register that a queued vector instruction is yet to write (R98); x0 is never written. -/
def pendingX (i : Instr) : Option Reg :=
  match i with
  | .vpopc a | .vfirst a => if a.rd = 0 then none else some a.rd
  | .pget x _ | .pgetDg x _ => if x = 0 then none else some x
  | _ => none

/-- The scalar register of a slice that a read of a waiting load is yet to write. -/
def PendLoad.pendingX (l : PendLoad) (side : Side) : Option Reg :=
  match l.dst with
  | .reg d _ r _ => if d = side && r ≠ 0 then some r else none
  | .slot .. => none

/-- Does an instruction of the slice in turn read a scalar register that a queued instruction is yet to write (R98), or name one that a
waiting load is yet to write? -/
def State.hazard (s : State) (i : Instr) : Bool :=
  (s.side == Side.compute && s.strand.q.viq.any fun e => match pendingX e.ins with
    | some r => (scalarReads i).contains r
    | none => false) ||
  s.strand.stores.any fun a => a.loads.any fun l => match l.pendingX s.side with
    | some r => (scalarRegs i).contains r
    | none => false

/-- A queued vector instruction whose scalar result has been superseded by a younger write: it writes x0 instead (R85, R98; log 17). -/
def withoutX (i : Instr) : Instr :=
  match i with
  | .vpopc a => .vpopc { a with rd := 0 }
  | .vfirst a => .vfirst { a with rd := 0 }
  | .pget _ f => .pget 0 f
  | .pgetDg _ f => .pgetDg 0 f
  | i => i

/-- A queued entry when a younger instruction of the slice executes: a scalar register that the younger one writes is the entry's no longer,
since the younger one did not wait for it (R98). -/
def ViqEntry.overtaken (e : ViqEntry) (i : Instr) : ViqEntry :=
  { e with passed := true, ins := if pendingX e.ins ≠ none ∧ pendingX e.ins = scalarWrite i then withoutX e.ins else e.ins }

/-- What follows an instruction of the compute slice that has executed, for the `n` entries that stood in the vector instruction queue before
it. -/
def State.overtake (s : State) (n : Nat) (i : Instr) : State :=
  if s.side = .compute ∧ s.strand.cmp.stall = none ∧ !s.strand.trap.held then
    { s with strand := { s.strand with q := { s.strand.q with
        viq := (s.strand.q.viq.take n).map (fun e => e.overtaken i) ++ s.strand.q.viq.drop n } } }
  else s

/-- The turn of an instruction that has been decoded: it first waits for the registers it names (R98). -/
def State.ready (s : State) (i : Instr) : Bool := !s.hazard i

end Sys2Proof.Machine
end

