-- ==== Sys2Proof/Machine/Lost.lean ====
section
/-! DEFINITION. Storage of a strand that holds an uncorrectable error: which of it an instruction reads, so that every later read finds the
error again (R272; log 49). -/

namespace Sys2Proof.Machine

/-- Vector and mask registers by their numbers in VDIRTY (R269). -/
def vecParts (vs : List (Fin 32)) : List LostPart := vs.map fun v => .vec (Fin.castLE (by decide) v)

/-- A mask register. -/
def maskPart (m : MReg) : List LostPart := [.vec (Fin.ofNat 48 (32 + m.val))]

/-- The mask register that governs. -/
def govPart (g : Gov) : List LostPart :=
  match g with
  | .none => []
  | .m1 => maskPart 1
  | .m2 => maskPart 2
  | .m3 => maskPart 3

/-- A vector source, with the scales in the register after it where the format word asks for them (R114). -/
def srcParts (scaled : Bool) (v : VReg) : List LostPart :=
  vecParts (if scaled then [v, Fin.ofNat 32 (v.val + 1)] else [v])

/-- The second source of a V-layout instruction. -/
def src2Parts (scaled : Bool) : Src2 → List LostPart
  | .vv v => srcParts scaled v
  | _ => []

/-- The function registers of the span that a register heads (R127, R130). -/
def funcParts (v : VecState) (f : FReg) : List LostPart :=
  let raw := (v.pdesc.get f).toNat
  if bits raw 24 1 = 1 then (List.range (2 ^ bits raw 4 2)).map fun k => .vec (Fin.ofNat 48 (40 + (f.val + k) % 8)) else []

/-- The registers of the group that VWMA accumulates into (R95). -/
def wmaSpan (fw : Word) : Nat :=
  match Fmt.ofCode (bits fw.toNat 0 5), Fmt.ofCode (bits fw.toNat 10 5) with
  | some a, some d => d.width / a.width
  | _, _ => 1

/-- What an instruction of the compute slice reads of vector, mask and function registers and of LDQ, with its format word. -/
def vectorReads (v : VecState) (fw : Word) (i : Instr) : List LostPart :=
  let sc := fw.getLsbD 19
  let f := funcParts v
  match i with
  | .vadd a | .vsub a | .vmul a | .vmulh a | .vdiv a | .vrem a | .vmin a | .vmax a | .vand a | .vor a | .vxor a
  | .vsll a | .vsrl a | .vsra a | .vfadd a | .vfsub a | .vfmul a | .vfdiv a | .vfmin a | .vfmax a
  | .vmerge a | .vslideup a | .vslidedn a | .vperm a | .vredsum a | .vredmin a | .vredmax a | .vscan a
  | .vfredsum a | .vfredmin a | .vfredmax a | .vfscan a => govPart a.gov ++ srcParts sc a.vs1 ++ src2Parts sc a.src2
  | .vfma a | .vfms a | .vfnma a => govPart a.gov ++ srcParts sc a.vs1 ++ src2Parts sc a.src2 ++ vecParts [a.vd]
  | .vwma a => govPart a.gov ++ srcParts sc a.vs1 ++ src2Parts sc a.src2 ++ vecParts ((List.range (wmaSpan fw)).map fun k => Fin.ofNat 32 (a.vd.val + k))
  | .vfsqrt a | .vfcvt a | .vcompress a | .vexpand a => govPart a.gov ++ srcParts sc a.vs1
  | .vcmp a => govPart a.gov ++ srcParts sc a.vs1 ++ src2Parts sc a.src2
  | .vfcmp a => govPart a.gov ++ srcParts sc a.vs1 ++ src2Parts sc a.src2
  | .vmv a => govPart a.gov ++ src2Parts sc a.src2
  | .viota a => govPart a.gov ++ maskPart a.ms ++ src2Parts sc a.src2
  | .vmand a | .vmor a | .vmxor a | .vmandn a => maskPart a.ms1 ++ maskPart a.ms2
  | .vmnot _ ms => maskPart ms
  | .vpopc a | .vfirst a => govPart a.gov ++ maskPart a.ms
  | .vbrkb a | .vbrka a => govPart a.gov ++ maskPart a.ms
  | .bany a | .ball a | .bnone a => maskPart a.md
  | .vbmand a | .visect a => vecParts [a.vs1, a.vs2]
  | .vbprefix a => vecParts [a.vs1]
  | .vhacc a => vecParts [a.vs1, a.vs2]
  | .vpruneN1M4 a | .vpruneN2M4 a | .vpruneN1M8 a | .vpruneN2M8 a | .vpruneN4M8 a => vecParts [a.vs]
  | .vwait a => govPart a.gov ++ vecParts [a.vs1, a.vs2]
  | .vpush vs => vecParts [vs]
  | .mma a => srcParts sc a.vs
  | .pmov _ x | .pdiff _ _ x | .pproj _ x _ | .ptrace _ x _ | .ppush x _ => f x
  | .padd a | .psub a | .pmul _ a => f a.fs1 ++ f a.fs2
  | .pscl a => govPart a.gov ++ f a.fs1 ++ vecParts [a.vs]
  | .paxpy a | .pjump a | .pavg a => govPart a.gov ++ f a.fs1 ++ f a.fs2 ++ vecParts [a.vs]
  | .pint a => govPart a.gov ++ f a.fs1
  | .peval a => govPart a.gov ++ f a.fs1 ++ vecParts ((List.range 3).map fun k => Fin.ofNat 32 (a.vd.val + k))
  | .vpop _ | .ppop _ _ => [.ldq]
  | _ => []

/-- The scalar registers of a bank. -/
def bankParts (side : Side) : List LostPart := (List.range 31).map fun k => .reg side false (Fin.ofNat 32 (k + 1))

/-- Has register `k`, as VDIRTY numbers them, bytes that a save writes: is its tag non-zero (R269)? -/
def VecState.tagged (v : VecState) (k : Nat) : Bool :=
  if k < 32 then (v.vvalid.get (Fin.ofNat 32 k)) != 0
  else if k < 40 then v.mvalid.getLsbD (k - 32)
  else (v.fvalid.get (Fin.ofNat 8 (k - 40))) != 0

/-- What VSAVE reads to write the save area (R268): both user banks and the queues, and unless they are absent the vector, mask and function
registers that it does not skip, `all` telling that it skips no clean one (R269). -/
def savedParts (t : Strand) (all : Bool) : List LostPart :=
  bankParts .access ++ bankParts .compute ++ [.aq, .cq, .ldq, .sdq, .viq]
    ++ if t.trap.vabsent then [] else ((List.range 48).filter fun k => t.vec.tagged k && (all || t.vec.vdirty.getLsbD k)).map fun k =>
      .vec (Fin.ofNat 48 k)

/-- The scalar registers and queues that an instruction of a slice reads as it is dispatched. -/
def dispatchReads (side : Side) (super : Bool) (i : Instr) : List LostPart :=
  ((scalarReads i).filter fun r => r ≠ 0).map (LostPart.reg side super) ++
    match i with
    | .apop _ | .vsetlQ _ => [.aq]
    | .cpop _ | .bqz _ | .bqnz _ => [.cq]
    | .vse _ | .vss .. | .vsb .. | .vlx _ | .vsx _ | .vamo .. => [.sdq]
    | .mfs _ n =>
      if 0x140 < n.toNat && n.toNat < 0x160 then [.reg .access false (Fin.ofNat 32 (n.toNat - 0x140))]
      else if 0x160 < n.toNat && n.toNat < 0x180 then [.reg .compute false (Fin.ofNat 32 (n.toNat - 0x160))]
      else []
    | _ => []

/-- Does the instruction at dispatch read storage of the strand that holds an error? VSAVE reads all that it saves. What the vector instruction
queue is to read it finds when it runs; mask branches read at dispatch (R99). A format register is the last one that an instruction reads by number. -/
def State.readsLost (s : State) (i : Instr) : Bool :=
  let lost := s.strand.lost
  !lost.isEmpty &&
    ((dispatchReads s.side (s.side == Side.access && s.strand.trap.priv) i).any lost.contains ||
      (match i with | .vsave xs => (savedParts s.strand (s.x xs != s.strand.trap.restaddr)).any lost.contains | _ => false) ||
      (s.side == Side.compute && (s.strand.q.viq.isEmpty || match i with | .bany _ | .ball _ | .bnone _ => true | _ => false) &&
        (vectorReads s.strand.vec
          ((scalarReads i).getLast?.elim 0 fun r => s.strand.regs.comp.get r) i).any lost.contains))

/-- Does the entry at the head of the vector instruction queue read storage that holds an error, the queue's own among it? -/
def State.entryLost (s : State) (e : ViqEntry) : Bool :=
  let lost := s.strand.lost
  !lost.isEmpty && (lost.contains .viq || (vectorReads s.strand.vec e.fmtWord e.ins).any lost.contains)

end Sys2Proof.Machine
end

