-- ==== Sys2Proof/Machine/Turns.lean ====
section
/-! DEFINITION. What stands before the meaning of an instruction in a slice's turn: whether the slice can run, the traps
that are ready, the fetch and the decoding (R50, R71, R261, R281, R282), and whose turn comes next (log 2). -/

namespace Sys2Proof.Machine

/-- Can the slice in turn execute an instruction? -/
def State.canRun (s : State) : Bool :=
  s.strand.resident && !s.strand.trap.dead && !s.strand.trap.parked && !s.strand.trap.loading &&
    (if s.side = .access then s.strand.trap.priv || (!s.strand.acc.halted && s.strand.trap.accStop.isNone)
     else !s.strand.cmp.halted && !s.strand.trap.held)

/-- The turn passes: from the access slice to the compute slice, from there to the next strand (R50; log 2). -/
def State.passTurn (s : State) : State :=
  if s.side = .access then { s with side := .compute } else { s.rotate with side := .access }

/-- A strand whose both slices have halted and that has no live child has completed (R34, R47). -/
def Strand.completed (t : Strand) : Bool := t.acc.halted && t.cmp.halted && t.id.children.all (·.completed)

/-- Is it a synchronous matrix instruction, which holds dispatch (R162)? -/
def isSyncMatrix (i : Instr) : Bool :=
  match i with
  | .mldb _ | .mldbP _ | .mst _ | .mldacc _ => true
  | _ => false

/-- Is it an instruction of the vector instruction queue that accesses memory (R98, R207)? -/
def isQueuedMemory (i : Instr) : Bool :=
  isSyncMatrix i || match i with
    | .vwait _ | .vhacc _ => true
    | _ => false

/-- Does a synchronous matrix instruction wait in the matrix queue (R371)? -/
def Queues.matrixSync (q : Queues) : Bool := q.mq.any fun e => isSyncMatrix e.ins

/-- Is one there that a trap has to let complete, since nothing before it waits for the vector instruction queue (R72, R162)? -/
def Queues.matrixBegun (q : Queues) : Bool := q.matrixSync && q.notBegun.isEmpty

/-- Are older memory instructions waiting in the vector instruction queue or in the matrix queue, or a FENCE that waits for such (R98, R162,
R207, R357)? -/
def Queues.memoryWaits (q : Queues) : Bool := q.matrixSync || q.viq.any fun e => isQueuedMemory e.ins || isFence e.ins

/-- Does an older instruction in the vector instruction queue or the matrix queue hold dispatch (R98, R162)? -/
def Queues.holdsDispatch (q : Queues) : Bool := q.matrixSync || q.viq.any fun e => isSyncMatrix e.ins

/-- Is it an instruction of the access slice that accesses memory, or that orders what its pops have ordered (R61, R207, R210)? -/
def ordersMemory (i : Instr) : Bool :=
  match i with
  | .ld _ | .st _ | .ldAcq _ | .stRel _ | .amoadd _ | .amoand _ | .amoor _ | .amoxor _ | .amomin _ | .amomax _ | .amoswp _ | .cas _
  | .amofadd _ | .amofaddDet _ | .fence .. | .svfence | .ltrig _ | .barArrive _ | .barArriveSq _ | .barSync _ | .barSyncSq _
  | .vle _ | .vls .. | .vlx _ | .vlff _ | .vlb .. | .vse _ | .vss .. | .vsx _ | .vsb .. | .vamo ..
  | .ecopy .. | .equant .. | .epack .. | .eunpack .. | .evpop .. | .seal _ | .vsave _ | .vrestore _ | .halt => true
  | _ => false

/-- Must the instruction of the access slice wait, since a pop has ordered a memory instruction of the vector instruction queue before it
(R61)? -/
def State.behindPops (s : State) (i : Instr) : Bool :=
  s.side == Side.access && ordersMemory i && s.strand.q.viq.any fun e => isQueuedMemory e.ins && decide (e.mark < s.strand.acc.popMark)

/-- Is it a scalar instruction that accesses memory? -/
def isScalarMemory (i : Instr) : Bool :=
  match i with
  | .ld _ | .st _ | .ldAcq _ | .stRel _ | .amoadd _ | .amoand _ | .amoor _ | .amoxor _ | .amomin _ | .amomax _ | .amoswp _ | .cas _
  | .amofadd _ | .amofaddDet _ => true
  | _ => false

/-- Must the instruction of the compute slice wait, since a FENCE before it waits in the vector instruction queue (R357)? -/
def State.behindFence (s : State) (i : Instr) : Bool :=
  s.side == Side.compute && isScalarMemory i && s.strand.q.viq.any fun e => isFence e.ins

/-- Is it a marker of the vector instruction queue (R38, R101)? -/
def isMarker (i : Instr) : Bool :=
  match i with
  | .barArrive _ | .barArriveSq _ | .barSync _ | .barSyncSq _ | .convoy => true
  | _ => false

/-- Has every older vector, function and matrix instruction completed (R45, R360, R368)? Markers and a FENCE are none of these. -/
def Queues.vectorDone (q : Queues) : Bool := q.viq.all (fun e => isMarker e.ins || isFence e.ins) && q.mq.isEmpty

/-- Is nothing at all left in the vector instruction queue and the matrix queue (R358)? -/
def Queues.allDone (q : Queues) : Bool := q.viq.isEmpty && q.mq.isEmpty

/-- R71: the instructions of the compute slice before which it stops while the access slice stands stopped. A faulting
access-slice load keeps its FILLING slot at the young end of LDQ, older loads have completed, so a pop stops when it would bind
there or beyond. -/
def State.stopsAt (s : State) (i : Instr) : Bool :=
  match i with
  | .vpop _ | .ppop _ _ =>
    match s.strand.q.ldq[s.strand.q.boundPops]? with
    | some sl => !sl.full
    | none => true
  | .barSync _ | .barSyncSq _ | .vwait _ | .join _ | .vfork _ | .halt => true
  | _ => false

/-- R71: a wait in which the compute slice stops while the access slice stands stopped. A wait on a queue counts while the queue still
makes it wait. -/
def Queues.stopsIn (q : Queues) (w : Stall) : Bool :=
  match w with
  | .aqEmpty => q.aq.isEmpty
  | .cqFull => decide (32 ≤ q.cq.length)
  | .sdqFull => decide (8 ≤ q.sdq.length + q.boundPushes)
  | .popUnreserved => decide (q.ldq.length ≤ q.boundPops)
  | .barrier | .join => true
  | _ => false

/-- The access slice stands stopped and the compute slice has stopped too: the trap is taken (R71). -/
def State.takeStopped (s : State) : State :=
  match s.strand.trap.accStop with
  | some c => s.enterTrap c false
  | none => s

/-- R71, the compute slice's side: it is halted or held, or it waits in one of the waits listed. While a synchronous matrix instruction is in
the matrix queue it has yet to stop (R72, R162). -/
def State.computeStopped (s : State) : Bool :=
  !s.strand.q.matrixBegun && (s.strand.cmp.halted || (match s.strand.cmp.stall with | some w => s.strand.q.stopsIn w | none => false))

/-- Is a command of the gang's engine still running (R189)? -/
def State.gangBusy (s : State) (i : StrandId) : Bool :=
  (s.engine i.cluster).cmds.any fun c => c.owner.lid == i.lid && c.owner.squad == i.squad && c.owner.gang == i.gang

/-- May a pre-emption be taken now (R75, R171, R189, R261, R265)? At U, with no fault of the access slice before it, with no
answer outstanding, the engine's commands of the gang ended, and the matrix queue run to completion. -/
def State.preemptReady (s : State) : Bool :=
  s.strand.trap.preempt && !s.strand.trap.loading && !s.strand.trap.priv && s.strand.trap.accStop.isNone && s.strand.trap.determ.isNone
    && s.strand.acc.waitReq.isNone
    && s.strand.cmp.waitReq.isNone && !s.gangBusy s.strand.id && s.strand.q.matrixAway && !s.strand.completed

/-- The PREEMPT trap (R266): SAVEAREA was set when the request was delivered. -/
def State.takePreempt (s : State) : State :=
  let s := s.pastVlsync.enterTrap ⟨0x17, 0⟩ false
  { s with strand := { s.strand with trap := { s.strand.trap with preempt := false } } }

/-- Is it a vector memory instruction of the access slice (R420)? -/
def isVectorMemory (i : Instr) : Bool :=
  match i with
  | .vle _ | .vls .. | .vlx _ | .vlff _ | .vlb .. | .vse _ | .vss .. | .vsx _ | .vsb .. | .vamo .. => true
  | _ => false

/-- Where a pre-emption that may be taken now stops the access slice inside a vector memory instruction: the element, when the device
chooses so (R75; log 30). -/
def State.stopElement (s : State) : Option Nat := if s.preemptReady && s.side == Side.access then s.stops.head? else none

/-- Is a pre-emption to be taken now, rather than inside the vector memory instruction that comes next? -/
def State.preemptNow (s : State) : Bool :=
  s.preemptReady && !(s.stopElement.isSome && s.canRun && match s.nextInstr with | some i => isVectorMemory i && s.ready i && !s.behindPops i | none => false)

/-- What a turn begins with: an instruction to run, or a state in which the turn is over. -/
inductive Begun
  | run (i : Instr) (s : State)
  | over (s : State)
  deriving DecidableEq, Repr

/-- A fetch that waits for a line of a far tier: it is asked for and kept for the launch (R198); where it cannot be had the fetch traps REMOTE,
with the instruction's own address in TADDR, also when the line of a later halfword failed (R281; log 56). -/
def State.fetchWait (s : State) (key : Nat) : State :=
  match s.cur.reply with
  | some r =>
    let s := s.takeReply
    if !r.ok then s.trap 0x13 s.pc
    else (if r.addr = lineOf key ∧ !r.ack then s.codeCame s.strand.id.lid s.strand.die (lineOf key) r.data else s).wait .fetch
  | none =>
    if s.cur.waitReq.isSome || s.backInFlight s.strand.die key then s.wait .fetch
    else if isRemote key && s.remoteFails (remotePa key).1 then s.trap 0x13 s.pc
    else
      let (id, s) := s.askLine (.slice s.strand.key s.side) key s.strand.die 1 false
      s.setCur { s.cur with stall := some .fetch, waitReq := some id }

/-- The instruction has been fetched: a line of code that the slice has asked for, and that another slice of its die has brought meanwhile, is
not waited for any longer. -/
def State.fetched (s : State) : State :=
  if s.cur.stall = some .fetch then
    let s := s.orphan fun w => w == .slice s.strand.key s.side
    s.setCur { s.cur with stall := none, waitReq := none, reply := none }
  else s

/-- DETERM for an engine command of the strand is to be taken: the access slice runs at U and no fault of its stands (R220, R265; log 22).
-/
def State.determReady (s : State) : Bool :=
  s.side == Side.access && s.strand.resident && s.strand.trap.determ.isSome && !s.strand.trap.priv && s.strand.trap.accStop.isNone
    && !s.strand.trap.dead && !s.strand.trap.parked && !s.strand.trap.loading && !s.strand.completed

/-- The access slice stops on that DETERM, as on a fault of its next instruction. -/
def State.takeDeterm (s : State) : State :=
  let w := s.strand.trap.determ.getD 0
  let s := s.pastVlsync
  ({ s with strand := { s.strand with trap := { s.strand.trap with determ := none } } }).raiseAt ⟨0x10, w⟩

/-- The fault on which the compute slice, in turn, stands stopped until the access slice has stopped too (R73). -/
def State.stoppedOn (s : State) : Option Trap :=
  match s.cur.stall with
  | some (.fault c) => if s.side = .compute then some c else none
  | _ => none

/-- A turn of the slice in turn, up to the meaning of its instruction. Behind a synchronous matrix instruction the compute slice dispatches
nothing (R162). -/
def State.begin (s : State) : Begun :=
  if s.determReady then .over s.takeDeterm
  else if s.preemptNow then .over s.takePreempt
  else if s.strand.trap.accStop.isSome && !s.strand.trap.dead && s.computeStopped then .over s.takeStopped
  else if s.canRun then
    match s.stoppedOn with
    | some c => .over (s.raiseAt c)
    | none =>
    if s.side = .compute && s.strand.q.holdsDispatch then .over s
    else
    match s.fetch with
    | .error (.inl t) => .over (s.raiseAt t)
    | .error (.inr k) => .over (s.fetchWait k)
    | .ok (len, w) =>
      let s := s.fetched
      match decodeWord len w with
      | .error _ => .over (s.trap 0x01 (BitVec.ofNat 64 (w % 2 ^ 32)))
      | .ok i =>
        if s.side = .compute && s.strand.trap.accStop.isSome && s.stopsAt i then .over s.takeStopped
        else if s.behindPops i || s.behindFence i then .over (s.wait .viqBusy)
        else if s.ready i then .run i s
        else .over (s.wait .viqBusy)
  else .over s

/-- Encoded instructions that only the compute slice executes (R52). -/
def computeOnly (i : Instr) : Bool :=
  match i with
  | .apop _ | .cpush _ | .vpop _ | .vpush _ | .vsetlQ _ | .bany _ | .ball _ | .bnone _ | .vwait _ | .vfork _ | .join _
  | .convoy | .vadd _ | .vsub _ | .vmul _ | .vmulh _ | .vdiv _ | .vrem _ | .vmin _ | .vmax _ | .vand _ | .vor _ | .vxor _
  | .vsll _ | .vsrl _ | .vsra _ | .vfadd _ | .vfsub _ | .vfmul _ | .vfdiv _ | .vfma _ | .vfms _ | .vfnma _ | .vfsqrt _
  | .vfmin _ | .vfmax _ | .vfcvt _ | .vwma _ | .pmov .. | .pzero _ | .padd _ | .psub _ | .pmul .. | .pdiff .. | .pproj ..
  | .ptrace .. | .pscl _ | .paxpy _ | .pint _ | .peval _ | .pjump _ | .pavg _ | .ppop .. | .ppush .. | .pset .. | .psetDg ..
  | .pget .. | .pgetDg .. | .vcmp _ | .vfcmp _ | .vmerge _ | .vmv _ | .vslideup _ | .vslidedn _ | .vperm _ | .vcompress _
  | .vexpand _ | .viota _ | .vpruneN4M8 _ | .vredsum _ | .vredmin _ | .vredmax _ | .vscan _ | .vfredsum _ | .vfredmin _
  | .vfredmax _ | .vfscan _ | .vmand _ | .vmor _ | .vmxor _ | .vmandn _ | .vmnot .. | .vpopc _ | .vfirst _ | .vbrkb _
  | .vbrka _ | .vbmand _ | .vbprefix _ | .visect _ | .vhacc _ | .vpruneN1M4 _ | .vpruneN2M4 _ | .vpruneN1M8 _
  | .vpruneN2M8 _ | .mldb _ | .mldbP _ | .mma _ | .mzero .. | .mst _ | .mldacc _ => true
  | _ => false

/-- A turn on the agenda: the strand comes into focus with its slice. -/
def State.turnTo (s : State) (key : Nat) (side : Side) : State := { s.focus key with side := side }

end Sys2Proof.Machine
end

