-- ==== Sys2Proof/Machine/Flags.lean ====
section
/-! DEFINITION. FCSR: its fields, raising flags, and the trap FPX (R117, R118). -/

namespace Sys2Proof.Machine

/-- FCSR[4:0]: the sticky flags. -/
def fcsrFlags (f : BitVec 13) : BitVec 5 := f.extractLsb' 0 5
/-- FCSR.EN. -/
def fcsrEn (f : BitVec 13) : BitVec 5 := f.extractLsb' 5 5
/-- FCSR.FRM. No MTS brings codes 5 to 7 there (R117), but a switch-in can, from a save area that has been changed in memory: they then round
as RNE (log 79). -/
def fcsrRnd (f : BitVec 13) : Rnd := (Rnd.ofCode (f.extractLsb' 10 3).toNat).getD .rne

/-- ORing raised flags into FCSR (R117). -/
def fcsrRaise (f : BitVec 13) (fl : Flags) : BitVec 13 := f ||| (BitVec.setWidth 13 fl.toBits)

/-- Does a set of flags hold an enabled one (R118)? -/
def fcsrTraps (f : BitVec 13) (fl : Flags) : Bool := (fcsrEn f &&& fl.toBits) ≠ 0

/-- Raising flags in the FCSR of the slice in turn. -/
def State.flag (s : State) (fl : Flags) : State := s.setCur { s.cur with fcsr := fcsrRaise s.cur.fcsr fl }

/-- Raising flags in the FCSR of the compute slice, whatever slice is in turn (R117). -/
def State.flagCompute (s : State) (fl : Flags) : State :=
  { s with strand := { s.strand with cmp := { s.strand.cmp with fcsr := fcsrRaise s.strand.cmp.fcsr fl } } }

/-- A scalar floating-point result: an enabled flag traps FPX with no effect (R118, R352), otherwise the flags go to the
slice's FCSR and the result to xd. -/
def State.fresult (s : State) (rd : Reg) (v : Word) (fl : Flags) : State :=
  if fcsrTraps s.cur.fcsr fl then s.trap 0x15 (BitVec.setWidth 64 fl.toBits)
  else (s.flag fl).result rd v 4

end Sys2Proof.Machine
end

