-- ==== Sys2Proof/Machine/Scalar.lean ====
section
/-! DEFINITION. The scalar integer instructions (R325 to R328, R337, R359, R365, R366, R374, R376, R395, R396, R400 to R402,
R407, R449), the branches (R341) and the 16-bit forms (R291). They execute on either slice. -/

namespace Sys2Proof.Machine

/-- A scalar result of a 32-bit instruction: xd is written and the slice goes on (R325). -/
def State.alu (s : State) (rd : Reg) (v : Word) : Out := .next (s.result rd v 4)

/-- A register-register instruction: both sources are read before xd is written (R325). -/
def State.alu2 (s : State) (a : R3) (f : Word → Word → Word) : Out := s.alu a.rd (f (s.x a.rs1) (s.x a.rs2))

/-- A branch of `n` bytes: to its address plus the offset when taken, else to the next instruction (R341). -/
def State.branch (s : State) (n : Nat) (taken : Bool) (off : Word) : Out :=
  .next (if taken then s.goto (s.pc + off) else s.advance n)

/-- Signed quotient truncated towards zero, with R327's results. -/
def divS (a b : Word) : Word := if b = 0 then BitVec.allOnes 64 else a.sdiv b
/-- Unsigned quotient (R327). -/
def divU (a b : Word) : Word := if b = 0 then BitVec.allOnes 64 else a / b
/-- Signed remainder, whose sign is that of the dividend (R396). -/
def remS (a b : Word) : Word := if b = 0 then a else a.srem b
/-- Unsigned remainder (R396). -/
def remU (a b : Word) : Word := if b = 0 then a else a % b

/-- Bits [127:64] of the signed product (R374). -/
def mulHighS (a b : Word) : Word := BitVec.ofInt 64 (a.toInt * b.toInt / 2 ^ 64)
/-- Bits [127:64] of the unsigned product (R374). -/
def mulHighU (a b : Word) : Word := BitVec.ofNat 64 (a.toNat * b.toNat / 2 ^ 64)

/-- The number of 1 bits among the low `n` bits of a number. -/
def popCount : Nat → Nat → Nat
  | 0, _ => 0
  | n + 1, x => x % 2 + popCount n (x / 2)

/-- Zero bits below the lowest 1 bit among `n` bits; `n` when there is none. -/
def trailingZeros : Nat → Nat → Nat
  | 0, _ => 0
  | n + 1, x => if x % 2 = 1 then 0 else 1 + trailingZeros n (x / 2)

/-- Zero bits above the highest 1 bit of 64 (R326). -/
def leadingZeros (x : Word) : Nat := if x = 0 then 64 else 63 - Nat.log2 x.toNat

/-- The position and length of a bit field in xs2 (R328). -/
def fieldPos (b : Word) : Nat := b.toNat % 64
/-- A length from 65 to 127 acts as 64 (R328). -/
def fieldLen (b : Word) : Nat := min 64 (b.toNat / 64 % 128)

/-- BEXT (R328). -/
def fieldExtract (a b : Word) : Word := BitVec.ofNat 64 (a.toNat / 2 ^ fieldPos b % 2 ^ fieldLen b)

/-- BINS (R328): the field of `d` is replaced by the low bits of `a`. -/
def fieldInsert (d a b : Word) : Word :=
  let m : Word := BitVec.ofNat 64 ((2 ^ fieldLen b - 1) * 2 ^ fieldPos b)
  (d &&& ~~~m) ||| ((a <<< fieldPos b) &&& m)

/-- The shift count of a register form (R400). -/
def shCount (b : Word) : Nat := b.toNat % 64

/-- 1 when a comparison holds and 0 otherwise (R402). -/
def ofBool (b : Bool) : Word := if b then 1 else 0

/-- ADD (R326). -/
def execAdd (a : R3) (s : State) : Out := s.alu2 a (fun a b => a + b)

/-- SUB (R407). -/
def execSub (a : R3) (s : State) : Out := s.alu2 a (fun a b => a - b)

/-- MUL (R374). -/
def execMul (a : R3) (s : State) : Out := s.alu2 a (fun a b => a * b)

/-- MULH (R374). -/
def execMulh (a : R3) (s : State) : Out := s.alu2 a mulHighS

/-- MULHN (R374). -/
def execMulhn (a : R3) (s : State) : Out := s.alu2 a mulHighU

/-- DIV (R326, R327). -/
def execDiv (a : R3) (s : State) : Out := s.alu2 a divS

/-- DIVN (R326, R327). -/
def execDivn (a : R3) (s : State) : Out := s.alu2 a divU

/-- REM (R396). -/
def execRem (a : R3) (s : State) : Out := s.alu2 a remS

/-- REMN (R396). -/
def execRemn (a : R3) (s : State) : Out := s.alu2 a remU

/-- AND (R326). -/
def execAnd (a : R3) (s : State) : Out := s.alu2 a (fun a b => a &&& b)

/-- OR (R376). -/
def execOr (a : R3) (s : State) : Out := s.alu2 a (fun a b => a ||| b)

/-- XOR (R449). -/
def execXor (a : R3) (s : State) : Out := s.alu2 a (fun a b => a ^^^ b)

/-- SLL (R400). -/
def execSll (a : R3) (s : State) : Out := s.alu2 a (fun a b => a <<< shCount b)

/-- SRL (R400). -/
def execSrl (a : R3) (s : State) : Out := s.alu2 a (fun a b => a >>> shCount b)

/-- SRA (R400). -/
def execSra (a : R3) (s : State) : Out := s.alu2 a (fun a b => a.sshiftRight (shCount b))

/-- SLT (R402). -/
def execSlt (a : R3) (s : State) : Out := s.alu2 a (fun a b => ofBool (a.slt b))

/-- SLTN (R402). -/
def execSltn (a : R3) (s : State) : Out := s.alu2 a (fun a b => ofBool (a.ult b))

/-- MIN (R366). -/
def execMin (a : R3) (s : State) : Out := s.alu2 a (fun a b => if a.slt b then a else b)

/-- MAX (R366). -/
def execMax (a : R3) (s : State) : Out := s.alu2 a (fun a b => if a.slt b then b else a)

/-- MINN (R366). -/
def execMinn (a : R3) (s : State) : Out := s.alu2 a (fun a b => if a.ult b then a else b)

/-- MAXN (R366). -/
def execMaxn (a : R3) (s : State) : Out := s.alu2 a (fun a b => if a.ult b then b else a)

/-- BEXT (R328). -/
def execBext (a : R3) (s : State) : Out := s.alu2 a fieldExtract

/-- BINS (R328): it reads xd as it stands before the instruction. -/
def execBins (a : R3) (s : State) : Out := s.alu a.rd (fieldInsert (s.x a.rd) (s.x a.rs1) (s.x a.rs2))

/-- CLZ (R326). -/
def execClz (a : R2) (s : State) : Out := s.alu a.rd (BitVec.ofNat 64 (leadingZeros (s.x a.rs1)))

/-- CTZ (R326). -/
def execCtz (a : R2) (s : State) : Out := s.alu a.rd (BitVec.ofNat 64 (trailingZeros 64 (s.x a.rs1).toNat))

/-- POPC (R395). -/
def execPopc (a : R2) (s : State) : Out := s.alu a.rd (BitVec.ofNat 64 (popCount 64 (s.x a.rs1).toNat))

/-- ADDI (R326). -/
def execAddi (a : IArgs) (s : State) : Out := s.alu a.rd (s.x a.rs1 + sext a.imm)

/-- ANDI (R326). -/
def execAndi (a : IArgs) (s : State) : Out := s.alu a.rd (s.x a.rs1 &&& sext a.imm)

/-- ORI (R376). -/
def execOri (a : IArgs) (s : State) : Out := s.alu a.rd (s.x a.rs1 ||| sext a.imm)

/-- XORI (R449). -/
def execXori (a : IArgs) (s : State) : Out := s.alu a.rd (s.x a.rs1 ^^^ sext a.imm)

/-- SLTI (R402). -/
def execSlti (a : IArgs) (s : State) : Out := s.alu a.rd (ofBool ((s.x a.rs1).slt (sext a.imm)))

/-- SLTIN (R402). -/
def execSltin (a : IArgs) (s : State) : Out := s.alu a.rd (ofBool ((s.x a.rs1).ult (sext a.imm)))

/-- JALR (R359): an odd target traps FAULT_FETCH at the JALR itself, with no effect. -/
def execJalr (a : IArgs) (s : State) : Out :=
  let target := s.x a.rs1 + sext a.imm
  if target.getLsbD 0 then .next (s.trap 0x07 target)
  else .next ((s.setX a.rd (s.pc + 4)).goto target)

/-- SLLI (R400). -/
def execSlli (a : ShArgs) (s : State) : Out := s.alu a.rd (s.x a.rs1 <<< a.count.toNat)

/-- SRLI (R400). -/
def execSrli (a : ShArgs) (s : State) : Out := s.alu a.rd (s.x a.rs1 >>> a.count.toNat)

/-- SRAI (R400). -/
def execSrai (a : ShArgs) (s : State) : Out := s.alu a.rd ((s.x a.rs1).sshiftRight a.count.toNat)

/-- LUI (R365). -/
def execLui (a : UArgs) (s : State) : Out := s.alu a.rd (uimm a.imm)

/-- AUIPC (R337). -/
def execAuipc (a : UArgs) (s : State) : Out := s.alu a.rd (s.pc + uimm a.imm)

/-- JAL (R359). -/
def execJal (a : UArgs) (s : State) : Out := .next ((s.setX a.rd (s.pc + 4)).goto (s.pc + boff a.imm))

/-- BEQ (R341). -/
def execBeq (a : BArgs) (s : State) : Out := s.branch 4 (decide (s.x a.rs1 = s.x a.rs2)) (boff a.off)

/-- BNE (R341). -/
def execBne (a : BArgs) (s : State) : Out := s.branch 4 (decide (s.x a.rs1 ≠ s.x a.rs2)) (boff a.off)

/-- BLT (R341). -/
def execBlt (a : BArgs) (s : State) : Out := s.branch 4 ((s.x a.rs1).slt (s.x a.rs2)) (boff a.off)

/-- BGE (R341). -/
def execBge (a : BArgs) (s : State) : Out := s.branch 4 (!(s.x a.rs1).slt (s.x a.rs2)) (boff a.off)

/-- BLTN (R341). -/
def execBltn (a : BArgs) (s : State) : Out := s.branch 4 ((s.x a.rs1).ult (s.x a.rs2)) (boff a.off)

/-- BGEN (R341). -/
def execBgen (a : BArgs) (s : State) : Out := s.branch 4 (!(s.x a.rs1).ult (s.x a.rs2)) (boff a.off)

/-- H.ADDI, executed as ADDI xd, xd, simm7 (R291). -/
def execHAddi (rd : Reg) (imm : BitVec 7) (s : State) : Out := .next (s.result rd (s.x rd + sext imm) 2)

/-- H.SETI, executed as ADDI xd, x0, simm7 (R291). -/
def execHSeti (rd : Reg) (imm : BitVec 7) (s : State) : Out := .next (s.result rd (sext imm) 2)

/-- H.COPY, executed as ADD xd, x0, xs (R291). -/
def execHCopy (rd xs : Reg) (s : State) : Out := .next (s.result rd (s.x xs) 2)

/-- H.ADD, executed as ADD xd, xd, xs (R291). -/
def execHAdd (rd xs : Reg) (s : State) : Out := .next (s.result rd (s.x rd + s.x xs) 2)

/-- H.BZ, executed as BEQ xs1, x0, offset (R291). -/
def execHBz (rs1 : Reg) (off : BitVec 7) (s : State) : Out := s.branch 2 (decide (s.x rs1 = 0)) (boff off)

/-- H.BNZ, executed as BNE xs1, x0, offset (R291). -/
def execHBnz (rs1 : Reg) (off : BitVec 7) (s : State) : Out := s.branch 2 (decide (s.x rs1 ≠ 0)) (boff off)

/-- NOP changes nothing but the PC (R375). -/
def execNop (s : State) : Out := .next (s.advance 4)

end Sys2Proof.Machine
end

