-- ==== Sys2Proof/Machine/ScalarFp.lean ====
section
/-! DEFINITION. The scalar floating-point instructions (R352 to R355). They execute on either slice. -/

namespace Sys2Proof.Machine

/-- The value of a source of a precision (R352): bits above are ignored. -/
def State.fp (s : State) (p : Prec) (r : Reg) : Val := (Prec.fmt p).decode ((s.x r).toNat % 2 ^ (Prec.fmt p).width)

/-- The rounding mode of the slice in turn (R352). -/
def State.frm (s : State) : Rnd := fcsrRnd s.cur.fcsr

/-- Delivery of a floating-point result of a precision, with the flags so far: rounding once, SAT = 0 (R352). -/
def State.fdeliver (s : State) (p : Prec) (rd : Reg) (v : Val) (fl : Flags) : Out :=
  let (w, g) := (Prec.fmt p).deliver s.frm false v
  .next (s.fresult rd (BitVec.ofNat 64 w) (fl.or g))

/-- A two-source arithmetic instruction (R353). -/
def State.farith (s : State) (a : F3) (f : Val → Val → Val × Flags) : Out :=
  let (v, fl) := f (s.fp a.p a.rs1) (s.fp a.p a.rs2)
  s.fdeliver a.p a.rd v fl

/-- A comparison (R354). -/
def State.fcmp (s : State) (a : F3) (c : FCond) : Out :=
  let (b, fl) := fCompare c (s.fp a.p a.rs1) (s.fp a.p a.rs2)
  .next (s.fresult a.rd (ofBool b) fl)

/-- FADD (R353). -/
def execFadd (a : F3) (s : State) : Out := s.farith a (Val.addExact s.frm)
/-- FSUB (R353): the sum with the second source negated. -/
def execFsub (a : F3) (s : State) : Out := s.farith a fun x y => Val.addExact s.frm x y.negate
/-- FMUL (R353). -/
def execFmul (a : F3) (s : State) : Out := s.farith a Val.mulExact
/-- FDIV (R353). -/
def execFdiv (a : F3) (s : State) : Out := s.farith a Val.divExact
/-- FSQRT (R353). -/
def execFsqrt (a : F2) (s : State) : Out :=
  let (v, fl) := (s.fp a.p a.rs1).sqrtExact
  s.fdeliver a.p a.rd v fl
/-- FFMA (R353): one rounding. -/
def execFfma (a : F4) (s : State) : Out :=
  let (v, fl) := Val.fmaExact s.frm (s.fp a.p a.rs1) (s.fp a.p a.rs2) (s.fp a.p a.rs3)
  s.fdeliver a.p a.rd v fl
/-- FMIN (R354). -/
def execFmin (a : F3) (s : State) : Out := s.farith a (Val.minMax false)
/-- FMAX (R354). -/
def execFmax (a : F3) (s : State) : Out := s.farith a (Val.minMax true)
/-- FCMP.EQ (R354). -/
def execFcmpEq (a : F3) (s : State) : Out := s.fcmp a .eq
/-- FCMP.LT (R354). -/
def execFcmpLt (a : F3) (s : State) : Out := s.fcmp a .lt
/-- FCMP.LE (R354). -/
def execFcmpLe (a : F3) (s : State) : Out := s.fcmp a .le
/-- FCLASS (R354). -/
def execFclass (a : F2) (s : State) : Out :=
  let f := Prec.fmt a.p
  s.alu a.rd (BitVec.ofNat 64 (fClass f ((s.x a.rs1).toNat % 2 ^ f.width)))

/-- The 64-bit register value of an integer conversion's result: W sign-extended, WN zero-extended (R355). -/
def cvtExtend (t : IntTy) (v : Nat) : Word :=
  match t with
  | .w => sext (BitVec.ofNat 32 v)
  | .wn | .l | .ln => BitVec.ofNat 64 v

/-- FCVT (R355). -/
def execFcvt (code : CvtCode) (a : R2) (s : State) : Out :=
  match code with
  | .sd => s.fdeliver .s a.rd (s.fp .d a.rs1) (.invalidIf (s.fp .d a.rs1).isSNaN)
  | .ds => s.fdeliver .d a.rd (s.fp .s a.rs1) (.invalidIf (s.fp .s a.rs1).isSNaN)
  | .toInt t f =>
    let (v, fl) := (IntTy.fmt t).convertToInt s.frm (s.fp f a.rs1)
    .next (s.fresult a.rd (cvtExtend t v) fl)
  | .ofInt f t => s.fdeliver f a.rd ((IntTy.fmt t).decode (s.x a.rs1).toNat) .none

end Sys2Proof.Machine
end

