-- ==== Sys2Proof/Machine/Detect.lean ====
section
/-! DEFINITION. The detector of deterministic launches (R218 to R224; log 12) and the buffered AMOFADD.DET adds. -/

namespace Sys2Proof.Machine

/-- Kinds of R219 as numbers: 0 R, 1 W, 2 C, 3 D. Two kinds conflict unless they are R with R, C with C or D with D. -/
def kindsConflict (a b : Nat) : Bool := !(a == b && a != 1)

/-- Is an access of a slice of strand `other` at `stamp` separated from later accesses of the slice `side` of `me`: has that slice arrived after
it, in its program order, at a barrier in whose generation this one has then waited in BAR.SYNC (R219)? -/
def Detector.separated (d : Detector) (lid : BitVec 32) (squad me : Nat) (side : Side) (other : Nat) (ofSide : Side) (stamp : Nat) : Bool :=
  d.sync.any fun y =>
    y.lid == lid && y.squad == squad && y.detid == me && y.side == side && y.of == other && y.ofSide == ofSide && stamp < y.stamp

/-- The memory slice that holds a line's record (R199, R220): of the scratchpad, the bank of the line's first bytes (log 13). -/
def detSlice (die line : Nat) : Nat := memSlice die line

/-- What the detector says of an access. -/
inductive DetAnswer
  | ok (s : State)       -- go on, with the access recorded
  | conflict             -- DETERM
  deriving DecidableEq, Repr

/-- TCM accesses never conflict (R219). -/
def detExempt (key : Nat) : Bool := 2 ^ 44 ≤ key && key < 2 ^ 60

/-- Setting DETSTAT.OVF of the strand in focus (R221, R222). -/
def State.setOvf (s : State) : State := { s with strand := { s.strand with sys := { s.strand.sys with ovf := true } } }

/-- The word tags of a line that falls back: a word holds the DETID of its latest recorded store that is not separated from the access that
made it fall back (R221; log 13). -/
def tagsFrom (recs : List DetEntry) (recent : DetEntry → DetAcc → Bool) : List (Nat × Nat) :=
  let ws := recs.flatMap fun e => (e.acc.filter fun a => a.kind == 1 && recent e a).map fun a => (a.word, a.stamp, e.detid)
  (ws.map (·.1)).eraseDups.map fun w =>
    (w, ((ws.filter fun x => x.1 == w).foldl (fun (m : Nat × Nat) x => if m.1 ≤ x.2.1 then x.2 else m) (0, 0)).2)

/-- The atomics of any strand that wait and that `p` picks are performed: what they touch is about to leave their domain (R224). -/
def State.settleAtoms (s : State) (p : Nat → Bool) : State :=
  if s.strands.any fun t => t.stores.any fun a => a.atom.any fun x => p x.key then s.drainEach fun a => a.atom.any fun x => p x.key
  else s

/-- One access of the slice in turn, for a strand of a DET launch, to the 8-byte word of a key, of the kinds given (R219 to R221). A line in
fall-back is not checked, buffered adds of its words included, and a store there meets the word's tag when it is performed (log 13). -/
def State.detect (s : State) (i : StrandId) (key : Nat) (kinds : List Nat) : DetAnswer :=
  if !s.isDet i.lid || detExempt key then .ok s
  else
    let word := key / 8
    let line := lineOf key
    let die := detDie (i.cluster / 40) line
    let at_ := fun e : DetEntry => e.line == line && e.die == die
    if (s.det.tagsOf line (i.cluster / 40)).isSome then .ok s
    else
      let mine := fun e : DetEntry => e.lid == i.lid && e.squad == i.squad
      let clash := s.det.entries.any fun e =>
        mine e && at_ e && e.detid != i.detid &&
          e.acc.any fun a => a.word == word && kinds.any (kindsConflict a.kind) &&
            !s.det.separated i.lid i.squad i.detid s.side e.detid a.side a.stamp
      if clash then .conflict
      else
        -- entries of the line that no other resident strand of the squad could still conflict with are old (log 12)
        let peers := (s.strands.filter fun t => t.id.lid == i.lid && t.id.squad == i.squad).map fun t => t.id.detid
        let live := s.det.entries.filter fun e =>
          !(mine e && at_ e) || e.detid == i.detid ||
            e.acc.any fun a => peers.any fun p => p != e.detid &&
              [Side.access, Side.compute].any fun d => !s.det.separated i.lid i.squad p d e.detid a.side a.stamp
        let here := live.filter at_
        let old := here.find? fun e => mine e && e.detid == i.detid
        let slice := detSlice die line
        let lines := (live.filter fun e => detSlice e.die e.line == slice).map fun e => (e.line, e.die)
        let full := here.isEmpty && decide (4096 ≤ lines.eraseDups.length)
        if (old.isNone && 4 ≤ here.length) || full then
          let recent := fun (e : DetEntry) (a : DetAcc) =>
            e.detid == i.detid || !s.det.separated i.lid i.squad i.detid s.side e.detid a.side a.stamp
          let f : DetTags := ⟨i.lid, i.squad, line, die, tagsFrom (here.filter mine) recent⟩
          let s := s.settleAtoms fun k => lineOf k == line
          .ok ({ s with det := { s.det with
            entries := live.filter fun e => !at_ e
            fallback := f :: s.det.fallback } }).setOvf
        else
          let e := old.getD ⟨i.lid, i.squad, line, die, i.detid, []⟩
          let e' := { e with acc := e.acc ++ kinds.map fun k => ⟨word, k, s.side, s.stamp⟩ }
          .ok { s with det := { s.det with
            entries := e' :: live.filter fun x => !(mine x && at_ x && x.detid == i.detid) } }

/-- DETDOM for an atomic or CAS without .DET: its word has buffered adds, or its line is in fall-back (R224). -/
def State.detDom (s : State) (key : Nat) : Bool :=
  (s.det.adds.any fun a => a.addr / 8 == key / 8) || (s.det.tagsOf (lineOf key) s.strand.die).isSome

/-- The bytes that a word of a size holds after one add by RNE, whose flags are not recorded (R223). -/
def DetAdd.sum (a : DetAdd) (old : List Byte) : List Byte :=
  leBytes (atBytes a.size) (atomicFadd a.size .rne (leNat old) (a.value.toNat % 2 ^ (8 * atBytes a.size))).1

/-- The add waits for the line of its word, for which the hub asks: it joins the youngest adds that wait for the word when they became due
with it, and otherwise notes the bytes that the die has now. -/
def State.addLater (s : State) (die : Nat) (a : DetAdd) (batch : Nat) : State :=
  let key := a.addr / 8 * 8
  let here := s.det.due.drop batch
  let due :=
    if here.any fun d => d.die == die && d.key == key then
      s.det.due.take batch ++ here.map fun d => if d.die = die ∧ d.key = key then { d with adds := d.adds ++ [a] } else d
    else s.det.due ++ [⟨die, key, (List.range 8).map fun j => s.byteAt die (key + j), 0, [a]⟩]
  ({ s with det := { s.det with due := due } }).hubLine die a.addr

/-- Applying one buffered add (R223). An add of a squad that was saved while its word was sealed is dropped and reported (R279; log 13). A word of a far line that its die has not all of takes it when the line has come; `batch` counts the adds that waited before. -/
def State.applyAdd (s : State) (die batch : Nat) (a : DetAdd) : State :=
  if s.sealedKey a.addr then s.sealWrite (tierPa a.addr).2
  else if (s.det.due.drop batch).any fun d => d.die == die && d.key == a.addr / 8 * 8 then s.addLater die a batch
  else
    match s.bytesAt die a.addr (atBytes a.size) with
    | none => s.addLater die a batch
    | some old => s.perform die (atKeys a.addr (a.sum old))

/-- One add on the bytes of an aligned 8-byte word. -/
def DetAdd.into (a : DetAdd) (word : List Byte) : List Byte :=
  let o := a.addr % 8
  word.take o ++ a.sum ((word.drop o).take (atBytes a.size)) ++ word.drop (o + atBytes a.size)

/-- Adds that waited for their line are applied to the word as it stood when they became due; a byte written since keeps its value (R223). -/
def State.applyDueAdds (s : State) (d : DueAdds) : State :=
  let word := (List.range 8).map fun j => ((d.known.getD j none).orElse fun _ => s.byteAt d.die (d.key + j)).getD 0
  let sum := d.adds.foldl (fun w a => a.into w) word
  let mine := fun j => d.adds.any fun a => a.addr % 8 ≤ j && j < a.addr % 8 + atBytes a.size
  (List.range 8).foldl (fun (u : State) j =>
    if mine j && !d.newer.getLsbD j then u.l2Put d.die (d.key + j) (sum.getD j 0) else u) s

/-- Is an atomic of this die, or a packet, on its way to the home of a line (R333)? -/
def State.atHome (s : State) (die line : Nat) : Bool := s.reqs.any fun r => r.die == die && r.wrote.any fun w => w.1 == line

/-- Are all bytes of a word of a far line there, for adds that wait for it, with no atomic on its way that comes before them (R223)? -/
def State.dueReady (s : State) (d : DueAdds) : Bool :=
  ((List.range 8).all fun j => (s.l2Has d.die (d.key + j)).isSome) && !s.atHome d.die (lineOf d.key)

/-- Buffered adds that wait for a line of a die are applied once every byte that they need is there; the line is asked for again where it is
not (R223). -/
def State.applyDue (s : State) (die : Nat) : State :=
  let s := s.det.due.foldl (fun (u : State) d =>
    if d.die = die ∧ s.dueReady d then ({ u with det := { u.det with due := u.det.due.erase d } }).applyDueAdds d
    else u) s
  (s.det.due.filter fun d => d.die == die && !(s.atHome die (lineOf d.key))).foldl (fun (u : State) d => u.hubLine die d.key) s

/-- The memory slice that holds a buffered add: that of its word, on the die of its squad (R199, R223). -/
def State.addSlice (s : State) (d : DetAdd) : Nat :=
  memSlice (((s.squads.find? fun q => q.lid == d.lid && q.index == d.squad).map (·.die)).getD 0) d.addr

/-- Does one add come before another: ascending DETID, then program order (R223)? -/
def DetAdd.before (a b : DetAdd) : Bool := a.detid < b.detid || (a.detid == b.detid && a.seq < b.seq)

/-- Inserting an add into a list in that order. -/
def DetAdd.insert (a : DetAdd) : List DetAdd → List DetAdd
  | [] => [a]
  | b :: l => if b.before a then b :: DetAdd.insert a l else a :: b :: l

/-- The buffered adds to some pages are applied before the pages are sealed (R223, R279; log 13). -/
def State.applyPages (s : State) (pages : List Nat) : State :=
  let mine := fun a : DetAdd => pages.any fun k => k ≤ a.addr && a.addr < k + 65536
  let s' := ((s.det.adds.filter mine).foldr DetAdd.insert []).foldl (fun u a => u.applyAdd 0 u.det.due.length a) s
  { s' with det := { s'.det with adds := s'.det.adds.filter fun a => !mine a } }

/-- The buffered adds of a squad are applied, at its next squad-barrier completion or at its completion (R223); its lines
leave fall-back (R221). -/
def State.applyAdds (s : State) (lid : BitVec 32) (squad die : Nat) : State :=
  let mine := fun a : DetAdd => a.lid == lid && a.squad == squad
  let s := ((s.det.adds.filter mine).foldr DetAdd.insert []).foldl (fun u a => u.applyAdd die s.det.due.length a) s
  { s with det := { s.det with
    adds := s.det.adds.filter fun a => !mine a
    fallback := s.det.fallback.filter fun f => !(f.lid == lid && f.squad == squad) } }

end Sys2Proof.Machine
end

