-- ==== Sys2Proof/Machine/Far.lean ====
section
/-! DEFINITION. HOST and REMOTE lines at SYSTEM scope: write-back, invalidation, acquires and releases (R206 to R216). -/

namespace Sys2Proof.Machine

/-- Is bit `i` of a mask set? -/
def hasBit (m : BitVec 64) (i : Nat) : Bool := m.getLsbD i

/-- The maximal runs of set bits of a mask from bit `i`, as first bit and length. -/
def runsOf (m : BitVec 64) : Nat → Nat → List (Nat × Nat)
  | 0, _ => []
  | n + 1, i =>
    if hasBit m i then
      match runsOf m n (i + 1) with
      | (j, k) :: rest => if j = i + 1 then (i, k + 1) :: rest else (i, 1) :: (j, k) :: rest
      | [] => [(i, 1)]
    else runsOf m n (i + 1)

/-- Bytes `i` to `i + n - 1` of a copy. -/
def L2Line.bytes (l : L2Line) (i n : Nat) : List Byte := (List.range n).map fun j => l.data.extractLsb' (8 * (i + j)) 8

/-- A copy whose dirty bytes have left: of a REMOTE line they are in flight until their acknowledgement (R246, R406). -/
def L2Line.cleaned (l : L2Line) : L2Line := { l with dirty := 0, flying := if isRemote l.line then l.flying ||| l.dirty else 0 }

/-- Sending the dirty bytes of one copy: posted writes to the host, WRITE flits to a package, of class 0 for a SYSTEM-scope
release or FENCE and 1 otherwise (R216, R247, R405). Answers the last flit's number when there is one. -/
def State.sendLine (s : State) (l : L2Line) (cls : Nat) : Option Nat × State :=
  (runsOf l.dirty 64 0).foldl (fun (o, u) (i, n) =>
    if isRemote l.line then
      let (x, pa) := remotePa (l.line + i)
      let (q, u) := u.sendFlit 0x01 cls x false fun f =>
        { f with addr := BitVec.ofNat 64 pa, len := BitVec.ofNat 16 n, payload := l.bytes i n }
      (some q, u)
    else (o, { u with hostOut := u.hostOut ++ [⟨l.line - 2 ^ 60 + i, l.bytes i n⟩] }))
    (none, s)

/-- Replacing one copy. -/
def State.setLine (s : State) (l : L2Line) : State :=
  { s with l2 := l :: s.l2.filter fun x => !(x.die == l.die && x.line == l.line) }

/-- Writing back one copy; a REMOTE one is outstanding until its performed acknowledgement (R246). A fill that is on its way may be older
(R202). -/
def State.writeBackLine (s : State) (who : Requester) (l : L2Line) (cls : Nat) : State :=
  let (o, s) := ((s.codeWrote l.line l.dirty).staleFills l.die l.line).sendLine l cls
  let s := s.setLine l.cleaned
  match o with
  | none => s
  | some q =>
    let s := (s.addReq who l.line false true l.die (remotePa l.line).1 cls q).2
    let n := (runsOf l.dirty 64 0).length
    s.restsOn l.dirty l.data [(BitVec.ofNat 2 cls, BitVec.ofNat 32 q + 1 - BitVec.ofNat 32 n, n)]

/-- The dirty copies of a die. -/
def State.dirtyLines (s : State) (die : Nat) : List L2Line := s.l2.filter fun l => l.die == die && l.dirty ≠ 0

/-- Is a write-back of some line by this die in flight (R246)? -/
def State.dieBackInFlight (s : State) (die : Nat) : Bool := s.reqs.any fun r => r.mask != 0 && r.die == die

/-- The slice in turn waits for the acknowledgements of its release. -/
def State.waitRelease (s : State) (id : Nat) : State := s.setCur { s.cur with stall := some .release, waitReq := some id }

/-- A copy whose write-back fails before any flit is sent, since its package cannot be reached (R251). -/
def State.unreachable (s : State) (l : L2Line) : Bool := isRemote l.line && s.remoteFails (remotePa l.line).1

/-- The slice in turn waits until buffered adds that are due have reached a far line of its die (R223). -/
def State.waitDue (s : State) (key : Nat) : State := (s.hubLine s.strand.die key).wait .reply

/-- The far lines of a die that buffered adds wait for (R223). -/
def State.dueLines (s : State) (die : Nat) : List Nat := (s.det.due.filter fun d => d.die == die).map fun d => lineOf d.key

/-- What the write-backs of a die come to (R216): none is left, they cannot all be made, something comes before them, or they have left. -/
inductive BackStep
  | clear (s : State)
  | fails
  | before (s : State)
  | sent (s : State)
  deriving DecidableEq, Repr

/-- Writing back every dirty HOST and REMOTE line of the die for `who`, behind the adds of the die that are due and the write-backs that it
has in flight (R216, R223, R251). -/
def State.backAll (s : State) (who : Requester) : BackStep :=
  let die := s.strand.die
  if (s.dueLines die).any fun k => isRemote k && s.remoteFails (remotePa k).1 then .fails
  else if !(s.dueLines die).isEmpty then .before ((s.dueLines die).foldl (fun (u : State) k => u.hubLine die k) s)
  else if s.dieBackInFlight die then .before s
  else if (s.dirtyLines die).any s.unreachable then .fails
  else
    let s := (s.dirtyLines die).foldl (fun u l => u.writeBackLine who l 0) s
    if s.dieBackInFlight die then .sent s else .clear s

/-- What a SYSTEM-scope release or FENCE with W in pred does first (R216, R357): it writes back every dirty HOST and REMOTE line of the die, and
waits for the performed acknowledgements; a failure traps REMOTE (R251, R406). An answer for the instruction's own access that follows is
left to it. -/
def State.systemRelease (s : State) (a : Word) (k : State → Out) : Out :=
  match s.cur.reply with
  | some r =>
    if !r.ack then k s
    else if r.ok then k s.takeReply
    else .next (s.takeReply.trap 0x13 a)
  | none =>
    if s.cur.stall = some .release && s.cur.waitReq.isSome then .next (s.wait .release)
    else if s.cur.waitReq.isSome then k s
    else
      match s.backAll (.slice s.strand.key s.side) with
      | .fails => .next (s.trap 0x13 a)
      | .before s => .next (s.wait .release)
      | .sent s => .next (s.waitRelease (s.reqNext - 1))
      | .clear s => k s

/-- Invalidating every clean HOST and REMOTE line of a die (R216); a copy with dirty bytes, or with bytes whose write-back is in flight,
keeps only those, and a fill that is on its way may be older than the acquire. -/
def State.invalidateClean (s : State) (die : Nat) : State :=
  { s with
    reqs := s.reqs.map fun r => if r.fill && r.die == die then { r with stale := true } else r
    l2 := (s.l2.filter fun l => l.die != die || (l.dirty ||| l.flying) ≠ 0).map fun l =>
      if l.die == die then { l with filled := false } else l }

/-- Dropping the die's copy of one line, and whatever of it is on its way. -/
def State.dropLine (s : State) (die key : Nat) : State :=
  let s := s.staleFills die (lineOf key)
  { s with l2 := s.l2.filter fun l => !(l.die == die && l.line == lineOf key) }

/-- An operation performed at the home of a line has ended: a clean copy that has come meanwhile may be older, and so may what is on its way;
bytes written since stay (R202, R215, R333). -/
def State.outdated (s : State) (die key : Nat) : State :=
  let s := s.staleFills die (lineOf key)
  { s with l2 := (s.l2.map fun l => if l.die == die && l.line == lineOf key then { l with filled := false } else l).filter fun l =>
      !(l.die == die && l.line == lineOf key) || (l.dirty ||| l.flying) != 0 }

/-- Writing back any dirty copy of one line in a class and dropping the copy, as before an atomic, an acquire's read or a vector packet
(R215, R216, R247, R249). The write-back stays with the hub: when it fails its bytes are dirty again (R406). -/
def State.flushLine (s : State) (die key cls : Nat) : State :=
  match s.l2Line die (lineOf key) with
  | some l => if l.dirty ≠ 0 then (s.writeBackLine .hub l cls).dropLine die key else s.dropLine die key
  | none => s

/-- The effect of an acquire at a scope on the die's copies (R216). -/
def State.acquireAt (s : State) (sc : Scope) : State := if sc = .system then s.invalidateClean s.strand.die else s

/-- Before a release at a scope (R207, R209, R216): on the compute slice it waits for the memory instructions of the vector
instruction queue; at SYSTEM scope every earlier access of the slice, and every access that its pops have ordered before it, is performed
(R61), and the dirty lines are written back. At a lower scope `k` has them performed before the release's own write (R207). -/
def State.releaseAt (s : State) (sc : Scope) (a : Word) (k : State → Out) : Out :=
  if s.side = .compute && s.strand.q.memoryWaits then .next (s.wait .viqBusy)
  else if sc = .system then s.settleOwn.systemRelease a k
  else k s

end Sys2Proof.Machine
end

