-- ==== Sys2Proof/Machine/Life.lean ====
section
/-! DEFINITION. Barriers, triggers, and the completion of strands and squads (R34, R37 to R41, R46 to R48, R211). -/

namespace Sys2Proof.Machine

/-- T of a launch (R26). -/
def Packet.t (p : Packet) : Nat := p.ctl.toNat % 8 + 1
/-- G of a launch (R26). -/
def Packet.g (p : Packet) : Nat := bits p.ctl.toNat 5 6 + 1
/-- L of a launch (R26). -/
def Packet.l (p : Packet) : Nat := 4 * 2 ^ bits p.ctl.toNat 3 2
/-- PRIO (R26). -/
def Packet.prio (p : Packet) : Nat := bits p.ctl.toNat 11 3
/-- PANELS (R26). -/
def Packet.panels (p : Packet) : Nat := bits p.ctl.toNat 28 5
/-- ACCS (R26). -/
def Packet.accs (p : Packet) : Nat := bits p.ctl.toNat 33 5
/-- SPAD (R26). -/
def Packet.spad (p : Packet) : Nat := bits p.ctl.toNat 38 10
/-- MWEIGHT (R26). -/
def Packet.mweight (p : Packet) : Nat := bits p.ctl.toNat 24 4

/-- A barrier as it starts: 2 × T arrivals, or 2 × T × G for a squad barrier (R37). -/
def State.freshBarrier (s : State) (i : StrandId) (squad : Bool) : Barrier :=
  let p := (s.launchOf i.lid).pkt
  ⟨if squad then 2 * p.t * p.g else 2 * p.t, 0, 0, []⟩

/-- A barrier of the strand's gang or squad. -/
def State.barrier (s : State) (i : StrandId) (squad : Bool) (b : Nat) : Barrier :=
  assocGet (s.freshBarrier i squad) (if squad then (s.squadOf i).bars else (s.gangOf i).bars) b

/-- Replacing a barrier. -/
def State.setBarrier (s : State) (i : StrandId) (squad : Bool) (b : Nat) (v : Barrier) : State :=
  if squad then s.mapSquad i fun q => { q with bars := assocSet q.bars b v }
  else s.mapGang i fun g => { g with bars := assocSet g.bars b v }

/-- BARINIT on a barrier: its result in xd and the barrier after it (R39). -/
def Barrier.init (b : Barrier) (n : Nat) : Word × Barrier :=
  if b.count = 0 then (0, { b with expected := n }) else (1, b)

/-- Does a slice wait on this barrier in this generation? -/
def Slice.waitsOn (c : Slice) (squad : Bool) (b : Nat) (gen : BitVec 32) : Bool :=
  c.barWait == some ⟨squad, b, gen⟩

/-- The separations that a completed generation makes (R219): every slice that waits knows every arrival. -/
def State.learn (s : State) (i : StrandId) (squad : Bool) (b : Nat) (bar : Barrier) : List DetSync :=
  let near := s.strands.filter fun t => t.id.lid == i.lid && t.id.squad == i.squad && (squad || t.id.gang == i.gang)
  let waiters := near.flatMap fun t =>
    (if t.acc.waitsOn squad b bar.gen then [(t.id.detid, Side.access)] else [])
      ++ if t.cmp.waitsOn squad b bar.gen then [(t.id.detid, Side.compute)] else []
  waiters.flatMap fun w => bar.arrivals.map fun a => ⟨i.lid, i.squad, w.1, w.2, a.detid, a.side, a.stamp⟩

/-- A new point of the detector's time (R219; log 12). -/
def State.tick (s : State) : State := { s with stamp := s.stamp + 1 }

/-- An arrival of the slice in turn of a strand at a barrier (R38, R340), at the stamp of its place in program order (R219). At the expected count
the barrier completes: the counter returns to 0
and the generation advances; a squad barrier then applies the squad's buffered adds (R223). -/
def State.arrive (s : State) (i : StrandId) (squad : Bool) (b stamp : Nat) : State :=
  let bar := s.barrier i squad b
  let bar := { bar with count := bar.count + 1, arrivals := if s.isDet i.lid then ⟨i.detid, s.side, stamp⟩ :: bar.arrivals else [] }
  if bar.expected ≤ bar.count then
    let s := { s with det := { s.det with sync := s.learn i squad b bar ++ s.det.sync } }
    let s := s.setBarrier i squad b { bar with count := 0, gen := bar.gen + 1, arrivals := [] }
    if squad then s.applyAdds i.lid i.squad (i.cluster / 40) else s
  else s.setBarrier i squad b bar

/-- Has the barrier's generation moved past the one in which the slice arrived (R38, R340)? -/
def State.released (s : State) (i : StrandId) (w : BarWait) : Bool := (s.barrier i w.squad w.bar).gen != w.gen

/-- Has every strand of every squad of a launch triggered or completed (R48)? -/
def State.triggerDue (s : State) (lid : BitVec 32) : Bool :=
  let l := s.launchOf lid
  s.inFlight lid && decide (l.pkt.squads.toNat ≤ l.nextSquad)
    && (s.strands.all fun t => t.id.lid ≠ lid || t.id.trigger || t.completed)
    && l.saved.all fun q => q.strands.all fun t => t.trigger

/-- A launch fires its trigger (R48). Where a strand has triggered at SYSTEM scope, the writes of the strands that completed without
triggering reach that scope first (R49). -/
def State.fireTrigger (s : State) (lid : BitVec 32) : State :=
  let l := s.launchOf lid
  if !s.triggerDue lid || l.triggered then s
  else if (l.atSystem && l.loose.any s.dieBackInFlight) || l.firing.any s.dieBackInFlight then s
  else if l.atSystem && !l.loose.isEmpty then
    let s := s.mapLaunch lid fun l => { l with firing := l.loose, loose := [] }
    let s := (s.l2.filter fun x => l.loose.contains x.die && x.dirty ≠ 0 && !s.unreachable x).foldl (fun u x => u.writeBackLine .hub x 0) s
    if l.loose.any s.dieBackInFlight then s else s.mapLaunch lid fun l => { l with triggered := true }
  else s.mapLaunch lid fun l => { l with triggered := true }

/-- Do two strands belong to one squad? -/
def StrandId.sameSquad (a b : StrandId) : Bool := a.lid == b.lid && a.squad == b.squad

/-- A GO ends once no squad of its launch is resident (R266, R278): the launch is parked and PREEMPTED is posted, unless every
squad has completed, which COMPLETE reports. -/
def State.goCheck (s : State) (lid : BitVec 32) : State :=
  let l := s.launchOf lid
  if l.go && l.done < l.pkt.squads.toNat && !(s.squads.any fun q => q.lid == lid) then
    let s := s.mapLaunch lid fun l => { l with go := false, parked := true }
    (s.post (lidRecord 0x05 0 lid (leBytes 4 l.savedCount))).clearBusy lid
  else s

/-- A squad completes: its buffered adds are applied, its lines leave fall-back, and what it held is free (R34, R221,
R223, R358). -/
def State.endSquad (s : State) (i : StrandId) : State :=
  let s := s.applyAdds i.lid i.squad (i.cluster / 40)
  let s := s.setStrands (s.strands.filter fun t => !t.id.sameSquad i)
  let mine := fun (lid : BitVec 32) (q : Nat) => lid == i.lid && q == i.squad
  let s := { s with
    gangs := s.gangs.filter fun g => !mine g.lid g.squad
    squads := s.squads.filter fun q => !mine q.lid q.index
    det := { s.det with
      entries := s.det.entries.filter fun e => !mine e.lid e.squad
      sync := s.det.sync.filter fun e => !mine e.lid e.squad } }
  ((s.mapLaunch i.lid fun l => { l with done := l.done + 1 }).fireTrigger i.lid).goCheck i.lid

/-- Do two strands belong to one gang? -/
def StrandId.sameGang (a b : StrandId) : Bool := a.sameSquad b && a.gang == b.gang

/-- Lanes of joined children that adjoin the strand's own and are as many come back to it; others wait for that (R47; log 54). -/
def StrandId.absorb (i : StrandId) : Nat → StrandId
  | 0 => i
  | n + 1 =>
    if i.back.contains (i.lane0 + i.lanes, i.lanes) then
      ({ i with lanes := 2 * i.lanes, back := i.back.erase (i.lane0 + i.lanes, i.lanes) }).absorb n
    else i

/-- The runs of lanes that a strand holds: its own, those of joined children that have not come back to it yet, and those of completed
children that are no strands any more (R47; log 54). -/
def StrandId.laneRuns (i : StrandId) : List (Nat × Nat) := (i.lane0, i.lanes) :: i.back ++ i.children.flatMap (·.kept)

/-- Lanes return to a parent (R47). -/
def StrandId.regainRuns (i : StrandId) (runs : List (Nat × Nat)) : StrandId := ({ i with back := runs ++ i.back }).absorb 8

/-- The lanes of a child return to its parent (R47). -/
def StrandId.regain (i : StrandId) (c : StrandId) : StrandId := i.regainRuns c.laneRuns

/-- A child that has completed is marked in its parent. -/
def StrandId.childDone (i : StrandId) (name : Nat) : StrandId :=
  { i with children := i.children.map fun c : Child => if 8 + c.name = name then { c with completed := true } else c }

/-- A strand that has completed retires the children that it has not joined: their core pairs are free and their lanes return (R47). -/
def State.retireChildren (s : State) (i : StrandId) : State :=
  let mine := fun t : Strand => t.id.sameGang i && t.id.parent == some i.name
  let kids := (s.strands.filter mine).map (·.id)
  let s := s.setStrands (s.strands.filter fun t => !mine t)
  s.mapStrands (fun t : Strand => t.id.sameGang i && t.id.name == i.name) fun t : Strand =>
    { t with id := { (kids.foldl StrandId.regain t.id).regainRuns (t.id.children.flatMap (·.kept)) with children := [] } }

/-- Has a strand completed for good? One that is at S, parked or yet to be loaded ends once it has returned from its handler (R264, R266,
R269). -/
def Strand.ended (t : Strand) : Bool :=
  t.resident && t.completed && !t.trap.dead && !t.trap.parked && !t.trap.loading && !t.trap.priv

/-- A completed strand is marked in its parent, which may complete by it, and so on upward (R47). -/
def State.doneUp (s : State) (i : StrandId) : Nat → State
  | 0 => s
  | n + 1 =>
    let s := s.retireChildren i
    match i.parent with
    | none => s
    | some p =>
      let up := fun t : Strand => t.id.sameGang i && t.id.name == p
      let s := s.mapStrands up fun t : Strand => { t with id := t.id.childDone i.name }
      match s.strands.find? up with
      | some t => if t.ended then s.doneUp t.id n else s
      | none => s

/-- The strand in focus may have completed (R34, R47), at a HALT or at the return of a handler: its writes are performed; its parent learns of it; the launch's
trigger and its squad's completion are looked at. -/
def State.noteDone (s : State) : State :=
  if s.strand.ended then
    let s := s.drainAll
    let i := s.strand.id
    let loose := fun u : State => (u.strands.filter fun t => t.id.sameGang i && t.completed && !t.id.trigger).map (·.die)
    let u := s.doneUp i 16
    let s := (u.mapLaunch i.lid fun l => { l with loose := (loose s ++ loose u ++ l.loose).eraseDups }).fireTrigger i.lid
    if (s.strands.filter fun t => t.id.sameSquad i).all Strand.ended then s.endSquad i else s
  else s

/-- A strand has triggered (R48): an LTRIG again has no effect. -/
def State.trigger (s : State) (scope : Scope) : State :=
  let s := if s.strand.id.trigger then s
    else s.mapLaunch s.strand.id.lid fun l => { l with atSystem := l.atSystem || scope == .system }
  ({ s with strand := { s.strand with id := { s.strand.id with trigger := true } } }).fireTrigger s.strand.id.lid

end Sys2Proof.Machine
end

