-- ==== Sys2Proof/Machine/SysReg.lean ====
section
/-! DEFINITION. The system registers and MFS and MTS (R9, R62, R66, R77, R81 to R83, R89, R97, R117, R169, R175, R181, R194,
R222, R259, R260, R270, R292 to R294, R367, R368). -/

namespace Sys2Proof.Machine

/-- CORELOC of a slice (R9). -/
def Strand.coreloc (t : Strand) (side : Side) : Word :=
  BitVec.ofNat 64 (t.id.pair + (if side = .access then 0 else 8) + t.id.cluster % 40 * 2 ^ 4 + t.id.cluster / 40 * 2 ^ 10
    + t.id.cluster * 2 ^ 12)

/-- CLMAPn: PRESENT and COUNT (R9). -/
def State.clmap (s : State) (n : Fin 4) : Word :=
  let p := s.hub.present.get n
  BitVec.ofNat 64 (p.toNat + (((List.range 40).filter fun i => p.getLsbD i).length) * 2 ^ 40)

/-- VTYPE as a register (R82). -/
def Slice.vtypeWord (c : Slice) : Word := BitVec.setWidth 64 (c.width ++ BitVec.ofBool c.legal)

/-- A number of BKA1 to BKA31 or BKC1 to BKC31 as a register (R292). -/
def bankReg (n base : Nat) : Option Reg := if base < n && n < base + 32 then some (Fin.ofNat 32 (n - base)) else none

/-- A system register that the slice in turn can reach, as its value and whether a read needs S (R292); none when the
number is not listed or not reachable from the slice. -/
def State.sysReg (s : State) (n : Nat) : Option (Word × Bool) :=
  let t := s.strand
  let own (w : Word) : Option (Word × Bool) := some (w, false)
  let sup (w : Word) : Option (Word × Bool) := some (w, true)
  match n with
  | 0x000 => own (BitVec.setWidth 64 s.cur.fcsr)
  | 0x001 => if s.side = .access then own (BitVec.setWidth 64 t.acc.vl) else none
  | 0x002 => if s.side = .compute then own (BitVec.setWidth 64 t.cmp.vl) else none
  | 0x003 => own s.cur.vtypeWord
  | 0x004 => own (BitVec.setWidth 64 s.cur.vstart)
  | 0x005 => if s.side = .access then own (BitVec.setWidth 64 t.sys.mtype) else none
  | 0x006 => if s.side = .compute then own (BitVec.setWidth 64 t.sys.spstat) else none
  | 0x007 => own (BitVec.setWidth 64 t.sys.slip)
  | 0x008 => own (BitVec.setWidth 64 (t.qstatOf s.side))
  | 0x009 => own (BitVec.setWidth 64 t.sys.lod)
  | 0x00A => own (BitVec.setWidth 64 t.sys.lodcyc)
  | 0x00B => own (BitVec.setWidth 64 t.sys.vbconf)
  | 0x00C => own (BitVec.setWidth 64 (BitVec.ofBool t.sys.ovf))
  | 0x010 => own (BitVec.ofNat 64 (s.lgrant t.id.cluster))
  | 0x011 => own (BitVec.ofNat 64 (s.mgrant t.id.cluster))
  | 0x012 => own (t.coreloc s.side)
  | 0x014 => sup (s.clmap 0)
  | 0x015 => sup (s.clmap 1)
  | 0x016 => sup (s.clmap 2)
  | 0x017 => sup (s.clmap 3)
  | 0x100 => sup t.trap.tcause
  | 0x101 => sup t.trap.taddr
  | 0x102 => sup t.trap.tpca
  | 0x103 => sup t.trap.tpcc
  | 0x104 => sup (BitVec.setWidth 64 t.trap.tstat)
  | 0x105 => sup t.trap.tscratch
  | 0x106 => sup t.trap.tvec
  | 0x108 => sup t.trap.ptbr
  | 0x109 => sup 0
  | 0x10C => sup t.trap.savearea
  | 0x10D => sup t.trap.restaddr
  | 0x10E => sup (BitVec.setWidth 64 (BitVec.ofBool t.trap.vabsent))
  | 0x10F => sup (BitVec.setWidth 64 t.vec.vdirty)
  | n =>
    match bankReg n 0x140, bankReg n 0x160 with
    | some r, _ => sup (t.regs.user.get r)
    | none, some r => sup (t.regs.comp.get r)
    | none, none => none

/-- Registers that no MTS may write (R294 step 2). -/
def neverWritten (n : Nat) : Bool :=
  [0x001, 0x002, 0x003, 0x008, 0x010, 0x011, 0x012, 0x014, 0x015, 0x016, 0x017, 0x10C, 0x10D, 0x10E, 0x10F].contains n

/-- Registers that an MTS may write at S only (R294 step 3). -/
def writeNeedsS (n : Nat) : Bool := n == 0x004 || n == 0x007 || 0x100 ≤ n

/-- Values that a register's own rule refuses (R294 step 4). -/
def valueRefused (n : Nat) (v : Word) : Bool :=
  match n with
  | 0x000 => decide (5 ≤ bits v.toNat 10 3)
  | 0x005 => decide (4 ≤ v.toNat)
  | 0x007 => decide (v.toNat < 1 ∨ 8 < v.toNat)
  | 0x100 => decide (2 ^ 17 ≤ v.toNat)
  | 0x104 => decide (2 ^ 53 ≤ v.toNat ∨ 2 ≤ bits v.toNat 1 2)
  | 0x106 => v.getLsbD 0 || decide (2 ^ 56 ≤ v.toNat)
  | 0x108 => decide (2 ≤ v.toNat % 4) || bits v.toNat 2 6 != 0 || bits v.toNat 8 3 != 0 || decide (2 ^ 52 ≤ v.toNat)
  | _ => false

/-- TLBINV: ALL, or the page VPN under every root (R181). VPN names one 64 KiB page, also inside a larger one: what is cached of the other
64 KiB pieces of that page stays (log 9). -/
def State.tlbInv (s : State) (v : Word) : State :=
  if v.getLsbD 63 then { s with tlb := [] }
  else { s with tlb := s.tlb.filter fun t => t.vpn != bits v.toNat 16 40 }

/-- Changing the strand's own registers. -/
def State.mapSys (s : State) (f : SysRegs → SysRegs) : State := { s with strand := { s.strand with sys := f s.strand.sys } }
/-- Changing the trap registers. -/
def State.mapTrap (s : State) (f : TrapRegs → TrapRegs) : State := { s with strand := { s.strand with trap := f s.strand.trap } }
/-- Changing the queues. -/
def State.mapQ (s : State) (f : Queues → Queues) : State := { s with strand := { s.strand with q := f s.strand.q } }
/-- Changing the vector state. -/
def State.mapVec (s : State) (f : VecState → VecState) : State := { s with strand := { s.strand with vec := f s.strand.vec } }
/-- Changing the access slice. -/
def State.mapAcc (s : State) (f : Slice → Slice) : State := { s with strand := { s.strand with acc := f s.strand.acc } }
/-- Changing the compute slice. -/
def State.mapCmp (s : State) (f : Slice → Slice) : State := { s with strand := { s.strand with cmp := f s.strand.cmp } }

/-- A write of TSTAT reaches SLICE and PPRIV; the other fields are read only (R260). -/
def tstatWrite (old : BitVec 53) (v : Word) : BitVec 53 := (old &&& ~~~(7 : BitVec 53)) ||| (BitVec.setWidth 53 v &&& 7)

/-- The write of a system register that its checks have passed. -/
def State.sysWrite (s : State) (n : Nat) (v : Word) : State :=
  match n with
  | 0x000 => s.setCur { s.cur with fcsr := BitVec.setWidth 13 v }
  | 0x004 => s.setCur { s.cur with vstart := BitVec.setWidth 24 v }
  | 0x005 => s.mapSys fun r => { r with mtype := BitVec.setWidth 2 v }
  | 0x006 => s.mapSys fun r => { r with spstat := BitVec.setWidth 2 v }
  | 0x007 => s.mapSys fun r => { r with slip := BitVec.setWidth 4 v }
  | 0x009 => s.mapSys fun r => { r with lod := BitVec.setWidth 48 v }
  | 0x00A => s.mapSys fun r => { r with lodcyc := BitVec.setWidth 48 v }
  | 0x00B => s.mapSys fun r => { r with vbconf := BitVec.setWidth 48 v, vbrun := false }
  | 0x00C => s.mapSys fun r => { r with ovf := v.getLsbD 0 }
  | 0x100 => s.mapTrap fun t => { t with tcause := v }
  | 0x101 => s.mapTrap fun t => { t with taddr := v }
  | 0x102 => s.mapTrap fun t => { t with tpca := v }
  | 0x103 => s.mapTrap fun t => { t with tpcc := v }
  | 0x104 => s.mapTrap fun t => { t with tstat := tstatWrite t.tstat v }
  | 0x105 => s.mapTrap fun t => { t with tscratch := v }
  | 0x106 => s.mapTrap fun t => { t with tvec := v }
  | 0x108 => s.mapTrap fun t => { t with ptbr := v }
  | 0x109 => s.tlbInv v
  | n =>
    match bankReg n 0x140, bankReg n 0x160 with
    | some r, _ => { s with strand := { s.strand with regs :=
        { s.strand.regs with user := s.strand.regs.user.set r.val v r.isLt } } }
    | none, some r => { s with strand := { s.strand with regs :=
        { s.strand.regs with comp := s.strand.regs.comp.set r.val v r.isLt } } }
    | none, none => s

/-- Registers whose MFS and MTS wait on the compute slice for every older vector, function and matrix instruction (R368). -/
def waitsForVector (n : Nat) : Bool := [0x000, 0x002, 0x003, 0x004, 0x006, 0x00B, 0x10F].contains n

/-- The access slice runs at S. -/
def State.atS (s : State) : Bool := s.side == Side.access && s.strand.trap.priv

/-- VBCONF counts on: once vector instructions have run, its count before a read is a free value ahead, and otherwise it is what it was
(R97; log 6). -/
def State.countConflicts (s : State) : State :=
  if s.strand.sys.vbrun then
    { (s.mapSys fun r => { r with vbconf := r.vbconf + Config.freeValue s.fresh, vbrun := false }) with fresh := s.fresh + 1 }
  else s

/-- Does an AMOFADD of the slice in turn still have flags to bring to the slice's FCSR (R334)? MFS and MTS of FCSR come behind it. -/
def State.flagsComing (s : State) : Bool := s.strand.stores.any fun a => a.side == s.side && a.atom.any fun p => p.op == .fadd

/-- MFS (R294, R367, R368). -/
def execMfs (rd : Reg) (reg : BitVec 12) (s : State) : Out :=
  let n := reg.toNat
  match s.sysReg n with
  | none => .next (s.illegal (.mfs rd reg))
  | some (v, needsS) =>
    if needsS && !s.atS then .next s.privTrap
    else if s.side = .compute && waitsForVector n && !s.strand.q.vectorDone then .next (s.wait .viqBusy)
    else if n = 0x000 && s.flagsComing then .next (s.wait .reply)
    else if n = 0x00B then
      let s := s.countConflicts
      .next (s.result rd (BitVec.setWidth 64 s.strand.sys.vbconf) 4)
    else .next (s.result rd v 4)

/-- MTS (R294, R367, R368). -/
def execMts (reg : BitVec 12) (rs1 : Reg) (s : State) : Out :=
  let n := reg.toNat
  let v := s.x rs1
  match s.sysReg n with
  | none => .next (s.illegal (.mts reg rs1))
  | some _ =>
    if neverWritten n then .next (s.illegal (.mts reg rs1))
    else if writeNeedsS n && !s.atS then .next s.privTrap
    else if valueRefused n v then .next (s.illegal (.mts reg rs1))
    else if s.side = .compute && waitsForVector n && !s.strand.q.vectorDone then .next (s.wait .viqBusy)
    else if n = 0x000 && s.flagsComing then .next (s.wait .reply)
    else .next ((s.sysWrite n v).advance 4)

/-! Reads of storage with an uncorrectable error (R272). -/

/-- Encoded instructions that only the access slice executes (R52). -/
def accessOnly (i : Instr) : Bool :=
  match i with
  | .apush _ | .cpop _ | .bqz _ | .bqnz _ | .slipReg _ | .slipImm _ | .mtsetGlobal | .mtsetSpad | .mtsetShared | .mtsetTcm | .vsetl ..
  | .tack | .tret | .seal _ | .vsave _ | .vrestore _ | .vlsync | .eseq _ | .ecopy .. | .equant .. | .epack .. | .eunpack .. | .evpop ..
  | .vle _ | .vls .. | .vlx _ | .vlff _ | .vlb .. | .vse _ | .vss .. | .vsx _ | .vsb .. | .vamo .. => true
  | _ => false

/-- Does an instruction pass the checks that come before it reads anything: its slice, its privilege, and the register that MFS or MTS names
(R268, R282 steps 2 and 3, R294 steps 1 to 3)? -/
def State.entitled (s : State) (i : Instr) : Bool :=
  !(if s.side = .access then computeOnly i else accessOnly i) &&
    match i with
    | .tack | .tret | .seal _ => s.atS
    | .vsave _ | .vrestore _ => s.atS && s.strand.trap.ack
    | .mfs _ n => (s.sysReg n.toNat).any fun r => !r.2 || s.atS
    | .mts n _ => (s.sysReg n.toNat).isSome && !neverWritten n.toNat && (!writeNeedsS n.toNat || s.atS)
    | _ => true

/-- Does the instruction trap MEMERR with STATE = 1, since it reads storage of the strand that holds an uncorrectable error (R272; log 49)? -/
def State.lostNow (s : State) (i : Instr) : Bool := s.readsLost i && s.entitled i

/-- That trap. VSAVE leaves the strand's state as it is (R445). -/
def State.lostTrap (s : State) (i : Instr) : State :=
  match i with
  | .vsave _ => s.raiseAt ⟨0x8B, 0⟩
  | _ => s.raise ⟨0x8B, 0⟩

end Sys2Proof.Machine
end

