-- ==== Sys2Proof/Machine/System.lean ====
section
/-! DEFINITION. The system instructions: TRAP, HALT, TACK, TRET, the fences, LTRIG, SEAL (R204, R205, R210, R264, R279, R317,
R356 to R358, R364, R397, R398, R408 to R414, R442). -/

namespace Sys2Proof.Machine

/-- TRAP (R410, R411): BREAK with TADDR the immediate and the slice's trap PC behind the TRAP. When the compute slice reaches
it while the access slice stands stopped, the access slice's trap is taken and this one recurs (R71). -/
def execTrap (imm : BitVec 12) (s : State) : Out :=
  if s.side = .compute && s.strand.trap.accStop.isSome then .next s.takeStopped
  else if s.atS && !s.strand.trap.ack then .next (s.trap 0x12 (BitVec.setWidth 64 imm))
  else .next ((s.advance 4).trap 0x12 (BitVec.setWidth 64 imm))

/-- Has the access slice's HALT all it needs (R358): every reserved LDQ slot FULL and every engine command of the strand
ended? -/
def State.accessQuiet (s : State) : Bool :=
  s.strand.q.ldq.all (·.full) && !(s.engine s.strand.id.cluster).cmds.any fun c =>
    c.owner.lid == s.strand.id.lid && c.owner.squad == s.strand.id.squad && c.owner.gang == s.strand.id.gang
      && c.owner.name == s.strand.id.name

/-- HALT at S (R266, R317): in a PREEMPT handler with ACK = 1 it parks the strand; otherwise the access slice halts and the
compute slice stays held. That the handler is one for PREEMPT is read from TCAUSE.CODE as it stands (log 32). -/
def State.haltAtS (s : State) : State :=
  if s.strand.trap.ack && s.strand.trap.tcause.toNat % 256 == 0x17 then s.drainAll.mapTrap fun t => { t with parked := true }
  else s.mapTrap fun t => { t with dead := true }

/-- When both slices have halted, what is left in the queues is discarded (R78): every slot is FULL by then (R358). -/
def State.discardQueues (s : State) : State :=
  if s.strand.acc.halted && s.strand.cmp.halted then s.mapQ fun q => { q with ldq := [], sdq := [], aq := [], cq := [] } else s

/-- HALT (R78, R358). A slice that has halted fetches nothing more; the strand may then have completed (R34). -/
def execHalt (s : State) : Out :=
  if s.side = .access then
    if s.strand.trap.priv then .next s.haltAtS
    else if s.accessQuiet then .next (((s.drainSide .access).mapAcc fun c => { c with halted := true, stall := none }).discardQueues.noteDone)
    else .next (s.wait .halt)
  else if s.strand.q.allDone then
    .next (((s.drainSide .compute).mapCmp fun c => { c with halted := true, stall := none }).discardQueues.noteDone)
  else .next (s.wait .halt)

/-- TACK (R264, R409). -/
def execTack (s : State) : Out :=
  s.onSupervisor .tack fun s => .next ((s.mapTrap fun t => { t with tstat := t.tstat ||| 8 }).advance 4)

/-- TRET with ACK = 1 (R264, R269, R317, R412, R413): the handler's accesses are performed, then both slices resume; LAZY
comes at once when a non-empty vector instruction queue would be released with VABSENT = 1, and a waiting pre-emption is
taken on the return to U (R265), unless a DETERM of an engine command comes first (log 22). A strand that has nothing left to run, since its
last child has completed meanwhile, completes (R34, R47). -/
def State.tret (s : State) : State :=
  let u := (s.drainSide .access).trapReturn
  if u.strand.trap.priv then u
  else if u.strand.ended then u.noteDone
  else if u.strand.trap.vabsent && !u.strand.q.viq.isEmpty then u.enterTrap ⟨0x16, 0⟩ true
  else if u.strand.trap.preempt && u.strand.trap.determ.isNone && u.strand.q.matrixAway && !u.strand.completed then u.takePreempt
  else u

/-- TRET: ILLEGAL with ACK = 0, which is a double fault (R264, R265). One that would take a waiting pre-emption waits until the entries of
the matrix queue have completed (R171). -/
def execTret (s : State) : Out :=
  s.onSupervisor .tret fun s =>
    if !s.strand.trap.ack then .next (s.illegal .tret)
    else if s.strand.trap.preempt && !s.strand.trap.tstat.getLsbD 1 && (s.strand.q.mq.any fun e => e.wait == 0) && !s.strand.q.matrixAway then .next (s.wait .matrix)
    else .next s.tret

/-- SVFENCE (R204, R408): its scalar path's accesses come before the vector path's after it, and the other way about. On the compute slice it
waits for the memory instructions of the vector instruction queue. -/
def execSvfence (s : State) : Out :=
  if s.side = .compute && s.strand.q.memoryWaits then .next (s.wait .viqBusy)
  else .next (((s.order ⟨some .scalar, .rw, some .vector, .rw, true⟩).order ⟨some .vector, .rw, some .scalar, .rw, true⟩).advance 4)

/-- VLSYNC (R205, R442): the slice does not stand still for it. -/
def execVlsync (s : State) : Out :=
  s.onAccess .vlsync fun s => .next s.vlsync

/-- LTRIG (R48, R49, R364): a release at its scope, then the strand has triggered. A release that fails traps REMOTE with TADDR 0, as a FENCE
does (R251, R357; log 75). -/
def execLtrig (scope : Scope) (s : State) : Out :=
  if scope = .device || scope = .system then s.releaseAt scope 0 fun s => .next ((s.settleOwn.trigger scope).advance 4)
  else .next (s.illegal (.ltrig scope))

/-! SEAL. -/

/-- The key of the leaf entry of an address (R179, R180). -/
def leafEntryKey (m : Memory) (va : Nat) : Nat → Nat → Option Nat
  | 0, table => some (table + 8 * levelIndex 0 va)
  | l + 1, table =>
    let k := table + 8 * levelIndex (l + 1) va
    let e := m.readNat k 8
    if pte e 5 1 = 1 then some k else leafEntryKey m va l (tableKey (pte e 52 2) (pte e 8 44 * 256))

/-- The pages of a range, checked as loads in ascending order (R397): a cause and an address, or the pages' keys. -/
def State.sealPages (s : State) (va : Nat) : Nat → Except Trap (List Nat)
  | 0 => .ok []
  | n + 1 =>
    let a := BitVec.ofNat 64 va
    let r : Except Nat Nat := if va < 2 ^ 64 then s.translate s.strand.trap.ptbr true .load a else .error 0x05
    match r, s.sealPages (va + 65536) n with
    | .error c, _ => .error ⟨BitVec.ofNat 8 c, a⟩
    | .ok k, .ok ks => .ok (k :: ks)
    | .ok _, .error t => .error t

/-- The first page, of a range from `va`, that lies in a far tier (R397 step 4). -/
def firstFar (va : Nat) : List Nat → Option Nat
  | [] => none
  | k :: ks => if isFar k then some va else firstFar (va + 65536) ks

/-- The first line, of a range from `va`, that holds an uncorrectable error: hashing meets it first (R279, R398). -/
def State.sealBad (s : State) (va : Nat) : List Nat → Option Nat
  | [] => none
  | k :: ks =>
    match (s.bad.filter fun b => k ≤ b && b < k + 65536).min? with
    | some b => some (va + (b - k))
    | none => s.sealBad (va + 65536) ks

/-- Setting SEALED in the leaf entries of a range's pages (R180, R279). -/
def State.markSealed (s : State) (va : Nat) : Nat → State
  | 0 => s
  | n + 1 =>
    let root := tableKey (s.strand.trap.ptbr.toNat % 4) (bits s.strand.trap.ptbr.toNat 8 44 * 256)
    let s := match leafEntryKey s.mem va 4 root with
      | some k => { s with mem := s.mem.set k (s.mem.get k ||| 0x80) }
      | none => s
    s.markSealed (va + 65536) n

/-- SEAL (R279, R397, R398). The stores, atomics and buffered adds of any strand that wait and go to the range are performed before its entry;
those that come later fault. -/
def execSeal (a : R3) (s : State) : Out :=
  s.onSupervisor (.seal a) fun s =>
    let base := s.x a.rs1
    let len := s.x a.rs2
    if base.toNat % 65536 ≠ 0 then .next (s.misalign base)
    else if len.toNat % 65536 ≠ 0 then .next (s.misalign len)
    else if len = 0 || decide (2 ^ 36 < len.toNat) then .next (s.illegal (.seal a))
    else
      match s.sealPages base.toNat (len.toNat / 65536) with
      | .error t => .next (s.raise t)
      | .ok pages =>
        match firstFar base.toNat pages with
        | some va => .next (s.trap 0x08 (BitVec.ofNat 64 va))
        | none =>
        let s := s.settleOwn.drainEach fun x => x.targets.any fun c => pages.any fun k => k ≤ c && c < k + 65536
        if 64 ≤ s.hub.seals.length then .next (s.result a.rd (BitVec.allOnes 64) 4)
        else
          match s.sealBad base.toNat pages with
          | some va => .next (s.trap 0x0B (BitVec.ofNat 64 va))
          | none =>
            let s := s.applyPages pages
            let digest := Config.sm3 (pages.flatMap fun k => s.mem.read k 65536)
            let n := s.hub.seals.length
            let s := s.markSealed base.toNat (len.toNat / 65536)
            let s := { s with hub := { s.hub with seals := s.hub.seals ++ [Seal.mk base len pages digest] } }
            .next (s.result a.rd (BitVec.ofNat 64 n) 4)

end Sys2Proof.Machine
end

