-- ==== Sys2Proof/Machine/QueueOps.lean ====
section
/-! DEFINITION. The scalar queues, SLIP, MTSET and the vector lengths (R53 to R67, R81 to R88, R175, R335, R336, R342, R373,
R399, R446). -/

namespace Sys2Proof.Machine

/-- What a slice accesses behind a pop comes behind the accesses that its partner made before the push, which stand below the entry's
mark (R61). -/
def State.popOrder (s : State) (mark : Nat) : State := s.setCur { s.cur with popMark := max s.cur.popMark mark }

/-- APUSH (R58, R335). -/
def execApush (xs : Reg) (s : State) : Out :=
  s.onAccess (.apush xs) fun s =>
    if 32 ≤ s.strand.q.aq.length then .next (s.wait .aqFull)
    else .next ((s.mapQ fun q => { q with aq := q.aq ++ [⟨s.x xs, false, s.strand.issued⟩] }).advance 4)

/-- APOP (R56, R58): a grant at the head traps ILLEGAL and stays. -/
def execApop (rd : Reg) (s : State) : Out :=
  s.onCompute (.apop rd) fun s =>
    match s.strand.q.aq with
    | [] => .next (s.wait .aqEmpty)
    | e :: rest =>
      if e.grant then .next (s.illegal (.apop rd))
      else .next (((s.popOrder e.mark).mapQ fun q => { q with aq := rest }).result rd e.value 4)

/-- CPUSH (R58). Older memory instructions of the vector instruction queue stand below its mark (R61). -/
def execCpush (xs : Reg) (s : State) : Out :=
  s.onCompute (.cpush xs) fun s =>
    if 32 ≤ s.strand.q.cq.length then .next (s.wait .cqFull)
    else .next ((s.mapQ fun q => { q with cq := q.cq ++ [⟨s.x xs, s.strand.issued⟩] }).advance 4)

/-- CPOP (R58). -/
def execCpop (rd : Reg) (s : State) : Out :=
  s.onAccess (.cpop rd) fun s =>
    match s.strand.q.cq with
    | [] => .next (s.wait .cqEmpty)
    | e :: rest => .next (((s.popOrder e.mark).mapQ fun q => { q with cq := rest }).result rd e.value 4)

/-- Cycles spent waiting in BQZ or BQNZ are added to LODCYC; their number is a free value (R66; log 6). -/
def State.waitCounted (s : State) : State :=
  { ((s.mapSys fun r => { r with lodcyc := r.lodcyc + Config.freeValue s.fresh }).wait .cqEmpty) with fresh := s.fresh + 1 }

/-- BQZ and BQNZ (R66, R342): pop CQ, count, branch. -/
def State.branchQueue (s : State) (wantZero : Bool) (off : BitVec 11) : Out :=
  match s.strand.q.cq with
  | [] => .next s.waitCounted
  | e :: rest =>
    let s := ((s.popOrder e.mark).mapQ fun q => { q with cq := rest }).mapSys fun r => { r with lod := r.lod + 1 }
    s.branch 4 (decide (e.value = 0) == wantZero) (boff off)

/-- BQZ (R66). -/
def execBqz (off : BitVec 11) (s : State) : Out := s.onAccess (.bqz off) fun s => s.branchQueue true off
/-- BQNZ (R66). -/
def execBqnz (off : BitVec 11) (s : State) : Out := s.onAccess (.bqnz off) fun s => s.branchQueue false off

/-- SLIP xs (R63, R399). -/
def execSlipReg (xs : Reg) (s : State) : Out :=
  s.onAccess (.slipReg xs) fun s =>
    let v := s.x xs
    if 1 ≤ v.toNat ∧ v.toNat ≤ 8 then .next ((s.mapSys fun r => { r with slip := BitVec.setWidth 4 v }).advance 4)
    else .next (s.illegal (.slipReg xs))

/-- SLIP imm (R63, R399). -/
def execSlipImm (imm : BitVec 4) (s : State) : Out :=
  s.onAccess (.slipImm imm) fun s =>
    if 1 ≤ imm.toNat ∧ imm.toNat ≤ 8 then .next ((s.mapSys fun r => { r with slip := imm }).advance 4)
    else .next (s.illegal (.slipImm imm))

/-- Writing MTYPE.SPACE (R175, R373). -/
def State.setSpace (s : State) (i : Instr) (sp : BitVec 2) : Out :=
  s.onAccess i fun s => .next ((s.mapSys fun r => { r with mtype := sp }).advance 4)

/-- MTSET.GLOBAL (R373). -/
def execMtsetGlobal (s : State) : Out := s.setSpace .mtsetGlobal 0
/-- MTSET.SPAD (R373). -/
def execMtsetSpad (s : State) : Out := s.setSpace .mtsetSpad 1
/-- MTSET.SHARED (R373). -/
def execMtsetShared (s : State) : Out := s.setSpace .mtsetShared 2
/-- MTSET.TCM (R373). -/
def execMtsetTcm (s : State) : Out := s.setSpace .mtsetTcm 3

/-- Bits of an element of a width code (R82). -/
def widthBits (code : Nat) : Nat := 4 * 2 ^ code

/-- The grant of VSETL (R87, R90). -/
def grantOf (lanes lgrant w : Nat) (req : Nat) : Nat :=
  min req (min (lanes * 512 / w) ((lanes * lgrant + 31) / 32 * 512 / w))

/-- A grant as an AQ entry (R56): COUNT and the WIDTH code. -/
def grantEntry (count width mark : Nat) : AqEntry := ⟨BitVec.ofNat 64 (count + width * 2 ^ 32), true, mark⟩

/-- VSETL in register form (R64, R87). -/
def execVsetl (w : EWidth) (rd xs : Reg) (s : State) : Out :=
  s.onAccess (.vsetl w rd xs) fun s =>
    if 32 ≤ s.strand.q.aq.length then .next (s.wait .aqFull)
    else
      let g := grantOf s.strand.id.lanes (s.lgrant s.strand.id.cluster) (widthBits w.code) (s.x xs).toNat
      let s := s.mapAcc fun c => { c with vl := BitVec.ofNat 24 g, legal := true, width := BitVec.ofNat 3 w.code }
      let s := s.mapQ fun q => { q with aq := q.aq ++ [grantEntry g w.code s.strand.issued] }
      .next (s.result rd (BitVec.ofNat 64 g) 4)

/-- Clearing v0 to v31 and m0 to m7 (R88, R269): a clearing counts as a write of every register it clears. -/
def VecState.clearVM (v : VecState) : VecState :=
  { v with v := Vector.replicate 32 0, m := Vector.replicate 8 0, vvalid := Vector.replicate 32 0, mvalid := 0,
           vdirty := v.vdirty ||| 0xFFFFFFFFFF }

/-- A compute slice whose length and type are those of a grant. -/
def Slice.granted (c : Slice) (grant : Word) : Slice :=
  { c with vl := BitVec.setWidth 24 grant, legal := true, width := grant.extractLsb' 32 3 }

/-- VSETL.Q (R64, R88, R446). Where its grant changes VLC or VTYPE it takes effect behind the older entries of the vector instruction
queue, which run under the length and type that they were dispatched with (R85; log 10). -/
def execVsetlQ (rd : Reg) (s : State) : Out :=
  s.onCompute (.vsetlQ rd) fun s =>
    match s.strand.q.aq with
    | [] => .next (s.wait .aqEmpty)
    | e :: rest =>
      if !e.grant then .next (s.illegal (.vsetlQ rd))
      else if s.strand.cmp.granted e.value ≠ s.strand.cmp && !s.strand.q.vectorDone then .next (s.wait .viqBusy)
      else
        let s := (s.popOrder e.mark).mapQ fun q => { q with aq := rest }
        let s := if s.strand.cmp.legal then s else s.mapVec VecState.clearVM
        let s := s.mapCmp fun c => c.granted e.value
        .next (s.result rd (BitVec.setWidth 64 (e.value.extractLsb' 0 32)) 4)

/-- A compute-slice instruction that R86 covers: VTYPE while the type is illegal; with VABSENT = 1, LAZY (R86, R269). -/
def State.vready (s : State) (k : State → Out) : Out :=
  if !s.strand.cmp.legal then .next s.vtype
  else if s.strand.trap.vabsent then .next (s.raise ⟨0x16, 0⟩)
  else k s

end Sys2Proof.Machine
end

