-- ==== Sys2Proof/Machine/Sync.lean ====
section
/-! DEFINITION. Barriers, mask branches, CONVOY, VFORK and JOIN (R36 to R41, R45 to R47, R99 to R101, R211, R338 to R340, R343,
R360, R437). -/

namespace Sys2Proof.Machine

/-- BARINIT and BARINIT.SQ (R39, R340). -/
def State.barInit (s : State) (i : Instr) (a : KArgs) (squad : Bool) (bars most : Nat) : Out :=
  let n := (s.x a.xs).toNat
  if bars ≤ a.b.toNat || n < 1 || most < n then .next (s.illegal i)
  else
    let (r, b) := (s.barrier s.strand.id squad a.b.toNat).init n
    .next ((s.setBarrier s.strand.id squad a.b.toNat b).result a.rd r 4)

/-- BARINIT (R39). -/
def execBarinit (a : KArgs) (s : State) : Out := s.barInit (.barinit a) a false 512 16
/-- BARINIT.SQ (R39). -/
def execBarinitSq (a : KArgs) (s : State) : Out := s.barInit (.barinitSq a) a true 64 640

/-- Appending an entry to the vector instruction queue (R98); the schedule says whether it waits for its own event. -/
def State.appendViq (s : State) (e : ViqEntry) : State :=
  let (d, s) := s.nextDelay
  s.mapQ fun q => { q with viq := q.viq ++ [{ e with waiting := d }] }

/-- An entry of the vector instruction queue dispatched now: the detector's time and the slice's accesses stand where they stand (R61,
R219). -/
def State.entry (s : State) (i : Instr) (sc fw : Word) (slot : Option (BitVec 3)) : ViqEntry :=
  ⟨i, sc, fw, s.pc, slot, false, s.stamp, s.strand.issued, false⟩

/-- A marker of the vector instruction queue (R38, R98, R101); an arrival is a new point of the detector's time. -/
def State.marker (s : State) (i : Instr) : State := let s := s.tick; s.appendViq (s.entry i 0 0 none)

/-- An arrival at a named or squad barrier (R38, R211): the access slice makes it in program order once its earlier accesses
are performed; on the compute slice it is a marker. -/
def State.barArrive (s : State) (i : Instr) (squad : Bool) (bars b : Nat) : Out :=
  if bars ≤ b then .next (s.illegal i)
  else if s.side = .access then let s := s.settleOwn.tick; .next ((s.arrive s.strand.id squad b s.stamp).advance 4)
  else if 32 ≤ s.strand.q.viq.length then .next (s.wait .viqFull)
  else .next ((s.marker i).advance 4)

/-- BAR.ARRIVE (R38). -/
def execBarArrive (b : BitVec 9) (s : State) : Out := s.barArrive (.barArrive b) false 512 b.toNat
/-- BAR.ARRIVE.SQ (R38). -/
def execBarArriveSq (b : BitVec 9) (s : State) : Out := s.barArrive (.barArriveSq b) true 64 b.toNat

/-- The arrival of BAR.SYNC: the slice records the generation it waits for, then arrives (R38, R41). -/
def State.arriveAndWait (s : State) (squad : Bool) (b stamp : Nat) : State :=
  let w : BarWait := ⟨squad, b, (s.barrier s.strand.id squad b).gen⟩
  let s := s.setCur { s.cur with barWait := some w }
  s.settleOwn.arrive s.strand.id squad b stamp

/-- The wait of BAR.SYNC: released once the generation has passed, which is an acquire at the barrier's scope (R38, R211). -/
def State.barWaitOn (s : State) : State :=
  match s.cur.barWait with
  | none => s
  | some w =>
    if s.released s.strand.id w then (s.setCur { s.cur with barWait := none }).advance 4 else s.wait .barrier

/-- BAR.SYNC on either slice (R38): on the compute slice the arrival is a marker, and the slice issues nothing past it. -/
def State.barSync (s : State) (i : Instr) (squad : Bool) (bars b : Nat) : Out :=
  if bars ≤ b then .next (s.illegal i)
  else if s.cur.barWait.isSome then .next s.barWaitOn
  else if s.side = .access then let s := s.tick; .next (s.arriveAndWait squad b s.stamp).barWaitOn
  else if s.strand.q.viq.any fun e => e.ins == i then .next (s.wait .barrier)
  else if 32 ≤ s.strand.q.viq.length then .next (s.wait .viqFull)
  else .next ((s.marker i).wait .barrier)

/-- BAR.SYNC (R38). -/
def execBarSync (b : BitVec 9) (s : State) : Out := s.barSync (.barSync b) false 512 b.toNat
/-- BAR.SYNC.SQ (R38). -/
def execBarSyncSq (b : BitVec 9) (s : State) : Out := s.barSync (.barSyncSq b) true 64 b.toNat

/-- CONVOY (R100, R101, R343): NOP when DET = 0, otherwise a marker of the vector instruction queue. -/
def execConvoy (s : State) : Out :=
  s.onCompute .convoy fun s =>
    if !s.isDet s.strand.id.lid then .next (s.advance 4)
    else if 32 ≤ s.strand.q.viq.length then .next (s.wait .viqFull)
    else .next ((s.marker .convoy).advance 4)

/-- Bits 0 to VLC - 1 of a mask register, as a number. -/
def State.maskBits (s : State) (m : MReg) : Nat := (s.strand.vec.m.get m).toNat % 2 ^ s.strand.cmp.vl.toNat

/-- Does a vector instruction write this mask register? -/
def writesMask (m : MReg) (i : Instr) : Bool :=
  match i with
  | .vcmp a => a.md == m
  | .vfcmp a => a.md == m
  | .vmand a | .vmor a | .vmxor a | .vmandn a => a.md == m
  | .vmnot d _ => d == m
  | .vbrkb a | .vbrka a => a.md == m
  | .vbmand _ | .visect _ => m == 0
  | .vwait a => a.md == m
  | _ => false

/-- A mask branch (R99): it waits for older writers of md, then reads bits 0 to VLC - 1. -/
def State.maskBranch (s : State) (i : Instr) (a : MBArgs) (test : Nat → Nat → Bool) : Out :=
  s.onCompute i fun s => s.vready fun s =>
    if s.strand.q.viq.any fun e => writesMask a.md e.ins then .next (s.wait .viqBusy)
    else s.branch 4 (test (s.maskBits a.md) s.strand.cmp.vl.toNat) (boff a.off)

/-- BANY (R99). -/
def execBany (a : MBArgs) (s : State) : Out := s.maskBranch (.bany a) a fun m _ => m != 0
/-- BALL (R99). -/
def execBall (a : MBArgs) (s : State) : Out := s.maskBranch (.ball a) a fun m vl => m == 2 ^ vl - 1
/-- BNONE (R99). -/
def execBnone (a : MBArgs) (s : State) : Out := s.maskBranch (.bnone a) a fun m _ => m == 0

/-! VFORK and JOIN. -/

/-- The parent's vector state after VFORK or JOIN (R46, R47): lengths 0, types illegal, registers and descriptors cleared. -/
def Strand.clearVector (t : Strand) : Strand :=
  { t with
    acc := { t.acc with vl := 0, legal := false }
    cmp := { t.cmp with vl := 0, legal := false }
    vec := { VecState.zero with vdirty := BitVec.allOnes 48 } }

/-- The free core pairs of a cluster, in ascending order (R46). -/
def State.freePairs (s : State) (cluster : Nat) : List Nat :=
  (List.range 8).filter fun k => !(s.strands.any fun t => t.id.cluster == cluster && t.id.pair == k)

/-- Does a name k' name a live child of the gang, or one that has completed and has not been joined (R46, R47)? -/
def State.nameTaken (s : State) (i : StrandId) (k : Nat) : Bool :=
  s.strands.any fun t => t.id.sameGang i && (t.id.name == 8 + k || t.id.children.any fun c => c.name == k)

/-- The name of a new child on core pair `k` (R46). -/
def State.childName (s : State) (i : StrandId) (k : Nat) : Nat :=
  if s.nameTaken i k then ((List.range 8).find? fun j => !s.nameTaken i j).getD k else k

/-- Registers of a strand at its start: x1 to x5, then ARG0 to ARG7 at x8 to x15 (R29). -/
def startBank (x1 x2 x3 x4 x5 : Word) (args : List Word) : Vector Word 32 :=
  Vector.ofFn fun r : Fin 32 =>
    if r.val = 1 then x1 else if r.val = 2 then x2 else if r.val = 3 then x3 else if r.val = 4 then x4
    else if r.val = 5 then x5 else if 8 ≤ r.val ∧ r.val < 16 then args.getD (r.val - 8) 0 else 0

/-- A strand at its start (R29, R57, R260). -/
def Strand.start (id : StrandId) (pca pcc : Word) (bank : Vector Word 32) (tvec ptbr : Word) : Strand :=
  { id := id, acc := Slice.start pca, cmp := Slice.start pcc, regs := ⟨bank, Vector.replicate 32 0, bank⟩,
    vec := VecState.zero, q := Queues.empty, sys := SysRegs.start, trap := TrapRegs.start tvec ptbr, stores := [], issued := 0, lost := [] }

/-- The save area of a strand under the GO of its launch, in the save slot of its squad (R266). -/
def State.areaOf (s : State) (i : StrandId) (slot : Nat) : Word :=
  (s.launchOf i.lid).saveBase + BitVec.ofNat 64 (slot * 2 ^ 31 + i.gang * 2 ^ 25 + i.name * 0x120000)

/-- The pre-emption request that stands for a strand that starts now: its save area, when a GO is under way and has reached its squad
(R266). -/
def State.requestAt (s : State) (i : StrandId) : Option Word :=
  if (s.launchOf i.lid).go then (s.squadOf i).slot.map (s.areaOf i) else none

/-- A strand that the request of a GO reaches. -/
def Strand.requested (t : Strand) (area : Option Word) : Strand :=
  match area with
  | some a => { t with trap := { t.trap with preempt := true, savearea := a } }
  | none => t

/-- Both TCMs of a core pair read as zero (R29). -/
def State.clearTcm (s : State) (cluster pair : Nat) : State :=
  { s with mem := s.mem.clearRange (tcmKey cluster pair .access 0) (2 * 2 ^ 16) }

/-- VFORK (R45, R46, R437). It waits for older vector, function and matrix instructions, not for a marker (R98, R101). A child of a
strand that has triggered has triggered (R364). -/
def execVfork (a : R3) (s : State) : Out :=
  s.onCompute (.vfork a) fun s =>
    let pcc := s.x a.rs1
    let pca := s.x a.rs2
    if pcc.getLsbD 0 then .next (s.trap 0x07 pcc)
    else if pca.getLsbD 0 then .next (s.trap 0x07 pca)
    else if !s.strand.q.vectorDone then .next (s.wait .viqBusy)
    else
      let s := s.finishLoads
      let i := s.strand.id
      let q := s.strand.q
      match s.freePairs i.cluster with
      | [] => .next (s.result a.rd 0 4)
      | k :: _ =>
        if i.lanes < 8 || !q.ldq.isEmpty || !q.sdq.isEmpty || !q.aq.isEmpty then .next (s.result a.rd 0 4)
        else
          let n := s.childName i k
          let r := s.strand.regs.comp
          let bank := startBank (r.get 1) (r.get 2) (BitVec.ofNat 64 (8 + n)) (r.get 4) (r.get 5)
            ((List.range 8).map fun j => r.get (Fin.ofNat 32 (8 + j)))
          let id : StrandId := { i with
            name := 8 + n, pair := k, lane0 := i.lane0 + i.lanes / 2, lanes := i.lanes / 2, parent := some i.name,
            children := [], back := [] }
          let child := (Strand.start id pca pcc bank s.strand.trap.tvec s.strand.trap.ptbr).requested (s.requestAt id)
          let parent := { s.strand.clearVector with id := { i with lanes := i.lanes / 2, children := i.children ++ [⟨n, false, []⟩] } }
          let s := { s with strand := parent, others := child :: s.others }
          .next ((s.clearTcm i.cluster k).result a.rd (BitVec.ofNat 64 (1 + n)) 4)

/-- JOIN (R47, R360). The child's lanes come back once they adjoin the parent's and are as many (log 54). -/
def execJoin (xs : Reg) (s : State) : Out :=
  s.onCompute (.join xs) fun s =>
    let v := (s.x xs).toNat
    match s.strand.id.children.find? fun c => 1 + c.name == v with
    | none => .next (s.illegal (.join xs))
    | some c =>
      if !s.strand.q.vectorDone then .next (s.wait .viqBusy)
      else if !c.completed then .next (s.wait .join)
      else
        let i := s.strand.id
        let mine := fun t : Strand => t.resident && t.id.sameGang i && t.id.name == 8 + c.name
        let rest := s.others.filter fun t => !mine t
        let id := (((s.others.filter mine).map (·.id)).foldl StrandId.regain i).regainRuns c.kept
        let t := s.strand.clearVector
        let t := { t with
          id := { id with children := i.children.filter fun d => d.name != c.name }
          sys := { t.sys with mtype := 0 } }
        .next ({ s with strand := t, others := rest }.advance 4)

end Sys2Proof.Machine
end

