-- ==== Sys2Proof/Machine/LoadStore.lean ====
section
/-! DEFINITION. Scalar loads, stores, acquires and releases (R201, R207 to R216, R361 to R363, R403 to R406). -/

namespace Sys2Proof.Machine

/-- DETERM at a word (R220). -/
def State.determ (s : State) (a : Word) : State := s.trap 0x10 (a &&& ~~~(7 : Word))

/-- A new access of the scalar path of the slice in turn to `n` bytes at a key. -/
def State.scalarAccess (s : State) (key n : Nat) (kind : FenceKind) : Access := s.access .scalar (memSlices s.strand.die key n) kind

/-- What comes before a scalar access of `n` bytes at a key is performed (R61, R202, R203). -/
def State.ownStores (s : State) (key n : Nat) (kind : FenceKind) : State := s.ahead (s.scalarAccess key n kind)

/-- A read of a far location that no earlier copy may serve (R216): the die's copy is flushed, behind any write-back of it in flight, and the line is asked for; the
answer becomes the die's copy after every clean line has been invalidated. `k` goes on with the line's bytes. -/
def State.freshLine (s : State) (a : Word) (key : Nat) (k : State → List Byte → Out) : Out :=
  match s.cur.reply with
  | some r =>
    if r.ack || r.addr != lineOf key then .next (s.takeReply.wait .reply)
    else if r.ok then
      let s := (s.takeReply.invalidateClean s.strand.die).installLine s.strand.die (lineOf key) r.data
      k s r.data
    else .next (s.takeReply.trap 0x13 a)
  | none =>
    if s.cur.waitReq.isSome || s.backInFlight s.strand.die key then .next (s.wait .reply)
    else if isRemote key && s.remoteFails (remotePa key).1 then .next (s.trap 0x13 a)
    else if s.dueOn s.strand.die (lineOf key) then .next (s.waitDue key)
    else
      let s := s.flushLine s.strand.die key 0
      let (id, s) := s.askLine (.slice s.strand.key s.side) key s.strand.die 0 false
      .next (s.waitReply id)

/-- The end of a load: the detector, then xd (R219, R363). -/
def State.loaded (s : State) (rd : Reg) (sz : LdSize) (a : Word) (key : Nat) (bs : List Byte) : Out :=
  match s.detect s.strand.id key [0] with
  | .conflict => .next (s.determ a)
  | .ok s => .next (s.result rd (ldExtend sz (leNat bs)) 4)

/-- Where the slice in turn puts the data of a scalar load that waits. -/
def State.toReg (s : State) (rd : Reg) (sz : LdSize) : LoadTo := .reg s.side (s.side == Side.access && s.strand.trap.priv) rd sz

/-- What an acquire holds back while it waits (R207, R208). -/
def acquires (acq : Option Scope) : Acquires :=
  match acq with
  | none => .none
  | some .strand => .strand
  | some _ => .all

/-- May an access of a location of this package with this acquire wait, if the schedule says so? Not at SYSTEM scope, where an acquire
invalidates copies as it reads (R216), nor at STRAND scope while an access of the partner slice waits, for which the acquire would come too
late (R208). -/
def State.mayDelay (s : State) (acq : Option Scope) : Bool :=
  acq != some .system && !(acq == some .strand && s.strand.stores.any fun a => a.side != s.side)

/-- Whether it waits, by the schedule. -/
def State.delayOf (s : State) (acq : Option Scope) : Bool × State := if s.mayDelay acq then s.nextDelay else (false, s)

/-- A load of a location of this package: it reads at once, behind what comes before it, or it waits and its register is written when it is
performed (R61, R203, R207; log 11). -/
def State.loadHere (s : State) (rd : Reg) (sz : LdSize) (a : Word) (key : Nat) (acq : Option Scope) : Out :=
  let n := ldBytes sz
  match s.detect s.strand.id key [0] with
  | .conflict => .next (s.determ a)
  | .ok s =>
    let x := s.scalarAccess key n .r
    let (d, s) := s.delayOf acq
    if d then
      .next ((s.issue { x with acq := acquires acq, loads := [⟨key, n, s.toReg rd sz⟩] }).advance 4)
    else
      let (here, s) := s.readNow x
      let s := match acq with
        | some sc => s.acquireAt sc
        | none => s
      .next (s.result rd (ldExtend sz (here.mem.readNat key n)) 4)

/-- A scalar load, plain or with an acquire at a scope (R361 to R363). -/
def State.load (s : State) (rd : Reg) (sz : LdSize) (sp : Space) (a : Word) (acq : Option Scope) : Out :=
  let n := ldBytes sz
  if a.toNat % n ≠ 0 then .next (s.misalign a)
  else
    match s.locate sp .load a with
    | .error c => .next (s.trap c a)
    | .ok key =>
      let s := s.used sp a
      if !isFar key then s.loadHere rd sz a key acq
      else if isRemote key && s.remoteFails (remotePa key).1 then .next (s.trap 0x13 a)
      else
      let s := s.ownStores key n .r
      if acq = some .system && isFar key then
        s.freshLine a key fun s line => s.loaded rd sz a key ((line.drop (key % 64)).take n)
      else
        match s.bytesAt s.strand.die key n with
        | none => .next (s.needLine a key)
        | some bs =>
          let s := match acq with
            | some sc => s.acquireAt sc
            | none => s
          s.loaded rd sz a key bs

/-- LD (R361 to R363). -/
def execLd (a : LArgs) (s : State) : Out := s.load a.rd a.size a.space (s.x a.rs1 + sext a.imm) none

/-- LD.ACQ (R207, R361 to R363). -/
def execLdAcq (a : LAcqArgs) (s : State) : Out := s.load a.rd a.size a.space (s.x a.rs1) (some a.scope)

/-- Writing the bytes of a scalar store (R405): the detector may find a conflict. -/
def State.storeBytes (s : State) (a : Word) (key : Nat) (bs : List Byte) : State :=
  match s.detect s.strand.id key [1] with
  | .conflict => s.determ a
  | .ok s => (s.store .scalar (memSlices s.strand.die key bs.length) (atKeys key bs)).advance 4

/-- The checks of a store, before any byte is written (R404, R406): the trap, or the key. A store of fewer than 8 bytes
merges with its ECC word (log 15). -/
def State.storeCheck (s : State) (n : Nat) (sp : Space) (a : Word) : Except Nat Nat :=
  if a.toNat % n ≠ 0 then .error 0x04
  else
    match s.locate sp .store a with
    | .error c => .error c
    | .ok key =>
      if isRemote key && s.remoteFails (remotePa key).1 then .error 0x13
      else if n < 8 && s.isBad key then .error (memErr key)
      else .ok key

/-- A release store performs its own write behind everything before it, at once or when the schedule has it performed; at SYSTEM scope a far
line leaves with it, in the ORDERED class (R207, R215). -/
def State.releaseStore (s : State) (sc : Scope) (a : Word) (key : Nat) (bs : List Byte) : State :=
  match s.detect s.strand.id key [1] with
  | .conflict => s.determ a
  | .ok s =>
    let x := { s.scalarAccess key bs.length .w with rel := true, bytes := atKeys key bs }
    if sc = .system && isFar key then
      let s := (s.ahead x).performWrites s.strand.id x
      (match s.l2Line s.strand.die (lineOf key) with
        | some l => if l.dirty = 0 then s else s.writeBackLine .hub l 0
        | none => s).advance 4
    else (s.launchWrite x).advance 4

/-- The low `n` bytes of a register (R405). -/
def lowBytes (n : Nat) (v : Word) : List Byte := leBytes n v.toNat

/-- ST (R403 to R405). -/
def execSt (a : SArgs) (s : State) : Out :=
  let n := stBytes a.size
  let addr := s.x a.rs1 + sext a.imm
  match s.storeCheck n a.space addr with
  | .error c => .next (s.trap c addr)
  | .ok key => .next ((s.used a.space addr).storeBytes addr key (lowBytes n (s.x a.rs2)))

/-- ST.REL (R207, R209, R403 to R405). -/
def execStRel (a : SRelArgs) (s : State) : Out :=
  let n := stBytes a.size
  let addr := s.x a.rs1
  let v := s.x a.rs2
  match s.storeCheck n a.space addr with
  | .error c => .next (s.trap c addr)
  | .ok key =>
    (s.used a.space addr).releaseAt a.scope addr fun s =>
      .next (s.releaseStore a.scope addr key (lowBytes n v))

end Sys2Proof.Machine
end

