-- ==== Sys2Proof/Machine/Atomics.lean ====
section
/-! DEFINITION. The scalar atomics and CAS (R215, R223, R224, R329 to R334, R250). -/

namespace Sys2Proof.Machine

/-- The number of an operation in the OPX field of an ATOMIC flit (log 14). -/
def AtOp.code : AtOp → Nat
  | .add => 0 | .and => 1 | .or => 2 | .xor => 3 | .min => 4 | .max => 5 | .minn => 6 | .maxn => 7 | .swp => 8 | .cas => 9 | .fadd => 10

/-- The operation of such a number. -/
def AtOp.ofCode (n : Nat) : Option AtOp :=
  match n with
  | 0 => some .add | 1 => some .and | 2 => some .or | 3 => some .xor | 4 => some .min | 5 => some .max
  | 6 => some .minn | 7 => some .maxn | 8 => some .swp | 9 => some .cas | 10 => some .fadd | _ => none

/-- The scope of an order's acquire (R207). -/
def Order.acqScope : Order → Option Scope
  | .acq s | .ar s => some s
  | _ => none

/-- The scope of an order's release (R207). -/
def Order.relScope : Order → Option Scope
  | .rel s | .ar s => some s
  | _ => none

/-- xd of an atomic (R331): .W sign-extended, .S zero-extended, .D whole. -/
def atExtend (op : AtOp) (sz : AtSize) (old : Nat) : Word :=
  if sz = .w ∧ op ≠ .fadd then sext (BitVec.ofNat 32 old) else BitVec.ofNat 64 old

/-- The kinds of an atomic for the detector (R219). -/
def atKinds (op : AtOp) (rd : Reg) : List Nat :=
  match op with
  | .add | .and | .or | .xor | .min | .max => if rd = 0 then [2] else [0, 1]
  | _ => [0, 1]

/-- The checks of an atomic (R330), and behind them an uncorrectable error in its word (R333): the trap's code, or the key. -/
def State.atCheck (s : State) (op : AtOp) (n : Nat) (sp : Space) (a : Word) (det : Bool) : Except Nat Nat :=
  if a.toNat % n ≠ 0 then .error 0x04
  else
    match s.place sp .atomic a with
    | .error c => .error c
    | .ok key =>
      if isFar key && !isRemote key && !(op = .add || op = .swp || op = .cas) then .error 0x08
      else if !det && s.detDom key then .error 0x11
      else if s.isBad key then .error (memErr key)
      else .ok key

/-- The end of an atomic: its acquire, its flags, xd (R331, R333, R334). -/
def State.atDone (s : State) (op : AtOp) (a : AArgs) (old : Nat) (fl : Flags) : State :=
  let s := match Order.acqScope a.order with
    | some sc => s.acquireAt sc
    | none => s
  (s.flag fl).result a.rd (atExtend op a.size old) 4

/-- The address word in a DETDOM or DETERM trap's TADDR (R263). -/
def trapAddr (c : Nat) (a : Word) : Word := if c = 0x11 then a &&& ~~~(7 : Word) else a

/-- How xd of an atomic reads its old value (R331): .W sign-extended, .S zero-extended, .D whole. -/
def atLoad (op : AtOp) (sz : AtSize) : LdSize := if sz = .d then .d else if op = .fadd then .wn else .w

/-- The operation that an atomic of the slice in turn asks for, with the operands and the rounding mode of its issue (R329, R334): the value that
CAS expects is xd, 0 for x0. -/
def State.atomOf (s : State) (op : AtOp) (a : AArgs) (key : Nat) : PendAtom := ⟨op, a.size, s.frm, key, s.x a.rs2, s.x a.rd⟩

/-- The access of an atomic, with the order that it asks for (R207). -/
def State.atAccess (s : State) (a : AArgs) (key : Nat) : Access :=
  { s.scalarAccess key (atBytes a.size) .rw with rel := (Order.relScope a.order).isSome, acq := acquires (Order.acqScope a.order) }

/-- An atomic on a location of this package (R331, R332): it is performed at once behind what comes before it, or it waits and xd and its flags
are written when it is performed (R61, R203, R207, R334; log 11). -/
def State.atLocal (s : State) (a : AArgs) (addr : Word) (p : PendAtom) : State :=
  let n := atBytes a.size
  match s.detect s.strand.id p.key (atKinds p.op a.rd) with
  | .conflict => s.determ addr
  | .ok s =>
    let x := s.atAccess a p.key
    let (d, s) := s.delayOf (Order.acqScope a.order)
    if d then (s.issue { x with loads := [⟨p.key, n, s.toReg a.rd (atLoad p.op a.size)⟩], atom := some p }).advance 4
    else
      let s := s.ahead x
      (s.performAtom s.strand.die p).atDone p.op a (s.mem.readNat p.key n) (s.atomNow p).2

/-- Are 64 atomics to a package outstanding, the limit at which a source waits (R250; log 41)? -/
def State.atomicsFull (s : State) (x : Nat) : Bool :=
  decide (64 ≤ (s.reqs.filter fun r => r.remote && r.dst.toNat == x && !r.fill && r.mask == 0 && (match r.who with
    | .slice .. => true
    | _ => false)).length)

/-- The bytes of a line that an aligned access of `n` bytes at a key touches. -/
def laneBytes (key n : Nat) : BitVec 64 := BitVec.ofNat 64 ((2 ^ n - 1) * 2 ^ (key % 64))

/-- The request of an atomic on a far location: the copy is flushed and the request leaves (R215, R247, R330, R333). -/
def State.atSend (s : State) (p : PendAtom) : State :=
  let n := atBytes p.size
  let key := p.key
  let who := Requester.slice s.strand.key s.side
  let writes := [(lineOf key, laneBytes key n)]
  let s := s.flushLine s.strand.die key 0
  if isRemote key then
    let (x, pa) := remotePa key
    let (q, s) := s.sendFlit 0x04 0 x false fun f =>
      { f with addr := BitVec.ofNat 64 pa, opx := BitVec.ofNat 32 (p.op.code + 16 * p.size.code + 64 * (bits s.cur.fcsr.toNat 10 3)),
               len := BitVec.ofNat 16 (2 * n), payload := leBytes n p.value.toNat ++ leBytes n p.expect.toNat }
    let (id, s) := s.addReq who key false true s.strand.die x 0 q
    (s.writesHome writes).waitReply id
  else
    let (id, s) := s.addReq who key false false s.strand.die 0 0 0
    ((s.asksAtomic ⟨p.op.code, n, BitVec.ofNat 64 (p.value.toNat % 2 ^ (8 * n)), BitVec.ofNat 64 (p.expect.toNat % 2 ^ (8 * n))⟩).writesHome
      writes).waitReply id

/-- An atomic on a far location (R215, R250, R333): what comes before it is performed, buffered adds that are due have reached its line (R223),
the detector sees it (R219), any copy is flushed, the request leaves once, and the answer is the old value, behind which no older copy of the
line stays; a failure traps REMOTE with xd unchanged. -/
def State.atFar (s : State) (a : AArgs) (addr : Word) (p : PendAtom) : State :=
  match s.cur.reply with
  | some r =>
    if r.ok then
      let old := leNat (r.data.take (atBytes a.size))
      (s.takeReply.outdated s.strand.die r.addr).atDone p.op a old (p.op.new a.size p.rnd old p.value.toNat p.expect.toNat).2
    else s.takeReply.trap 0x13 addr
  | none =>
    if s.cur.waitReq.isSome then s.wait .reply
    else if isRemote p.key && s.remoteFails (remotePa p.key).1 then s.trap 0x13 addr
    else if s.backInFlight s.strand.die p.key || (isRemote p.key && s.atomicsFull (remotePa p.key).1) then s.wait .reply
    else if s.dueOn s.strand.die (lineOf p.key) then s.waitDue p.key
    else
      match s.detect s.strand.id p.key (atKinds p.op a.rd) with
      | .conflict => s.determ addr
      | .ok s => (s.ahead (s.atAccess a p.key)).atSend p

/-- An atomic that has passed its checks. -/
def State.atPerform (s : State) (a : AArgs) (addr : Word) (p : PendAtom) : State :=
  if isFar p.key then s.atFar a addr p else s.atLocal a addr p

/-- Has the instruction of the slice in turn sent a request of its own, and waits for the answer or has it? -/
def State.asked (s : State) : Bool :=
  match s.cur.reply with
  | some r => !r.ack
  | none => s.cur.waitReq.isSome && s.cur.stall == some .reply

/-- A scalar atomic (R329 to R333). One that has left for the host or a package has passed its checks: it only takes its answer. -/
def State.atomic (s : State) (op : AtOp) (a : AArgs) : Out :=
  let addr := s.x a.rs1
  if s.asked then .next (s.atFar a addr (s.atomOf op a 0))
  else
  match s.atCheck op (atBytes a.size) a.space addr false with
  | .error c => .next (s.trap c (trapAddr c addr))
  | .ok key =>
    let p := s.atomOf op a key
    let s := s.used a.space addr
    match Order.relScope a.order with
    | some sc => s.releaseAt sc addr fun s => .next (s.atPerform a addr p)
    | none => .next (s.atPerform a addr p)

/-- AMOADD (R329). -/
def execAmoadd (a : AArgs) (s : State) : Out := s.atomic .add a
/-- AMOAND (R329). -/
def execAmoand (a : AArgs) (s : State) : Out := s.atomic .and a
/-- AMOOR (R329). -/
def execAmoor (a : AArgs) (s : State) : Out := s.atomic .or a
/-- AMOXOR (R329). -/
def execAmoxor (a : AArgs) (s : State) : Out := s.atomic .xor a
/-- AMOMIN (R329). -/
def execAmomin (a : AArgs) (s : State) : Out := s.atomic .min a
/-- AMOMAX (R329). -/
def execAmomax (a : AArgs) (s : State) : Out := s.atomic .max a
/-- AMOSWP (R329). -/
def execAmoswp (a : AArgs) (s : State) : Out := s.atomic .swp a
/-- CAS (R329). -/
def execCas (a : AArgs) (s : State) : Out := s.atomic .cas a
/-- AMOFADD (R329, R334). -/
def execAmofadd (a : AArgs) (s : State) : Out := s.atomic .fadd a

/-- Buffering one AMOFADD.DET add (R223), behind what comes before it in its FIFO (R203); plain atomics of its word that wait are performed
first (R224). -/
def State.bufferAdd (s : State) (a : ADetArgs) (addr : Word) (key : Nat) : State :=
  let here := s.det.adds.filter fun d => s.addSlice d == memSlice s.strand.die key
  if 4096 ≤ here.length then s.wait .detSpace
  else
    match s.detect s.strand.id key [3] with
    | .conflict => s.determ addr
    | .ok s =>
      let s := (s.ownStores key (atBytes a.size) .rw).settleAtoms fun k => k / 8 == key / 8
      let i := s.strand.id
      let d : DetAdd := ⟨i.lid, i.squad, key, a.size, i.detid, s.stamp, s.x a.rs2⟩
      { s with det := { s.det with adds := s.det.adds ++ [d] }, stamp := s.stamp + 1 }.advance 4

/-- AMOFADD.DET (R223, R334): AMOFADD in a launch with DET = 0, otherwise buffered. -/
def execAmofaddDet (a : ADetArgs) (s : State) : Out :=
  let addr := s.x a.rs1
  let b : AArgs := ⟨.plain, a.space, a.size, 0, a.rs1, a.rs2⟩
  if s.asked then .next (s.atFar b addr (s.atomOf .fadd b 0))
  else
  match s.atCheck .fadd (atBytes a.size) a.space addr (s.isDet s.strand.id.lid) with
  | .error c => .next (s.trap c (trapAddr c addr))
  | .ok key =>
    let s := s.used a.space addr
    if s.isDet s.strand.id.lid then .next (s.bufferAdd a addr key) else .next (s.atPerform b addr (s.atomOf .fadd b key))

end Sys2Proof.Machine
end

