-- ==== Sys2Proof/Machine/Legendre.lean ====
section
/-! DEFINITION. Legendre polynomials, Gauss and Gauss–Lobatto–Legendre nodes and weights, and the operator tables of the
function instructions (R133, R137). A real number stands as an integer times 2^-640, more than ten times any format's
precision, so that one rounding of it is the rounding of the exact entry; an exact zero is told from the rest by R137's
tables having no entry below 2^-300 other than zero. -/

namespace Sys2Proof.Machine

/-- Fraction bits of the fixed-point reals. -/
def fxBits : Nat := 640
/-- One. -/
def fxOne : Int := 2 ^ fxBits
/-- The product, rounded to the grid toward zero, so that mirrored operands give mirrored products. -/
def fxMul (a b : Int) : Int := (a * b).tdiv fxOne
/-- The quotient, rounded to the grid toward zero. -/
def fxDiv (a b : Int) : Int := (a * fxOne).tdiv b

/-- A fixed-point real as a value. -/
def fxVal (x : Int) : Val :=
  if x.natAbs < 2 ^ (fxBits - 300) then .fin false 0 0 else .fin (x < 0) x.natAbs (-(fxBits : Int))

/-- The polynomials of degree `n` and `n - 1` at `x` in the family whose member of degree `n` is P_n (`m = 0`), P′_{n+1}
(`m = 1`) or a third of P″_{n+2} (`m = 2`), by (n + 1) C_{n+1} = (2n + 1 + 2m) x C_n − (n + 2m) C_{n−1}. -/
def famPair (m : Nat) (x : Int) : Nat → Int × Int
  | 0 => (fxOne, 0)
  | n + 1 =>
    let (c, d) := famPair m x n
    (((2 * n + 1 + 2 * m : Nat) * fxMul x c - (n + 2 * m : Nat) * d).tdiv (n + 1 : Nat), c)

/-- P_n(x). -/
def legP (n : Nat) (x : Int) : Int := (famPair 0 x n).1
/-- P′_n(x). -/
def legD (n : Nat) (x : Int) : Int := if n = 0 then 0 else (famPair 1 x (n - 1)).1

/-- The zeros of the member of degree `n` above `x`: the sign changes of the members up to `n` (Sturm). -/
def zerosAbove (m : Nat) (x : Int) : Nat → Nat
  | 0 => 0
  | n + 1 =>
    let (c, d) := famPair m x (n + 1)
    zerosAbove m x n + (if (c < 0) = (d < 0) then 0 else 1)

/-- Halving an interval `[lo, lo + 2^(k+b)]`, b times, around the zero that has `above` zeros above it. -/
def bisect (m n above : Nat) : Nat → Int → Int → Int
  | 0, lo, _ => lo
  | b + 1, lo, width =>
    let mid := lo + width / 2
    if above < zerosAbove m mid n then bisect m n above b mid (width / 2) else bisect m n above b lo (width / 2)

/-- Newton steps on the member of degree `n`, whose derivative is 2m + 1 times the next family's member of degree n - 1. -/
def newton (m n : Nat) : Nat → Int → Int
  | 0, x => x
  | b + 1, x => newton m n b (x - fxDiv (famPair m x n).1 ((2 * m + 1 : Nat) * (famPair (m + 1) x (n - 1)).1))

/-- The zero number `i`, in ascending order, of the member of degree `n`; zeros mirror at 0. -/
def famZero (m n i : Nat) : Int :=
  if 2 * i + 1 = n then 0
  else
    let j := max i (n - 1 - i)
    let x := newton m n 9 (bisect m n (n - 1 - j) 20 0 fxOne)
    if 2 * i + 1 < n then -x else x

/-- The Gauss nodes of count `n` (R133). -/
def gaussNodes (n : Nat) : Array Int := ((List.range n).map fun i => famZero 0 n i).toArray

/-- The Gauss–Lobatto–Legendre nodes of degree `p` (R133). -/
def gllNodes (p : Nat) : Array Int :=
  if p = 0 then #[Config.gllNode0]
  else (-fxOne :: (List.range (p - 1)).map (fun i => famZero 1 (p - 1) i) ++ [fxOne]).toArray

/-- The Gauss weight of a node: 2 / ((1 − x²) P′_n(x)²). -/
def gaussWeight (n : Nat) (x : Int) : Int :=
  let d := legD n x
  fxDiv (2 * fxOne) (fxMul (fxOne - fxMul x x) (fxMul d d))

/-- The quadrature weight of a Gauss–Lobatto–Legendre node: 2 / (p (p + 1) P_p(x)²); 2 at degree 0. -/
def gllWeight (p : Nat) (x : Int) : Int :=
  if p = 0 then 2 * fxOne
  else let v := legP p x; fxDiv (2 * fxOne) ((p * (p + 1) : Nat) * fxMul v v)

/-- ℓ_j at `x` over the given nodes (R133). -/
def lagrange (nodes : Array Int) (j : Nat) (x : Int) : Int :=
  let xj := nodes.getD j 0
  let others := (List.range nodes.size).filter (· ≠ j)
  let num := others.foldl (fun a m => fxMul a (x - nodes.getD m 0)) fxOne
  let den := others.foldl (fun a m => fxMul a (xj - nodes.getD m 0)) fxOne
  fxDiv num den

/-! Operator tables (R137): `rows` and `cols`, each entry rounded once to the format by RNE. -/

/-- An operator table: the decoded entries, row by row. -/
structure OpTable where
  rows : Nat
  cols : Nat
  vals : Array Val

/-- Entry (i, j). -/
def OpTable.at (t : OpTable) (i j : Nat) : Val := t.vals.getD (i * t.cols + j) (.fin false 0 0)

/-- An entry rounded to the format. -/
def fxRound (f : Fmt) (x : Int) : Val := f.decode (f.deliver .rne false (fxVal x)).1

/-- The table of a function of row and column. -/
def opTable (f : Fmt) (rows cols : Nat) (entry : Nat → Nat → Int) : OpTable :=
  ⟨rows, cols, ((List.range rows).flatMap fun i => (List.range cols).map fun j => fxRound f (entry i j)).toArray⟩

/-- V_n with `cols` columns: P_k(g_i^n). -/
def tableV (f : Fmt) (n cols : Nat) : OpTable :=
  let g := gaussNodes n
  opTable f n cols fun i k => legP k (g.getD i 0)

/-- B_{n,m}: (2j + 1)/2 × ω_i × P_j(g_i). -/
def tableB (f : Fmt) (n m : Nat) : OpTable :=
  let g := gaussNodes n
  let w := g.map (gaussWeight n)
  opTable f m n fun j i => ((2 * j + 1 : Nat) * fxMul (w.getD i 0) (legP j (g.getD i 0))).tdiv 2

/-- I_{p,q}: ℓ_j^p(x_i^q). -/
def tableI (f : Fmt) (p q : Nat) : OpTable :=
  let xp := gllNodes p
  let xq := gllNodes q
  opTable f (q + 1) (p + 1) fun i j => lagrange xp j (xq.getD i 0)

/-- The coefficient of P_k in ℓ_i^p, from the nodes of degree `p`. -/
def modal (p : Nat) (x : Array Int) (k i : Nat) : Int :=
  if p = 0 then fxOne
  else
    let v := fxMul (gllWeight p (x.getD i 0)) (legP k (x.getD i 0))
    ((if k < p then 2 * k + 1 else p : Nat) * v).tdiv 2

/-- M_p, its first `rows` rows. -/
def tableM (f : Fmt) (p rows : Nat) : OpTable :=
  let x := gllNodes p
  opTable f rows (p + 1) fun k i => modal p x k i

/-- Π_{q,c}: the value at x_i^c of the L2 projection onto degree c of ℓ_j^q. -/
def tablePi (f : Fmt) (q c : Nat) : OpTable :=
  let xq := gllNodes q
  let xc := gllNodes c
  opTable f (c + 1) (q + 1) fun i j =>
    (List.range (c + 1)).foldl (fun a k => a + fxMul (legP k (xc.getD i 0)) (modal q xq k j)) 0

/-- G_{p,q}: P_k(x_i^q). -/
def tableG (f : Fmt) (p q : Nat) : OpTable :=
  let x := gllNodes q
  opTable f (q + 1) (p + 1) fun i k => legP k (x.getD i 0)

/-- Dl, its rows 0 to `rows` - 1, for degree `p`. -/
def tableDl (f : Fmt) (p rows : Nat) : OpTable :=
  opTable f rows (p + 1) fun j k => if j < k && (k - j) % 2 = 1 then (2 * j + 1 : Nat) * fxOne else 0

/-- Dg_p: ℓ′_j^p(x_i^p). -/
def tableDg (f : Fmt) (p : Nat) : OpTable :=
  let x := gllNodes p
  opTable f (p + 1) (p + 1) fun i j =>
    if i = j then
      (if p = 0 then 0 else if i = 0 then (-(p * (p + 1) : Nat) * fxOne).tdiv 4
       else if i = p then ((p * (p + 1) : Nat) * fxOne).tdiv 4 else 0)
    else
      fxDiv (legP p (x.getD i 0)) (fxMul (legP p (x.getD j 0)) (x.getD i 0 - x.getD j 0))

/-- The identity table of R149, its first `rows` rows. -/
def tableId (f : Fmt) (p rows : Nat) : OpTable := opTable f rows (p + 1) fun i j => if i = j then fxOne else 0

/-- The row of R151: (±1)^i. -/
def tableTrace (f : Fmt) (p : Nat) (plus : Bool) : OpTable :=
  opTable f 1 (p + 1) fun _ i => if plus || i % 2 = 0 then fxOne else -fxOne

/-- W_p for a dimension: the products of the quadrature weights, in the index order of R132. -/
def tableW (f : Fmt) (p dim : Nat) : Array Val :=
  let w := (gllNodes p).map (gllWeight p)
  let prod := fun idx => (List.range dim).foldl (fun a d => fxMul a (w.getD (idx / (p + 1) ^ d % (p + 1)) 0)) fxOne
  ((List.range ((p + 1) ^ dim)).map fun idx => fxRound f (prod idx)).toArray

/-! Basis values at a point (R154), from exact values. -/

/-- The family member of degree `n` at the exact point `x / 2^k`, times (2^(k+1))^n, with the one before it. -/
def famExact (m : Nat) (x : Int) (k : Nat) : Nat → Int × Int
  | 0 => (1, 0)
  | n + 1 =>
    let (c, d) := famExact m x k n
    (((2 * n + 1 + 2 * m : Nat) * (2 * x * c) - (n + 2 * m : Nat) * (4 ^ (k + 1) * d)) / (n + 1 : Nat), c)

/-- A finite value as an integer over 2^k. -/
def dyadic (neg : Bool) (m : Nat) (e : Int) : Int × Nat :=
  let n : Int := if neg then -(m : Int) else m
  if 0 ≤ e then (n * 2 ^ e.toNat, 0) else (n, (-e).toNat)

/-- The exact value `x * 2^e`. -/
def intVal (x : Int) (e : Int) : Val := .fin (x < 0) x.natAbs e

/-- P_j at a finite point, exactly. -/
def legExact (j : Nat) (x : Int) (k : Nat) : Val := intVal (famExact 0 x k j).1 (-(j * (k + 1) : Nat))

/-- P′_p at a finite point, exactly, as an integer over a power of two (p ≥ 1). -/
def legDExact (p : Nat) (x : Int) (k : Nat) : Int × Nat := ((famExact 1 x k (p - 1)).1, (p - 1) * (k + 1))

/-- The product of the differences between a point and the nodes other than `j`, exactly in the nodes' fixed point, with its
exponent negated. -/
def nodeProduct (nodes : Array Int) (j : Nat) (x : Int) (k : Nat) : Int × Nat :=
  let others := (List.range nodes.size).filter (· ≠ j)
  (others.foldl (fun a m => a * (x * 2 ^ fxBits - nodes.getD m 0 * 2 ^ k)) 1, others.length * (k + fxBits))

/-- A quotient of two integers times 2^e, exact until its one rounding; an exact zero is +0. -/
def ratio (a b : Int) (e : Int) : Val := if a = 0 then .fin false 0 0 else (Val.divExact (intVal a e) (intVal b 0)).1

/-- ℓ_j^p at a finite point `x / 2^k` (R154): exact for the end nodes and a middle node, whose values are rational; for the other
nodes from the nodes' fixed point, which at the point 0 is first rounded to 400 bits, since values there can be rational too. -/
def gllBasis (p : Nat) (nodes : Array Int) (j : Nat) (x : Int) (k : Nat) : Val :=
  let (d, dk) := legDExact p x k
  let pp : Nat := p * (p + 1)
  if p = 0 then .fin false 1 0
  else if j = p then ratio ((2 ^ k + x) * d) pp (-(k + dk : Nat))
  else if j = 0 then ratio ((if p % 2 = 1 then 1 else -1) * (2 ^ k - x) * d) pp (-(k + dk : Nat))
  else if 2 * j = p then
    if x = 0 then .fin false 1 0
    else ratio ((x * x - 4 ^ k) * d) (pp * x * (famExact 0 0 0 p).1) ((p : Int) - k - dk)
  else
    let (a, ak) := nodeProduct nodes j x k
    let (b, bk) := nodeProduct nodes j (nodes.getD j 0) fxBits
    if x = 0 then
      let q := a * 2 ^ (bk + 500) / (b * 2 ^ ak)
      if q = 0 then .fin false 0 0
      else let (m, e, _) := roundUnbounded 400 .rne false q.natAbs (-500); .fin (q < 0) m e
    else ratio a b ((bk : Int) - ak)

end Sys2Proof.Machine
end

