-- ==== Sys2Proof/Machine/Vec.lean ====
section
/-! DEFINITION. What the vector instructions of the compute slice share (R79 to R98, R114, R118, R269, R415 to R417): elements
and masks, format words and the dispatch checks, the vector instruction queue, and the elementwise loop. -/

namespace Sys2Proof.Machine

/-! Elements (R80). -/

/-- Bit position of element `i` of width `w` at `L` lanes. -/
def elemPos (L w i : Nat) : Nat := 512 * (i % L) + i / L * w

/-- Element `i` of a register. -/
def elemAt (L w : Nat) (x : VWord) (i : Nat) : Nat := bits x.toNat (elemPos L w i) w

/-- A register with element `i` replaced. -/
def setElem (L w : Nat) (x : VWord) (i v : Nat) : VWord := putBits x (elemPos L w i) w v

/-- A register number, from a number that is below 32 wherever the checks have passed. -/
def vnum (n : Nat) : Fin 32 := Fin.ofNat 32 n

/-- The VVALID tag that covers element `i` (R269): 1 in element group 0, 2 beyond. -/
def groupTag (L w i : Nat) : BitVec 2 := if (i / L + 1) * w ≤ 256 then 1 else 2

/-- Writing element `i` of a vector register, with its tag and dirty bit (R269). -/
def VecState.put (v : VecState) (L : Nat) (r : Fin 32) (w i x : Nat) : VecState :=
  let t := v.vvalid.get r
  let g := groupTag L w i
  { v with
    v := v.v.set r.val (setElem L w (v.v.get r) i x) r.isLt
    vvalid := v.vvalid.set r.val (if t < g then g else t) r.isLt
    vdirty := v.vdirty ||| BitVec.ofNat 48 (2 ^ r.val) }

/-- Writing a mask register, with its tag and dirty bit (R269). -/
def VecState.putMask (v : VecState) (m : MReg) (x : Nat) : VecState :=
  { v with
    m := v.m.set m.val (BitVec.ofNat 4096 x) m.isLt
    mvalid := putBits v.mvalid m.val 1 (if x % 2 ^ 4096 = 0 then 0 else 1)
    vdirty := v.vdirty ||| BitVec.ofNat 48 (2 ^ (32 + m.val)) }

/-- L of the strand in focus. -/
def State.lanes (s : State) : Nat := s.strand.id.lanes

/-- Element `i` of a vector register of the strand in focus. -/
def State.vget (s : State) (r : Fin 32) (w i : Nat) : Nat := elemAt s.lanes w (s.strand.vec.v.get r) i

/-- The bits of a mask register of the strand in focus. -/
def State.mget (s : State) (m : MReg) : Nat := (s.strand.vec.m.get m).toNat

/-- VTYPE.WIDTH of the compute slice, in bits. -/
def State.vw (s : State) : Nat := widthBits s.strand.cmp.width.toNat

/-- VLMAX of a width (R80). -/
def State.vlmax (s : State) (w : Nat) : Nat := s.lanes * 512 / w

/-- Elements VSTART to VLC - 1. -/
def State.inRange (s : State) : List Nat :=
  (List.range s.strand.cmp.vl.toNat).drop s.strand.cmp.vstart.toNat

/-- The mask register of a governing mask field. -/
def govReg (g : Gov) : MReg :=
  match g with
  | .none => 0
  | .m1 => 1
  | .m2 => 2
  | .m3 => 3

/-- Is element `i` governed to be active (R84)? -/
def State.governs (s : State) (g : Gov) (i : Nat) : Bool := g == .none || (s.mget (govReg g)).testBit i

/-- The active elements in ascending order (R84). -/
def State.active (s : State) (g : Gov) : List Nat := s.inRange.filter (s.governs g)

/-- Completion of a vector instruction: VSTART := 0 (R83). -/
def State.vdone (s : State) : State := s.mapCmp fun c => { c with vstart := 0 }

/-- An entry joins the vector instruction queue (R98). One that accesses memory takes a number among the accesses of the strand, so that
what is pushed after it stands behind it (R61). -/
def State.enqueueEntry (s : State) (e : ViqEntry) : State :=
  let s := if isQueuedMemory e.ins then { s with strand := { s.strand with issued := s.strand.issued + 1 } } else s
  s.mapQ fun q => { q with viq := q.viq ++ [e] }

/-- A vector, function or matrix instruction has executed: VBCONF may have counted (R97). -/
def State.ranVector (s : State) : State := s.mapSys fun r => { r with vbrun := true }

/-- How the execution of a vector instruction ends. -/
inductive VOut
  | done (s : State)
  | trap (s : State) (t : Trap)
  deriving DecidableEq, Repr

/-- The end of an instruction that executes as it is dispatched. -/
def VOut.finish (o : VOut) (n : Nat) : State :=
  match o with
  | .done s => s.ranVector.advance n
  | .trap s t => s.ranVector.raise t

/-- How the head of the vector instruction queue goes on: it waits, or it ends. -/
inductive HeadStep
  | blocked (s : State)
  | out (o : VOut)
  deriving DecidableEq, Repr

/-- Blocked while a condition does not hold. -/
def headWhen (b : Bool) (s : State) (run : State → VOut) : HeadStep := if b then .out (run s) else .blocked s

/-- The end, at dispatch into an empty queue, of an instruction that may have to wait: it then stays in the queue as its head (R98). -/
def HeadStep.finish (h : HeadStep) (e : ViqEntry) (n : Nat) : State :=
  match h with
  | .out o => o.finish n
  | .blocked t => (t.enqueueEntry e).advance n

/-! Operands and their checks (R91, R92, R94, R114). -/

/-- Step 1 of R94 on a format word. -/
def fmtParse (w : Word) : Option FmtWord :=
  let n := w.toNat
  match Fmt.ofCode (bits n 0 5), Fmt.ofCode (bits n 5 5), Fmt.ofCode (bits n 10 5), Rnd.ofCode (bits n 15 3) with
  | some a, some b, some d, some r => if 2 ^ 20 ≤ n then none else some ⟨a, b, d, r, bits n 18 1 == 1, bits n 19 1 == 1⟩
  | _, _, _, _ => none

/-- The format register that a `fmt` field names (R91). -/
def State.fmtReg (s : State) (fmt : Fin 8) : Word := s.x (Fin.ofNat 32 (24 + fmt.val))

/-- The scalar that a VS form reads at dispatch (R92). -/
def State.vsScalar (s : State) (b : Src2) : Word :=
  match b with
  | .vs x => s.x x
  | _ => 0

/-- Is the form VI? -/
def src2Imm : Src2 → Bool
  | .vi _ => true
  | _ => false

/-- Is the form VV? -/
def src2Vec : Src2 → Bool
  | .vv _ => true
  | _ => false

/-- The vector register of a VV form. -/
def src2Vecs : Src2 → List (Fin 32)
  | .vv v => [v]
  | _ => []

/-- Step 2 of R94: SCALED needs the form VV and no scaled source v31. -/
def scaledOk (f : FmtWord) (b : Src2) (srcs : List (Fin 32)) : Bool :=
  !f.scaled || (src2Vec b && srcs.all fun r => r ≠ 31)

/-- R92: VI needs an integer SRC2. -/
def immOk (f : FmtWord) (b : Src2) : Bool := !src2Imm b || f.src2.isInt

/-- Bits of element `i` of a second source, at width `w` (R92). An immediate of VI outside the range of an I4 element wraps modulo 2^w like
that of an N format, for which alone R92 says so (log 60). -/
def State.src2Bits (s : State) (b : Src2) (sc : Word) (w i : Nat) : Nat :=
  match b with
  | .vv v => s.vget v w i
  | .vs _ => sc.toNat % 2 ^ w
  | .vi n => (sext n).toNat % 2 ^ w

/-- A scale applied to an element (R114): 2^(X - 127), or NaN for 0xFF. -/
def applyScale (v : Val) (x : Nat) : Val := if x = 255 then .nan false else v.scale ((x : Int) - 127)

/-- Element `i` of a vector source in a format, scaled when SCALED is 1 and the format is an MX element format (R114). -/
def State.srcVal (s : State) (r : Fin 32) (f : Fmt) (scaled : Bool) (i : Nat) : Val :=
  let v := f.decode (s.vget r f.width i)
  if scaled && f.isMx then applyScale v (s.vget (vnum (r.val + 1)) 8 (i / 32)) else v

/-- Element `i` of a second source in SRC2 format (R92, R114). -/
def State.src2Val (s : State) (b : Src2) (sc : Word) (f : FmtWord) (i : Nat) : Val :=
  match b with
  | .vv v => s.srcVal v f.src2 f.scaled i
  | b => f.src2.decode (s.src2Bits b sc f.src2.width i)

/-! Dispatch (R94, R98). -/

/-- Vector registers that an instruction may write: its vd and the register after it, or the group of VWMA (R95). -/
def writesVec (i : Instr) : List (Fin 32) :=
  let pair := fun v : VReg => [v, vnum (v.val + 1)]
  match i with
  | .vadd a | .vsub a | .vmul a | .vmulh a | .vdiv a | .vrem a | .vmin a | .vmax a | .vand a | .vor a | .vxor a | .vsll a
  | .vsrl a | .vsra a | .vfadd a | .vfsub a | .vfmul a | .vfdiv a | .vfma a | .vfms a | .vfnma a | .vfmin a | .vfmax a
  | .vmerge a | .vslideup a | .vslidedn a | .vperm a | .vredsum a | .vredmin a | .vredmax a | .vscan a
  | .vfredsum a | .vfredmin a | .vfredmax a | .vfscan a => pair a.vd
  | .vwma a => (List.range 8).map fun k => vnum (a.vd.val + k)
  | .vmv a => pair a.vd
  | .viota a => pair a.vd
  | .vfsqrt a | .vfcvt a | .vcompress a | .vexpand a => pair a.vd
  | .vbmand a | .visect a => pair a.vd
  | .vbprefix a => pair a.vd
  | .vpruneN1M4 a | .vpruneN2M4 a | .vpruneN1M8 a | .vpruneN2M8 a | .vpruneN4M8 a => pair a.vd
  | .pint a | .peval a => pair a.vd
  | .vpop v => pair v
  | _ => []

/-- Is an older instruction in the vector instruction queue yet to write one of these vector registers, or the mask that governs? -/
def State.sourcesPending (s : State) (vs : List (Fin 32)) (g : Gov) : Bool :=
  s.strand.q.viq.any fun e => (writesVec e.ins).any vs.contains || (g != .none && writesMask (govReg g) e.ins)

/-- A vector instruction, past its checks: with an empty vector instruction queue it executes at once; otherwise it joins the
queue, or holds dispatch when it can raise a flag that traps (R98, R118). -/
def State.vissue (s : State) (i : Instr) (sc fw : Word) (flags : Bool) (n : Nat) (run : State → VOut) : Out :=
  if s.strand.q.viq.isEmpty then .next ((run s).finish n)
  else if flags && fcsrEn s.strand.cmp.fcsr ≠ 0 then .next (s.wait .viqBusy)
  else if 32 ≤ s.strand.q.viq.length then .next (s.wait .viqFull)
  else .next ((s.enqueueEntry (s.entry i sc fw none)).advance n)

/-- The dispatch of a V-layout instruction with a format word (R94): steps 1 to 3 (`ok`), the VTYPE, and step 5 (`widths`, which
gets VTYPE.WIDTH in bits). -/
def State.vdispatch (s : State) (i : Instr) (fw sc : Word) (ok : FmtWord → Bool) (widths : FmtWord → Nat → Bool) (flags : Bool)
    (run : FmtWord → Word → State → VOut) : Out :=
  s.onCompute i fun s =>
    match fmtParse fw with
    | none => .next (s.illegal i)
    | some f =>
      if !ok f then .next (s.illegal i)
      else s.vready fun s =>
        if !widths f s.vw then .next s.vtype else s.vissue i sc fw flags 4 (run f sc)

/-- A queued instruction with its format word, which passed its checks at dispatch. -/
def withFmt (e : ViqEntry) (run : FmtWord → Word → State → VOut) (s : State) : VOut :=
  match fmtParse e.fmtWord with
  | some f => run f e.scalar s
  | none => .done s

/-! The elementwise loop (R417). -/

/-- Elements in order until one raises an enabled flag: what was written, the flags of the elements done, and the element that
stopped with its flags. -/
def elemLoop {α : Type} (en : BitVec 5) (op : Nat → Nat × Flags) (put : α → Nat → Nat → α) :
    List Nat → α → Flags → α × Flags × Option (Nat × Flags)
  | [], x, fl => (x, fl, none)
  | i :: is, x, fl =>
    let (y, g) := op i
    if (en &&& g.toBits) ≠ 0 then (x, fl, some (i, g)) else elemLoop en op put is (put x i y) (fl.or g)

/-- The end of a loop: flags into FCSR, VSTART := 0, or FPX with VSTART at the element (R118, R417). -/
def State.endLoop (s : State) (fl : Flags) (stop : Option (Nat × Flags)) : VOut :=
  let s := s.flagCompute fl
  match stop with
  | none => .done s.vdone
  | some (i, g) =>
    .trap (s.mapCmp fun c => { c with vstart := BitVec.ofNat 24 i }) ⟨0x15, BitVec.setWidth 64 g.toBits⟩

/-- Writing the elements `idx` of a vector register of element width `w` (R417): every source is read before any write. -/
def State.elementList (s : State) (idx : List Nat) (vd : Fin 32) (w : Nat) (op : Nat → Nat × Flags) : VOut :=
  let r := elemLoop (fcsrEn s.strand.cmp.fcsr) op (fun v i x => VecState.put v s.lanes vd w i x) idx s.strand.vec .none
  (s.mapVec fun _ => r.1).endLoop r.2.1 r.2.2

/-- An elementwise instruction into a vector register (R417). -/
def State.elementwise (s : State) (g : Gov) (vd : Fin 32) (w : Nat) (op : Nat → Nat × Flags) : VOut :=
  s.elementList (s.active g) vd w op

/-- An elementwise instruction that raises no flag. -/
def State.elementwiseBits (s : State) (g : Gov) (vd : Fin 32) (w : Nat) (op : Nat → Nat) : VOut :=
  s.elementwise g vd w fun i => (op i, .none)

/-- Writing some bits of a mask register (R84): bits of `idx` get `val`, other bits below VLC stay, bits from VLC upward are 0. -/
def State.writeMask (s : State) (md : MReg) (idx : List Nat) (val : Nat → Bool) : State :=
  let old := s.mget md % 2 ^ s.strand.cmp.vl.toNat
  let set := idx.foldl (fun m i => if val i then m ||| 2 ^ i else m &&& (2 ^ 4096 - 1 - 2 ^ i)) old
  s.mapVec fun v => v.putMask md set

end Sys2Proof.Machine
end

