-- ==== Sys2Proof/Machine/VecInt.lean ====
section
/-! DEFINITION. The elementwise integer vector instructions (R419). -/

namespace Sys2Proof.Machine

/-- Checks of R419: INT formats of width VTYPE.WIDTH, no scaling. -/
def intOk (a : VArgs) (f : FmtWord) : Bool :=
  scaledOk f a.src2 (a.vs1 :: src2Vecs a.src2) && !f.scaled && f.src1.isInt && f.src2.isInt && f.dst.isInt

/-- Step 5 of R94 for two sources and a destination. -/
def widths3 (f : FmtWord) (w : Nat) : Bool := f.src1.width == w && f.src2.width == w && f.dst.width == w

/-- An elementwise instruction on the bits of its elements. -/
def runIntBits (a : VArgs) (op : Nat → Nat → Nat → FmtWord → Nat) (f : FmtWord) (sc : Word) (s : State) : VOut :=
  let w := s.vw
  s.elementwiseBits a.gov a.vd w fun i => op w (s.vget a.vs1 w i) (s.src2Bits a.src2 sc w i) f % 2 ^ w

/-- A value delivered into DST (R113). -/
def byValue (op : Int → Int → Int) (_ a b : Nat) (f : FmtWord) : Nat :=
  f.dst.deliverInt f.sat (op (f.src1.decodeInt a) (f.src2.decodeInt b))

/-- The dispatch of R419. -/
def State.vint (s : State) (i : Instr) (a : VArgs) (run : FmtWord → Word → State → VOut) : Out :=
  s.vdispatch i (s.fmtReg a.fmt) (s.vsScalar a.src2) (intOk a) widths3 false run

/-- VADD: a + b. -/
def runVadd (a : VArgs) : FmtWord → Word → State → VOut := runIntBits a (byValue fun x y => x + y)
/-- VADD (R419). -/
def execVadd (a : VArgs) (s : State) : Out := s.vint (.vadd a) a (runVadd a)

/-- VSUB: a - b. -/
def runVsub (a : VArgs) : FmtWord → Word → State → VOut := runIntBits a (byValue fun x y => x - y)
/-- VSUB (R419). -/
def execVsub (a : VArgs) (s : State) : Out := s.vint (.vsub a) a (runVsub a)

/-- VMUL: a × b. -/
def runVmul (a : VArgs) : FmtWord → Word → State → VOut := runIntBits a (byValue fun x y => x * y)
/-- VMUL (R419). -/
def execVmul (a : VArgs) (s : State) : Out := s.vint (.vmul a) a (runVmul a)

/-- VMULH: bits [2w-1:w] of a × b. -/
def runVmulh (a : VArgs) : FmtWord → Word → State → VOut := runIntBits a (fun w x y f =>
  (f.src1.decodeInt x * f.src2.decodeInt y % 2 ^ (2 * w)).toNat / 2 ^ w)
/-- VMULH (R419). -/
def execVmulh (a : VArgs) (s : State) : Out := s.vint (.vmulh a) a (runVmulh a)

/-- VDIV: a / b truncated towards zero; all ones for a divisor of 0. -/
def runVdiv (a : VArgs) : FmtWord → Word → State → VOut := runIntBits a (fun w x y f =>
  if f.src2.decodeInt y = 0 then 2 ^ w - 1 else byValue Int.tdiv w x y f)
/-- VDIV (R419). -/
def execVdiv (a : VArgs) (s : State) : Out := s.vint (.vdiv a) a (runVdiv a)

/-- VREM: a - b × (a / b truncated); the low bits of a for a divisor of 0. -/
def runVrem (a : VArgs) : FmtWord → Word → State → VOut := runIntBits a (fun w x y f =>
  if f.src2.decodeInt y = 0 then x else byValue Int.tmod w x y f)
/-- VREM (R419). -/
def execVrem (a : VArgs) (s : State) : Out := s.vint (.vrem a) a (runVrem a)

/-- VMIN: the smaller. -/
def runVmin (a : VArgs) : FmtWord → Word → State → VOut := runIntBits a (byValue fun x y => min x y)
/-- VMIN (R419). -/
def execVmin (a : VArgs) (s : State) : Out := s.vint (.vmin a) a (runVmin a)

/-- VMAX: the larger. -/
def runVmax (a : VArgs) : FmtWord → Word → State → VOut := runIntBits a (byValue fun x y => max x y)
/-- VMAX (R419). -/
def execVmax (a : VArgs) (s : State) : Out := s.vint (.vmax a) a (runVmax a)

/-- VAND: bitwise AND. -/
def runVand (a : VArgs) : FmtWord → Word → State → VOut := runIntBits a (fun _ x y _ => x &&& y)
/-- VAND (R419). -/
def execVand (a : VArgs) (s : State) : Out := s.vint (.vand a) a (runVand a)

/-- VOR: bitwise OR. -/
def runVor (a : VArgs) : FmtWord → Word → State → VOut := runIntBits a (fun _ x y _ => x ||| y)
/-- VOR (R419). -/
def execVor (a : VArgs) (s : State) : Out := s.vint (.vor a) a (runVor a)

/-- VXOR: bitwise XOR. -/
def runVxor (a : VArgs) : FmtWord → Word → State → VOut := runIntBits a (fun _ x y _ => x ^^^ y)
/-- VXOR (R419). -/
def execVxor (a : VArgs) (s : State) : Out := s.vint (.vxor a) a (runVxor a)

/-- VSLL: shift left by b mod w. -/
def runVsll (a : VArgs) : FmtWord → Word → State → VOut := runIntBits a (fun w x y _ => x <<< (y % w))
/-- VSLL (R419). -/
def execVsll (a : VArgs) (s : State) : Out := s.vint (.vsll a) a (runVsll a)

/-- VSRL: shift right by b mod w, zeros entering. -/
def runVsrl (a : VArgs) : FmtWord → Word → State → VOut := runIntBits a (fun w x y _ => x >>> (y % w))
/-- VSRL (R419). -/
def execVsrl (a : VArgs) (s : State) : Out := s.vint (.vsrl a) a (runVsrl a)

/-- VSRA: shift right by b mod w, copies of the top bit entering. -/
def runVsra (a : VArgs) : FmtWord → Word → State → VOut := runIntBits a (fun w x y _ =>
  if x.testBit (w - 1) then (x + (2 ^ w - 1) * 2 ^ w) >>> (y % w) else x >>> (y % w))
/-- VSRA (R419). -/
def execVsra (a : VArgs) (s : State) : Out := s.vint (.vsra a) a (runVsra a)

end Sys2Proof.Machine
end

