-- ==== Sys2Proof/Machine/VecFp.lean ====
section
/-! DEFINITION. The floating-point vector instructions, VFCVT and VWMA (R95, R433 to R436, R448). -/

namespace Sys2Proof.Machine

/-- Checks of R433 for two sources: FLT formats, not VI, SCALED with MX sources only (R114). -/
def fltOk (a : VArgs) (f : FmtWord) : Bool :=
  scaledOk f a.src2 (a.vs1 :: src2Vecs a.src2) && !src2Imm a.src2 && f.src1.isFlt && f.src2.isFlt && f.dst.isFlt
    && (!f.scaled || (f.src1.isMx && f.src2.isMx))

/-- Delivery of an exact result with the flags of its operation (R417). -/
def deliverWith (f : FmtWord) (r : Val × Flags) : Nat × Flags :=
  let (y, g) := f.dst.deliver f.rnd f.sat r.1
  (y, r.2.or g)

/-- An elementwise floating-point instruction: a, b and d are the sources and the old destination element (R433). -/
def runFlt (a : VArgs) (op : Rnd → Val → Val → Val → Val × Flags) (f : FmtWord) (sc : Word) (s : State) : VOut :=
  let w := s.vw
  s.elementwise a.gov a.vd w fun i =>
    deliverWith f (op f.rnd (s.srcVal a.vs1 f.src1 f.scaled i) (s.src2Val a.src2 sc f i) (f.dst.decode (s.vget a.vd w i)))

/-- The dispatch of R433. -/
def State.vflt (s : State) (i : Instr) (a : VArgs) (run : FmtWord → Word → State → VOut) : Out :=
  s.vdispatch i (s.fmtReg a.fmt) (s.vsScalar a.src2) (fltOk a) widths3 true run

/-- VFADD: a + b. -/
def runVfadd (a : VArgs) : FmtWord → Word → State → VOut := runFlt a (fun r a b _ => a.addExact r b)
/-- VFADD (R433). -/
def execVfadd (a : VArgs) (s : State) : Out := s.vflt (.vfadd a) a (runVfadd a)

/-- VFSUB: a - b. -/
def runVfsub (a : VArgs) : FmtWord → Word → State → VOut := runFlt a (fun r a b _ => a.addExact r b.negate)
/-- VFSUB (R433). -/
def execVfsub (a : VArgs) (s : State) : Out := s.vflt (.vfsub a) a (runVfsub a)

/-- VFMUL: a × b. -/
def runVfmul (a : VArgs) : FmtWord → Word → State → VOut := runFlt a (fun _ a b _ => a.mulExact b)
/-- VFMUL (R433). -/
def execVfmul (a : VArgs) (s : State) : Out := s.vflt (.vfmul a) a (runVfmul a)

/-- VFDIV: a / b. -/
def runVfdiv (a : VArgs) : FmtWord → Word → State → VOut := runFlt a (fun _ a b _ => a.divExact b)
/-- VFDIV (R433). -/
def execVfdiv (a : VArgs) (s : State) : Out := s.vflt (.vfdiv a) a (runVfdiv a)

/-- VFMA: a × b + d. -/
def runVfma (a : VArgs) : FmtWord → Word → State → VOut := runFlt a (fun r a b d => Val.fmaExact r a b d)
/-- VFMA (R433). -/
def execVfma (a : VArgs) (s : State) : Out := s.vflt (.vfma a) a (runVfma a)

/-- VFMS: a × b - d. -/
def runVfms (a : VArgs) : FmtWord → Word → State → VOut := runFlt a (fun r a b d => Val.fmaExact r a b d.negate)
/-- VFMS (R433). -/
def execVfms (a : VArgs) (s : State) : Out := s.vflt (.vfms a) a (runVfms a)

/-- VFNMA: -(a × b) + d. -/
def runVfnma (a : VArgs) : FmtWord → Word → State → VOut := runFlt a (fun r a b d => Val.fmaExact r a.negate b d)
/-- VFNMA (R433). -/
def execVfnma (a : VArgs) (s : State) : Out := s.vflt (.vfnma a) a (runVfnma a)

/-- VFMIN: the smaller, under R354. -/
def runVfmin (a : VArgs) : FmtWord → Word → State → VOut := runFlt a (fun _ a b _ => Val.minMax false a b)
/-- VFMIN (R433). -/
def execVfmin (a : VArgs) (s : State) : Out := s.vflt (.vfmin a) a (runVfmin a)

/-- VFMAX: the larger, under R354. -/
def runVfmax (a : VArgs) : FmtWord → Word → State → VOut := runFlt a (fun _ a b _ => Val.minMax true a b)
/-- VFMAX (R433). -/
def execVfmax (a : VArgs) (s : State) : Out := s.vflt (.vfmax a) a (runVfmax a)

/-- VFSQRT: SRC2 takes part only in step 1 of R94 (R433). -/
def runVfsqrt (a : VUArgs) (f : FmtWord) (_ : Word) (s : State) : VOut :=
  s.elementwise a.gov a.vd s.vw fun i => deliverWith f (s.srcVal a.vs1 f.src1 f.scaled i).sqrtExact
/-- VFSQRT (R433). -/
def execVfsqrt (a : VUArgs) (s : State) : Out :=
  s.vdispatch (.vfsqrt a) (s.fmtReg a.fmt) 0
    (fun f => (!f.scaled || (a.vs1 ≠ 31 && f.src1.isMx)) && f.src1.isFlt && f.dst.isFlt)
    (fun f w => f.src1.width == w && f.dst.width == w) true (runVfsqrt a)

/-! VFCVT. -/

/-- Checks of R436 under SCALED = 1. -/
def cvtOk (a : VUArgs) (f : FmtWord) : Bool :=
  !f.scaled ||
    ((f.src1.isMx || f.dst.isMx) && a.vs1 ≠ 31 && a.vd ≠ 31 && a.vd ≠ a.vs1 && a.vd.val + 1 ≠ a.vs1.val
      && a.vs1.val + 1 ≠ a.vd.val)

/-- The quantised elements of a list of blocks: element, its block's scale, its encoding and flags (R115, R436). -/
def quantPlan (f : FmtWord) (val : Nat → Val) (idx : List Nat) : List (Nat × Nat × Nat × Flags) :=
  (List.range 128).flatMap fun j =>
    let mine := idx.filter fun i => i / 32 == j
    let (x, ys) := quantBlock f.dst f.rnd f.sat (mine.map val)
    (mine.zip ys).map fun (i, y, g) => (i, x, y, g)

/-- Writing quantised elements: a block's scale is written before its elements, also when FPX stops there (R436). -/
def quantLoop (en : BitVec 5) (L : Nat) (vd : Fin 32) (w : Nat) :
    List (Nat × Nat × Nat × Flags) → VecState → Flags → VecState × Flags × Option (Nat × Flags)
  | [], v, fl => (v, fl, none)
  | (i, x, y, g) :: rest, v, fl =>
    let v := v.put L (vnum (vd.val + 1)) 8 (i / 32) x
    if (en &&& g.toBits) ≠ 0 then (v, fl, some (i, g)) else quantLoop en L vd w rest (v.put L vd w i y) (fl.or g)

/-- VFCVT (R434 to R436). -/
def runVfcvt (a : VUArgs) (f : FmtWord) (_ : Word) (s : State) : VOut :=
  let val := fun i => s.srcVal a.vs1 f.src1 f.scaled i
  if f.scaled && f.dst.isMx then
    let r := quantLoop (fcsrEn s.strand.cmp.fcsr) s.lanes a.vd f.dst.width (quantPlan f val (s.active a.gov)) s.strand.vec .none
    (s.mapVec fun _ => r.1).endLoop r.2.1 r.2.2
  else s.elementwise a.gov a.vd f.dst.width fun i => convert f (val i)
/-- VFCVT (R434 to R436). -/
def execVfcvt (a : VUArgs) (s : State) : Out :=
  s.vdispatch (.vfcvt a) (s.fmtReg a.fmt) 0 (cvtOk a) (fun f w => max f.src1.width f.dst.width == w) true (runVfcvt a)

/-! VWMA. -/

/-- The narrow floating-point formats of VWMA (R448). -/
def wmaFlt : Fmt → Bool
  | .e4m3 | .e5m2 | .e2m3 | .e3m2 | .t8 | .t6 | .e2m1 => true
  | _ => false
/-- The narrow integer formats of VWMA (R448). -/
def wmaInt : Fmt → Bool
  | .i8 | .n8 | .i4 | .n4 => true
  | _ => false

/-- Registers of the destination group (R95). -/
def wmaGroup (w : Nat) : Nat := if w = 4 then 8 else 4

/-- Checks of R95 and R448. -/
def wmaOk (a : VArgs) (f : FmtWord) : Bool :=
  let n := wmaGroup f.src1.width
  let srcs := a.vs1.val :: (src2Vecs a.src2).map (·.val)
  let all := if f.scaled then srcs ++ srcs.map (· + 1) else srcs
  scaledOk f a.src2 (a.vs1 :: src2Vecs a.src2) && immOk f a.src2 && f.src1.width == f.src2.width
    && ((wmaFlt f.src1 && wmaFlt f.src2 && f.dst == .fp32) || (wmaInt f.src1 && wmaInt f.src2 && f.dst == .i32))
    && (!f.scaled || (f.src1.isMx && f.src2.isMx))
    && a.vd.val % n == 0 && all.all fun r => !(a.vd.val ≤ r && r < a.vd.val + n)

/-- Register and element that hold destination element `i` of a group (R95). -/
def groupElem (L : Nat) (vd : Fin 32) (i : Nat) : Fin 32 × Nat := (vnum (vd.val + i / L / 16), i / L % 16 * L + i % L)

/-- VWMA: d + a × b with one rounding (R123, R448). -/
def runVwma (a : VArgs) (f : FmtWord) (sc : Word) (s : State) : VOut :=
  let L := s.lanes
  let op := fun i =>
    let (r, k) := groupElem L a.vd i
    let d := s.vget r 32 k
    let x := s.srcVal a.vs1 f.src1 f.scaled i
    let y := s.src2Val a.src2 sc f i
    if f.dst == .i32 then
      let n := Fmt.i32.decodeInt d + f.src1.decodeInt (s.vget a.vs1 f.src1.width i)
        * f.src2.decodeInt (s.src2Bits a.src2 sc f.src2.width i)
      (Fmt.i32.deliverInt f.sat n, Flags.none)
    else deliverWith f (Val.fmaExact f.rnd x y (Fmt.fp32.decode d))
  let put := fun (v : VecState) i y => let (r, k) := groupElem L a.vd i; v.put L r 32 k y
  let r := elemLoop (fcsrEn s.strand.cmp.fcsr) op put (s.active a.gov) s.strand.vec .none
  (s.mapVec fun _ => r.1).endLoop r.2.1 r.2.2
/-- VWMA (R95, R448). -/
def execVwma (a : VArgs) (s : State) : Out :=
  s.vdispatch (.vwma a) (s.fmtReg a.fmt) (s.vsScalar a.src2) (wmaOk a) (fun f w => f.src1.width == w) true (runVwma a)

end Sys2Proof.Machine
end

