-- ==== Sys2Proof/Machine/VecMove.lean ====
section
/-! DEFINITION. Vector comparison, movement and mask instructions (R195, R429 to R432). -/

namespace Sys2Proof.Machine

/-! VCMP and VFCMP (R430). -/

/-- Checks of VCMP. -/
def cmpOk (a : VCmpArgs) (f : FmtWord) : Bool :=
  scaledOk f a.src2 (a.vs1 :: src2Vecs a.src2) && !f.scaled && f.src1.isInt && f.src2.isInt
    && f.src1.isSigned == f.src2.isSigned

/-- Checks of VFCMP. -/
def fcmpOk (a : VFCmpArgs) (f : FmtWord) : Bool :=
  scaledOk f a.src2 (a.vs1 :: src2Vecs a.src2) && !src2Imm a.src2 && f.src1.isFlt && f.src2.isFlt
    && (!f.scaled || (f.src1.isMx && f.src2.isMx))

/-- Step 5 of R94 for two sources. -/
def widths2 (f : FmtWord) (w : Nat) : Bool := f.src1.width == w && f.src2.width == w

/-- Setting or clearing bit `i`. -/
def putBit (m : Nat) (i y : Nat) : Nat := if y = 1 then m ||| 2 ^ i else m &&& (2 ^ 4096 - 1 - 2 ^ i)

/-- An elementwise instruction into a mask register (R430): bits from VLC upward become 0 when it completes. One that stops at its first
active element has written no bit (R293, R417). -/
def State.elementMask (s : State) (g : Gov) (md : MReg) (op : Nat → Nat × Flags) : VOut :=
  let r := elemLoop (fcsrEn s.strand.cmp.fcsr) op putBit (s.active g) (s.mget md) .none
  let m := if r.2.2.isNone then r.1 % 2 ^ s.strand.cmp.vl.toNat else r.1
  let none_ := match r.2.2 with | some (i, _) => (s.active g).head? == some i | none => false
  (if none_ then s else s.mapVec fun v => v.putMask md m).endLoop r.2.1 r.2.2

/-- A relation of VCMP. -/
def icond (c : ICond) (a b : Int) : Bool :=
  match c with
  | .eq => a == b
  | .ne => a != b
  | .lt => decide (a < b)
  | .le => decide (a ≤ b)

/-- VCMP (R430). -/
def runVcmp (a : VCmpArgs) (f : FmtWord) (sc : Word) (s : State) : VOut :=
  s.elementMask a.gov a.md fun i =>
    ((icond a.cond (f.src1.decodeInt (s.vget a.vs1 f.src1.width i))
        (f.src2.decodeInt (s.src2Bits a.src2 sc f.src2.width i))).toNat, .none)
/-- VCMP (R430). -/
def execVcmp (a : VCmpArgs) (s : State) : Out :=
  s.vdispatch (.vcmp a) (s.fmtReg a.fmt) (s.vsScalar a.src2) (cmpOk a) widths2 false (runVcmp a)

/-- VFCMP (R430). -/
def runVfcmp (a : VFCmpArgs) (f : FmtWord) (sc : Word) (s : State) : VOut :=
  s.elementMask a.gov a.md fun i =>
    let (b, g) := fCompare a.cond (s.srcVal a.vs1 f.src1 f.scaled i) (s.src2Val a.src2 sc f i)
    (b.toNat, g)
/-- VFCMP (R430). -/
def execVfcmp (a : VFCmpArgs) (s : State) : Out :=
  s.vdispatch (.vfcmp a) (s.fmtReg a.fmt) (s.vsScalar a.src2) (fcmpOk a) widths2 true (runVfcmp a)

/-! VMERGE and VMV (R431). -/

/-- VMERGE: the mask selects and does not govern. -/
def runVmerge (a : VArgs) (_ : FmtWord) (sc : Word) (s : State) : VOut :=
  let w := s.vw
  s.elementwiseBits .none a.vd w fun i =>
    if (s.mget (govReg a.gov)).testBit i then s.src2Bits a.src2 sc w i else s.vget a.vs1 w i
/-- VMERGE (R431). -/
def execVmerge (a : VArgs) (s : State) : Out :=
  s.vdispatch (.vmerge a) (s.fmtReg a.fmt) (s.vsScalar a.src2) (fun f => a.gov ≠ .none && !f.scaled && immOk f a.src2) widths3
    false (runVmerge a)

/-- VMV. -/
def runVmv (a : VMvArgs) (_ : FmtWord) (sc : Word) (s : State) : VOut :=
  s.elementwiseBits a.gov a.vd s.vw fun i => s.src2Bits a.src2 sc s.vw i
/-- VMV (R431). -/
def execVmv (a : VMvArgs) (s : State) : Out :=
  s.vdispatch (.vmv a) (s.fmtReg a.fmt) (s.vsScalar a.src2) (fun f => !f.scaled && immOk f a.src2) widths3 false (runVmv a)

/-! Slides, permutation, compress, expand (R432). -/

/-- Step 5 of R94 for SRC1 and DST. -/
def widths13 (f : FmtWord) (w : Nat) : Bool := f.src1.width == w && f.dst.width == w

/-- Checks of a slide: VS or VI, VI with an integer SRC2 and not negative, no overlap. -/
def slideOk (a : VArgs) (f : FmtWord) : Bool :=
  !f.scaled && !src2Vec a.src2 && immOk f a.src2 && a.vd ≠ a.vs1
    && (match a.src2 with | .vi n => !n.msb | _ => true)

/-- The offset of a slide: all 64 bits of xs, or simm5. -/
def slideOff (b : Src2) (sc : Word) : Nat :=
  match b with
  | .vi n => n.toNat
  | _ => sc.toNat

/-- VSLIDEUP: elements below the offset keep their value. -/
def runVslideup (a : VArgs) (_ : FmtWord) (sc : Word) (s : State) : VOut :=
  let off := slideOff a.src2 sc
  s.elementList ((s.active a.gov).filter fun i => decide (off ≤ i)) a.vd s.vw fun i => (s.vget a.vs1 s.vw (i - off), .none)
/-- VSLIDEUP (R432). -/
def execVslideup (a : VArgs) (s : State) : Out :=
  s.vdispatch (.vslideup a) (s.fmtReg a.fmt) (s.vsScalar a.src2) (slideOk a) widths13 false (runVslideup a)

/-- VSLIDEDN. -/
def runVslidedn (a : VArgs) (_ : FmtWord) (sc : Word) (s : State) : VOut :=
  let off := slideOff a.src2 sc
  s.elementwiseBits a.gov a.vd s.vw fun i => if i + off < s.strand.cmp.vl.toNat then s.vget a.vs1 s.vw (i + off) else 0
/-- VSLIDEDN (R432). -/
def execVslidedn (a : VArgs) (s : State) : Out :=
  s.vdispatch (.vslidedn a) (s.fmtReg a.fmt) (s.vsScalar a.src2) (slideOk a) widths13 false (runVslidedn a)

/-- VPERM. -/
def runVperm (a : VArgs) (_ : FmtWord) (sc : Word) (s : State) : VOut :=
  s.elementwiseBits a.gov a.vd s.vw fun i =>
    let k := s.src2Bits a.src2 sc s.vw i
    if k < s.strand.cmp.vl.toNat then s.vget a.vs1 s.vw k else 0
/-- VPERM (R432): VV only. -/
def execVperm (a : VArgs) (s : State) : Out :=
  s.vdispatch (.vperm a) (s.fmtReg a.fmt) 0
    (fun f => !f.scaled && src2Vec a.src2 && a.vd ≠ a.vs1 && (src2Vecs a.src2).all fun v => v ≠ a.vd) widths13 false (runVperm a)

/-- The rank of an element among the active ones. -/
def rankOf (idx : List Nat) (i : Nat) : Nat := (idx.filter fun j => decide (j < i)).length

/-- VCOMPRESS: active element number n of vs1 goes to element VSTART + n. -/
def runVcompress (a : VUArgs) (_ : FmtWord) (_ : Word) (s : State) : VOut :=
  let idx := s.active a.gov
  let lo := s.strand.cmp.vstart.toNat
  .done (s.mapVec fun v =>
    (List.range idx.length).foldl (fun v n => v.put s.lanes a.vd s.vw (lo + n) (s.vget a.vs1 s.vw (idx.getD n 0))) v).vdone
/-- VCOMPRESS (R432). -/
def execVcompress (a : VUArgs) (s : State) : Out :=
  s.vdispatch (.vcompress a) (s.fmtReg a.fmt) 0 (fun f => !f.scaled && a.vd ≠ a.vs1) widths13 false (runVcompress a)

/-- VEXPAND: an active element gets element VSTART + n of vs1, n counting the active elements below it. -/
def runVexpand (a : VUArgs) (_ : FmtWord) (_ : Word) (s : State) : VOut :=
  let idx := s.active a.gov
  s.elementwiseBits a.gov a.vd s.vw fun i => s.vget a.vs1 s.vw (s.strand.cmp.vstart.toNat + rankOf idx i)
/-- VEXPAND (R432). -/
def execVexpand (a : VUArgs) (s : State) : Out :=
  s.vdispatch (.vexpand a) (s.fmtReg a.fmt) 0 (fun f => !f.scaled && a.vd ≠ a.vs1) widths13 false (runVexpand a)

/-- VIOTA (R429): origin plus the number of active set bits of ms below the element. -/
def runViota (a : VIotaArgs) (f : FmtWord) (sc : Word) (s : State) : VOut :=
  let set := (s.active a.gov).filter fun j => (s.mget a.ms).testBit j
  let origin := f.src2.decodeInt (s.src2Bits a.src2 sc f.src2.width 0)
  s.elementwiseBits a.gov a.vd f.dst.width fun i => f.dst.deliverInt f.sat (origin + rankOf set i)
/-- VIOTA (R429). -/
def execViota (a : VIotaArgs) (s : State) : Out :=
  s.vdispatch (.viota a) (s.fmtReg a.fmt) (s.vsScalar a.src2) (fun f => !f.scaled && f.src2.isInt && f.dst.isInt)
    (fun f w => f.src2.width == w && f.dst.width == w) false (runViota a)

/-! Mask instructions (R429): no format word, any width. -/

/-- The dispatch of a mask instruction. -/
def State.vmask (s : State) (i : Instr) (run : State → VOut) : Out :=
  s.onCompute i fun s => s.vready fun s => s.vissue i 0 0 false 4 run

/-- A binary mask instruction: every element of the range is active. -/
def runMask2 (md ms1 ms2 : MReg) (op : Bool → Bool → Bool) (s : State) : VOut :=
  .done (s.writeMask md s.inRange fun i => op ((s.mget ms1).testBit i) ((s.mget ms2).testBit i)).vdone

/-- VMAND. -/
def runVmand (a : MMArgs) : State → VOut := runMask2 a.md a.ms1 a.ms2 fun x y => x && y
/-- VMAND (R429). -/
def execVmand (a : MMArgs) (s : State) : Out := s.vmask (.vmand a) (runVmand a)
/-- VMOR. -/
def runVmor (a : MMArgs) : State → VOut := runMask2 a.md a.ms1 a.ms2 fun x y => x || y
/-- VMOR (R429). -/
def execVmor (a : MMArgs) (s : State) : Out := s.vmask (.vmor a) (runVmor a)
/-- VMXOR. -/
def runVmxor (a : MMArgs) : State → VOut := runMask2 a.md a.ms1 a.ms2 fun x y => x != y
/-- VMXOR (R429). -/
def execVmxor (a : MMArgs) (s : State) : Out := s.vmask (.vmxor a) (runVmxor a)
/-- VMANDN: ms1 AND NOT ms2. -/
def runVmandn (a : MMArgs) : State → VOut := runMask2 a.md a.ms1 a.ms2 fun x y => x && !y
/-- VMANDN (R429). -/
def execVmandn (a : MMArgs) (s : State) : Out := s.vmask (.vmandn a) (runVmandn a)
/-- VMNOT. -/
def runVmnot (md ms : MReg) : State → VOut := runMask2 md ms ms fun x _ => !x
/-- VMNOT (R429). -/
def execVmnot (md ms : MReg) (s : State) : Out := s.vmask (.vmnot md ms) (runVmnot md ms)

/-- The active elements whose bit of ms is 1. -/
def State.activeSet (s : State) (g : Gov) (ms : MReg) : List Nat := (s.active g).filter fun i => (s.mget ms).testBit i

/-- VPOPC. -/
def runVpopc (a : MXArgs) (s : State) : VOut := .done (s.setX a.rd (BitVec.ofNat 64 (s.activeSet a.gov a.ms).length)).vdone
/-- VPOPC (R429). -/
def execVpopc (a : MXArgs) (s : State) : Out := s.vmask (.vpopc a) (runVpopc a)

/-- VFIRST: all ones when there is none. -/
def runVfirst (a : MXArgs) (s : State) : VOut :=
  .done (s.setX a.rd (match s.activeSet a.gov a.ms with
    | [] => BitVec.allOnes 64
    | i :: _ => BitVec.ofNat 64 i)).vdone
/-- VFIRST (R429). -/
def execVfirst (a : MXArgs) (s : State) : Out := s.vmask (.vfirst a) (runVfirst a)

/-- VBRKB and VBRKA (R195): the active bits below the first set one, with or without that one. -/
def runBreak (a : MGArgs) (incl : Bool) (s : State) : VOut :=
  let f := match s.activeSet a.gov a.ms with
    | [] => s.strand.cmp.vl.toNat
    | i :: _ => i
  .done (s.writeMask a.md (s.active a.gov) fun i => decide (i < f) || (incl && i == f)).vdone

/-- VBRKB. -/
def runVbrkb (a : MGArgs) : State → VOut := runBreak a false
/-- VBRKB (R195). -/
def execVbrkb (a : MGArgs) (s : State) : Out := s.vmask (.vbrkb a) (runVbrkb a)
/-- VBRKA. -/
def runVbrka (a : MGArgs) : State → VOut := runBreak a true
/-- VBRKA (R195). -/
def execVbrka (a : MGArgs) (s : State) : Out := s.vmask (.vbrka a) (runVbrka a)

end Sys2Proof.Machine
end

