-- ==== Sys2Proof/Machine/VecRed.lean ====
section
/-! DEFINITION. Reductions and scans over canonical groups (R119 to R126, R438 to R441). -/

namespace Sys2Proof.Machine

/-- The exact sum of terms, in index order (R120). -/
def exactSum (rnd : Rnd) : List Val → Val × Flags
  | [] => (.fin false 0 0, .none)
  | v :: vs => vs.foldl (fun (x, fl) t => let (y, g) := x.addExact rnd t; (y, fl.or g)) (v, Flags.none)

/-- The weight of a finite term's leading bit. -/
def Val.lead : Val → Option Int
  | .fin _ m e => if m = 0 then none else some (floorLog2 m e)
  | _ => none

/-- The largest leading weight of a list of terms. -/
def maxLead (vs : List Val) : Option Int :=
  vs.foldl (fun o v => match o, v.lead with
    | some a, some b => some (max a b)
    | some a, none => some a
    | none, b => b) none

/-- Floor (p / 2^q) for a finite term, and whether it is inexact. -/
def floorAt (q : Int) : Val → Int × Bool
  | .fin n m e =>
    let (num, den) := shiftQuot m (e - q)
    let lo : Int := ((num / den : Nat) : Int)
    let r := num % den
    (if n then -lo - (if r = 0 then 0 else 1) else lo, r ≠ 0)
  | _ => (0, false)

/-- The sum in the 192-bit window of R121. -/
def windowSum (rnd : Rnd) (vs : List Val) : Val × Flags :=
  if vs.any fun v => v.isNaN || v.isInf then exactSum rnd vs
  else
    match maxLead vs with
    | none => exactSum rnd vs
    | some e =>
      let q := e - 183
      let parts := vs.map (floorAt q)
      let total := 2 * (parts.map (·.1)).sum + (if parts.any (·.2) then 1 else 0)
      if total = 0 then (.fin (rnd = .rdn) 0 0, .none) else (.fin (total < 0) total.natAbs (q - 1), .none)

/-- One pair of the tree (R122): the sum rounded into DST, under SAT too (log 70); where one member is absent the other passes up. -/
def treePair (f : FmtWord) (a b : Option Val) : Option Val × Flags :=
  match a, b with
  | some x, some y =>
    let (z, g) := x.addExact f.rnd y
    let (w, h) := f.dst.deliver f.rnd f.sat z
    (some (f.dst.decode w), g.or h)
  | some x, none => (some x, .none)
  | none, y => (y, .none)

/-- The node over 2^k terms from index `i` (R122). -/
def treeSum (f : FmtWord) (term : Nat → Option Val) : Nat → Nat → Option Val × Flags
  | 0, i => (term i, .none)
  | k + 1, i =>
    let (a, g) := treeSum f term k i
    let (b, h) := treeSum f term k (i + 2 ^ k)
    let (c, j) := treePair f a b
    (c, (g.or h).or j)

/-- GroupSum of a floating-point group with terms at the indices given (R120 to R122). -/
def groupSum (f : FmtWord) (val : Nat → Val) (g : Nat) (idx : List Nat) : Val × Flags :=
  if f.src1.width ≤ 8 then exactSum f.rnd (idx.map val)
  else if f.src1.width = 16 then windowSum f.rnd (idx.map val)
  else
    let (o, fl) := treeSum f (fun i => if idx.contains i then some (val i) else none) 6 (64 * g)
    (o.getD (.fin false 0 0), fl)

/-- Groups combined in order until one raises an enabled flag (R123, R126). -/
def groupLoop {α : Type} (en : BitVec 5) (comb : Nat → α → α × Flags) : List Nat → α → Flags → α × Flags × Option (Nat × Flags)
  | [], acc, fl => (acc, fl, none)
  | g :: gs, acc, fl =>
    let (y, h) := comb g acc
    if (en &&& h.toBits) ≠ 0 then (acc, fl, some (g, h)) else groupLoop en comb gs y (fl.or h)

/-- A reduction (R126, R438, R439): `start` makes acc of init, whose container is read and written as R107 says, `comb` combines a group,
given its active elements, with acc, and `finish` makes the element of acc. -/
def State.reduceIn {α : Type} (s : State) (a : VArgs) (f : FmtWord) (sc : Word) (start : Nat → α) (finish : α → Nat)
    (comb : Nat → List Nat → α → α × Flags) : VOut :=
  let w := f.dst.width
  let idx := s.active a.gov
  let inGroup := fun g => idx.filter fun i => i / 64 == g
  let groups := (List.range 64).filter fun g => !(inGroup g).isEmpty
  let init := f.dst.significant (if s.strand.cmp.vstart = 0 then s.src2Bits a.src2 sc w 0 else s.vget a.vd w 0)
  let r := groupLoop (fcsrEn s.strand.cmp.fcsr) (fun g acc => comb g (inGroup g) acc) groups (start init) .none
  let keep := match r.2.2 with
    | some (g, _) => g == 0
    | none => false
  let s := if keep then s else s.mapVec fun v => v.put s.lanes a.vd w 0 (finish r.1)
  s.endLoop r.2.1 (r.2.2.map fun (g, h) => (64 * g, h))

/-- A reduction whose acc is an element of DST: it is reduced or rounded into DST at each step. -/
def State.reduce (s : State) (a : VArgs) (f : FmtWord) (sc : Word) (comb : Nat → List Nat → Nat → Nat × Flags) : VOut :=
  s.reduceIn a f sc id id comb

/-- Checks that all reductions and scans share (R438): the class, SRC2 = DST, VI, and SCALED where it is allowed. -/
def redOk (a : VArgs) (flt scal : Bool) (f : FmtWord) : Bool :=
  scaledOk f a.src2 [a.vs1] && f.src2 == f.dst && immOk f a.src2
    && (if flt then f.src1.isFlt && f.dst.isFlt else f.src1.isInt && f.dst.isInt) && (!f.scaled || (scal && f.src1.isMx))

/-- The dispatch of R438. -/
def State.vred (s : State) (i : Instr) (a : VArgs) (flt scal : Bool) (fits : FmtWord → Bool) (run : FmtWord → Word → State → VOut) :
    Out :=
  s.vdispatch i (s.fmtReg a.fmt) (s.vsScalar a.src2) (fun f => redOk a flt scal f && fits f) (fun f w => f.src1.width == w) flt run

/-- DST at least as wide as SRC1. -/
def fitsSum (f : FmtWord) : Bool := f.src1.width ≤ f.dst.width
/-- DST equal to SRC1. -/
def fitsSame (f : FmtWord) : Bool := f.src1 == f.dst
/-- DST of SRC1's width. -/
def fitsScan (f : FmtWord) : Bool := f.src1.width == f.dst.width

/-- VREDSUM: exact group sums, reduced into DST at each step (R439). -/
def runVredsum (a : VArgs) (f : FmtWord) (sc : Word) (s : State) : VOut :=
  s.reduce a f sc fun _ idx acc =>
    let sum := (idx.map fun i => f.src1.decodeInt (s.vget a.vs1 f.src1.width i)).sum
    (f.dst.deliverInt f.sat (f.dst.decodeInt acc + sum), .none)
/-- VREDSUM (R439). -/
def execVredsum (a : VArgs) (s : State) : Out := s.vred (.vredsum a) a false false fitsSum (runVredsum a)

/-- VREDMIN and VREDMAX (R440). -/
def runRedInt (a : VArgs) (better : Int → Int → Bool) (f : FmtWord) (sc : Word) (s : State) : VOut :=
  s.reduce a f sc fun _ idx acc =>
    (idx.foldl (fun m i =>
      let x := s.vget a.vs1 f.src1.width i
      if better (f.src1.decodeInt x) (f.dst.decodeInt m) then x else m) acc, .none)

/-- VREDMIN. -/
def runVredmin (a : VArgs) : FmtWord → Word → State → VOut := runRedInt a fun x m => decide (x < m)
/-- VREDMIN (R440). -/
def execVredmin (a : VArgs) (s : State) : Out := s.vred (.vredmin a) a false false fitsSame (runVredmin a)
/-- VREDMAX. -/
def runVredmax (a : VArgs) : FmtWord → Word → State → VOut := runRedInt a fun x m => decide (m < x)
/-- VREDMAX (R440). -/
def execVredmax (a : VArgs) (s : State) : Out := s.vred (.vredmax a) a false false fitsSame (runVredmax a)

/-- VFREDSUM (R439). -/
def runVfredsum (a : VArgs) (f : FmtWord) (sc : Word) (s : State) : VOut :=
  s.reduce a f sc fun g idx acc =>
    let (t, h) := groupSum f (fun i => s.srcVal a.vs1 f.src1 f.scaled i) g idx
    let (v, k) := (f.dst.decode acc).addExact f.rnd t
    deliverWith f (v, h.or k)
/-- VFREDSUM (R439). -/
def execVfredsum (a : VArgs) (s : State) : Out := s.vred (.vfredsum a) a true true fitsSum (runVfredsum a)

/-- VFREDMIN and VFREDMAX (R440): the rules of R354. Only NV can be raised. The least or greatest value is found first and delivered into DST
once, so that no order of comparison changes it; without an element compared, init stays as it is. -/
def runRedFlt (a : VArgs) (wantMax : Bool) (f : FmtWord) (sc : Word) (s : State) : VOut :=
  s.reduceIn a f sc (fun init => (init, (none : Option Val)))
    (fun acc => match acc.2 with | some v => (f.dst.deliver f.rnd f.sat v).1 | none => acc.1)
    fun _ idx acc =>
      let r := idx.foldl (fun (m : Val × Flags) i =>
        let (v, g) := Val.minMax wantMax m.1 (s.srcVal a.vs1 f.src1 f.scaled i)
        (v, m.2.or g)) (acc.2.getD (f.dst.decode acc.1), Flags.none)
      ((acc.1, some r.1), r.2)

/-- VFREDMIN. -/
def runVfredmin (a : VArgs) : FmtWord → Word → State → VOut := runRedFlt a false
/-- VFREDMIN (R440). -/
def execVfredmin (a : VArgs) (s : State) : Out := s.vred (.vfredmin a) a true true fitsSame (runVfredmin a)
/-- VFREDMAX. -/
def runVfredmax (a : VArgs) : FmtWord → Word → State → VOut := runRedFlt a true
/-- VFREDMAX (R440). -/
def execVfredmax (a : VArgs) (s : State) : Out := s.vred (.vfredmax a) a true true fitsSame (runVfredmax a)

/-- The scan's loop: each active element adds to the result of the last one, until one raises an enabled flag (R124). -/
def scanLoop (en : BitVec 5) (add : Nat → Nat → Nat × Flags) (put : VecState → Nat → Nat → VecState) :
    List Nat → Nat → VecState → Flags → VecState × Flags × Option (Nat × Flags)
  | [], _, v, fl => (v, fl, none)
  | i :: is, prev, v, fl =>
    let (y, g) := add prev i
    if (en &&& g.toBits) ≠ 0 then (v, fl, some (i, g)) else scanLoop en add put is y (put v i y) (fl.or g)

/-- A scan (R124, R441): it resumes from the result of the last active element below VSTART. -/
def State.scan (s : State) (a : VArgs) (f : FmtWord) (sc : Word) (add : Nat → Nat → Nat × Flags) : VOut :=
  let w := f.dst.width
  let before := (List.range (min s.strand.cmp.vstart.toNat s.strand.cmp.vl.toNat)).filter (s.governs a.gov)
  let init := match before.getLast? with
    | some j => s.vget a.vd w j
    | none => s.src2Bits a.src2 sc w 0
  let r := scanLoop (fcsrEn s.strand.cmp.fcsr) add (fun v i y => v.put s.lanes a.vd w i y) (s.active a.gov) init s.strand.vec .none
  (s.mapVec fun _ => r.1).endLoop r.2.1 r.2.2

/-- VSCAN. -/
def runVscan (a : VArgs) (f : FmtWord) (sc : Word) (s : State) : VOut :=
  s.scan a f sc fun prev i =>
    (f.dst.deliverInt f.sat (f.dst.decodeInt prev + f.src1.decodeInt (s.vget a.vs1 f.src1.width i)), .none)
/-- VSCAN (R441). -/
def execVscan (a : VArgs) (s : State) : Out := s.vred (.vscan a) a false false fitsScan (runVscan a)
/-- VFSCAN. -/
def runVfscan (a : VArgs) (f : FmtWord) (sc : Word) (s : State) : VOut :=
  s.scan a f sc fun prev i => deliverWith f ((f.dst.decode prev).addExact f.rnd (s.srcVal a.vs1 f.src1 f.scaled i))
/-- VFSCAN (R441). -/
def execVfscan (a : VArgs) (s : State) : Out := s.vred (.vfscan a) a true false fitsScan (runVfscan a)

end Sys2Proof.Machine
end

