-- ==== Sys2Proof/Machine/VecSparse.lean ====
section
/-! DEFINITION. The sparse instructions VBMAND, VBPREFIX, VISECT, VHACC and VPRUNE (R163, R194 to R197, R427, R428). -/

namespace Sys2Proof.Machine

/-- Dispatch with step 1 of R94 on the format word and VTYPE.WIDTH 64 (R427). -/
def State.vsparse (s : State) (i : Instr) (fmt : Fin 8) (sc : Word) (ok : Bool) (run : FmtWord → Word → State → VOut) : Out :=
  s.vdispatch i (s.fmtReg fmt) sc (fun _ => ok) (fun _ w => w == 64) false run

/-- VBMAND (R195): vd[i] := vs1[i] AND vs2[i], and m0 bit i tells whether it is not zero. -/
def runVbmand (a : SpArgs) (_ : FmtWord) (_ : Word) (s : State) : VOut :=
  let w := fun i => s.vget a.vs1 64 i &&& s.vget a.vs2 64 i
  match s.elementwiseBits .none a.vd 64 w with
  | .done t => .done (t.writeMask 0 s.inRange fun i => w i != 0)
  | o => o
/-- VBMAND (R195, R427). -/
def execVbmand (a : SpArgs) (s : State) : Out := s.vsparse (.vbmand a) a.fmt 0 true (runVbmand a)

/-- The number of ones of a word of 64 bits. -/
def ones (x : Nat) : Nat := ((List.range 64).filter fun i => x.testBit i).length

/-- VBPREFIX (R195, R427): the running count of ones, from xs at element VSTART. -/
def runVbprefix (a : VPrefArgs) (_ : FmtWord) (sc : Word) (s : State) : VOut :=
  s.elementwiseBits .none a.vd 64 fun i =>
    (sc.toNat + ((s.inRange.filter fun j => decide (j < i)).map fun j => ones (s.vget a.vs1 64 j)).sum) % 2 ^ 64
/-- VBPREFIX (R195, R427). -/
def execVbprefix (a : VPrefArgs) (s : State) : Out := s.vsparse (.vbprefix a) a.fmt (s.x a.xs) true (runVbprefix a)

/-- Setting SPSTAT. -/
def State.setSpstat (s : State) (bit : Nat) (v : Bool) : State :=
  s.mapSys fun r => { r with spstat := putBits r.spstat bit 1 v.toNat }

/-- Ones of `x` below bit `b`. -/
def onesBelow (x b : Nat) : Nat := ones (x % 2 ^ b)

/-- The pairs that one word of VISECT gives, in ascending bit order (R196). -/
def isectWord (a b oa ob : Nat) : List (Nat × Nat) :=
  ((List.range 64).filter fun i => a.testBit i && b.testBit i).map fun i =>
    ((oa + onesBelow a i) % 2 ^ 32, (ob + onesBelow b i) % 2 ^ 32)

/-- The loop of VISECT: the pairs so far, and the element at which the output was full. -/
def isectLoop (lim : Nat) (word : Nat → List (Nat × Nat)) : List Nat → List (Nat × Nat) → List (Nat × Nat) × Option Nat
  | [], out => (out, none)
  | i :: is, out =>
    let new := word i
    if lim < out.length + new.length then (out, some i) else isectLoop lim word is (out ++ new)

/-- VISECT (R196): when the output is full it exits with IFULL and VSTART set, and m0 as it was (log 16). -/
def runVisect (a : SpArgs) (_ : FmtWord) (_ : Word) (s : State) : VOut :=
  let word := fun i => isectWord (s.vget a.vs1 64 i) (s.vget a.vs2 64 i) (s.vget (vnum (a.vs1.val + 1)) 64 i)
    (s.vget (vnum (a.vs2.val + 1)) 64 i)
  let (out, stop) := isectLoop (16 * s.lanes) word s.inRange []
  let s := s.mapVec fun v => (List.range out.length).foldl (fun v n =>
    let p := out.getD n (0, 0)
    (v.put s.lanes a.vd 32 n p.1).put s.lanes (vnum (a.vd.val + 1)) 32 n p.2) v
  match stop with
  | some i => .done ((s.setSpstat 0 true).mapCmp fun c => { c with vstart := BitVec.ofNat 24 i })
  | none => .done ((s.setSpstat 0 false).mapVec fun v => v.putMask 0 (2 ^ out.length - 1)).vdone
/-- VISECT (R196, R427). -/
def execVisect (a : SpArgs) (s : State) : Out :=
  let far := fun x y : Fin 32 => x.val + 1 < y.val || y.val + 1 < x.val
  s.vsparse (.visect a) a.fmt 0
    (a.vd ≠ 31 && a.vs1 ≠ 31 && a.vs2 ≠ 31 && far a.vd a.vs1 && far a.vd a.vs2) (runVisect a)

/-! VHACC (R197, R428). -/

/-- How one element of VHACC ends. -/
inductive HaccStep
  | next (s : State)
  | full (s : State)         -- the table is full
  | endless (s : State)      -- a probe that finds neither the key nor an empty entry
  | trap (t : Trap)
  deriving DecidableEq, Repr

/-- The entries that a probe of at most `n` entries from `h`, modulo C, looks at, and the last of them when it holds the key or is empty
(R197). -/
def probe (entry : Nat → Nat) (key empty c : Nat) : Nat → Nat → List Nat × Option Nat
  | 0, _ => ([], none)
  | n + 1, h =>
    if entry (h % c) = key ∨ entry (h % c) = empty then ([h % c], some (h % c))
    else let (l, k) := probe entry key empty c n (h + 1); (h % c :: l, k)

/-- The hash of a key (R197). -/
def hashOf (key c : Nat) : Nat := key * 0x9E3779B97F4A7C15 % 2 ^ 64 / 2 ^ (64 - Nat.log2 c)

/-- The value that VHACC stores for a key it has found (R102, R113, R428). -/
def haccAdd (f : FmtWord) (old v : Nat) : Nat × Flags :=
  if f.dst.isInt then (f.dst.deliverInt f.sat (f.dst.decodeInt old + f.dst.decodeInt v), .none)
  else deliverWith f ((f.dst.decode old).addExact f.rnd (f.dst.decode v))

/-- The words of the table that an element touches, at offsets from its base, in order: an uncorrectable error or a conflict stops it at its
word (R219, R272, R428). -/
def State.haccTouch (s : State) (base off : Nat) : List Nat → Except Trap State
  | [] => .ok s
  | o :: os =>
    if s.isBad (base + o) then .error ⟨0x0B, BitVec.ofNat 64 (off + o)⟩
    else
      match s.detect s.strand.id (base + o) [0, 1] with
      | .conflict => .error ⟨0x10, BitVec.ofNat 64 ((off + o) / 8 * 8)⟩
      | .ok s => s.haccTouch base off os

/-- One element of VHACC on the table at key `base`, offset `off` of the scratchpad (R197). Every entry that its probe looks at, and what it
updates, is an R and a W access (R428). -/
def State.haccOne (s : State) (f : FmtWord) (base off c key v : Nat) : HaccStep :=
  let b := f.src1.width / 8
  let at_ := fun k => 16 + 2 * b * k
  let entry := fun k => s.mem.readNat (base + at_ k) b
  let (seen, at?) := probe entry key (2 ^ (8 * b) - 1) c c (hashOf key c)
  match s.haccTouch base off (seen.map at_) with
  | .error t => .trap t
  | .ok s =>
    match at? with
    | none => .endless s
    | some k =>
      let found := entry k == key
      match s.haccTouch base off (if found then [at_ k + b] else [8]) with
      | .error t => .trap t
      | .ok s =>
        let count := s.mem.readNat (base + 8) 8
        if !found && count + 1 == c then .full s
        else
          let (y, g) := if found then haccAdd f (s.mem.readNat (base + at_ k + b) b) v else (v, Flags.none)
          if fcsrTraps s.strand.cmp.fcsr g then .trap ⟨0x15, BitVec.setWidth 64 g.toBits⟩
          else
            match s.haccTouch base off (if found then [] else [at_ k + b]) with
            | .error t => .trap t
            | .ok s =>
              let bytes := if found then atKeys (base + at_ k + b) (leBytes b y)
                else atKeys (base + 8) (leBytes 8 (count + 1)) ++ atKeys (base + at_ k) (leBytes b key ++ leBytes b y)
              .next ((s.performStore s.strand.id bytes).flagCompute g)

/-- VHACC's elements in order (R197): it stays at VSTART = i in an endless probe (log 17). -/
def State.haccLoop (s : State) (f : FmtWord) (base off c : Nat) (key val : Nat → Nat) : List Nat → HeadStep
  | [] => .out (.done s.vdone)
  | i :: is =>
    let here := fun u : State => u.mapCmp fun x => { x with vstart := BitVec.ofNat 24 i }
    match s.haccOne f base off c (key i) (val i) with
    | .next t => t.haccLoop f base off c key val is
    | .full t => .out (.done (here (t.setSpstat 1 true)))
    | .endless t => .blocked (here t)
    | .trap t => .out (.trap (here s) t)

/-- The formats of VHACC (R427). -/
def haccOk (f : FmtWord) : Bool :=
  !f.scaled && (f.src1 == .n32 || f.src1 == .n64) && f.src2 == f.dst && f.src1.width == f.dst.width
    && (f.dst == .i32 || f.dst == .i64 || f.dst == .fp32 || f.dst == .fp64)

/-- A table capacity that is legal (R197). -/
def capacityOk (c : Nat) : Bool := (List.range 20).any fun k => c == 2 ^ (k + 1)

/-- Key of the table at offset `x` of the gang's scratchpad. -/
def State.haccBase (s : State) (x : Nat) : Nat := spadKey s.strand.id.cluster ((s.gangOf s.strand.id).spadPage * 4096 + x)

/-- The checks of VHACC before any element, with the scalar it read at dispatch (R197). The TADDR of a table that reaches beyond the allotment
is xs, which R197 and R263 leave open (log 73). -/
def State.haccCheck (s : State) (a : VHaccArgs) (f : FmtWord) (xs : Word) : Option Trap :=
  let x := xs.toNat
  let size := (s.gangOf s.strand.id).spadPages * 4096
  let base := s.haccBase x
  let b := f.src1.width / 8
  let c := s.mem.readNat base 8
  let illegal : Trap := ⟨0x01, BitVec.ofNat 64 (encode (.vhacc a) % 2 ^ 32)⟩
  if x % 8 ≠ 0 then some ⟨0x04, xs⟩
  else if size < x + 16 then some ⟨0x05, xs⟩
  else if s.isBad base then some ⟨0x0B, xs⟩
  else if !capacityOk c then some illegal
  else if size < x + 16 + 2 * b * c then some ⟨0x05, xs⟩
  else if s.inRange.any fun i => s.vget a.vs1 f.src1.width i == 2 ^ (8 * b) - 1 then some illegal
  else none

/-- The accesses of the vector path of the slice in turn, and what comes before an access of it to any slice, are performed. -/
def State.vectorFirst (s : State) (kind : FenceKind) : State :=
  let x := s.access .vector [] kind
  s.drain fun a => (a.side == s.side && a.path == Path.vector) || a.precedes x

/-- VHACC past its dispatch: its path's earlier accesses, and what comes before an access of it, are performed (R61, R202); then the checks,
the read of the capacity word for the detector (R219), and the elements (R197). -/
def State.hacc (s : State) (a : VHaccArgs) (f : FmtWord) (xs : Word) : HeadStep :=
  let s := s.vectorFirst .rw
  match s.haccCheck a f xs with
  | some t => .out (.trap s t)
  | none =>
    let base := s.haccBase xs.toNat
    match s.detect s.strand.id base [0] with
    | .conflict => .out (.trap s ⟨0x10, xs⟩)
    | .ok s =>
    (s.setSpstat 1 false).haccLoop f base xs.toNat (s.mem.readNat base 8) (fun i => s.vget a.vs1 f.src1.width i)
      (fun i => s.vget a.vs2 f.src2.width i) s.inRange

/-- VHACC (R98, R197, R427, R428). It runs at once when the vector instruction queue is empty, and otherwise joins it. Where its checks can
be made at dispatch and one fails it waits for the queue and traps precisely; what is found later traps from the queue (R72; log 17). -/
def execVhacc (a : VHaccArgs) (s : State) : Out :=
  s.onCompute (.vhacc a) fun s =>
    match fmtParse (s.fmtReg a.fmt) with
    | none => .next (s.illegal (.vhacc a))
    | some f =>
      if !haccOk f then .next (s.illegal (.vhacc a))
      else s.vready fun s =>
        let xs := s.x a.xs
        let e := s.entry (.vhacc a) xs (s.fmtReg a.fmt) none
        if f.src1.width ≠ s.vw then .next s.vtype
        else if s.strand.q.viq.isEmpty then .next ((s.hacc a f xs).finish e 4)
        else if fcsrEn s.strand.cmp.fcsr ≠ 0 || (!s.sourcesPending [a.vs1, a.vs2] .none && (s.haccCheck a f xs).isSome) then
          .next (s.wait .viqBusy)
        else if 32 ≤ s.strand.q.viq.length then .next (s.wait .viqFull)
        else .next ((s.enqueueEntry e).advance 4)

/-! VPRUNE (R163). -/

/-- Is the first value larger in magnitude, a NaN above every number? -/
def magAbove (a b : Val) : Bool :=
  match a, b with
  | .nan _, .nan _ => false
  | .nan _, _ => true
  | _, .nan _ => false
  | .inf _, .inf _ => false
  | .inf _, _ => true
  | _, .inf _ => false
  | .fin _ m e, .fin _ m' e' => cmpMag m e m' e' == .gt

/-- The indices below `m` of the `n` values of largest magnitude, ties to the lower index, in ascending order. -/
def keepLargest (val : Nat → Val) (n m : Nat) : List Nat :=
  (List.range m).filter fun i =>
    ((List.range m).filter fun j => magAbove (val j) (val i) || (j < i && !magAbove (val i) (val j))).length < n

/-- VPRUNE with a pair N:M. A group whose first element lies below VSTART is passed over, with its outputs as they stand: R163 does not say
what becomes of it (log 72). -/
def runPrune (a : VPruneArgs) (n m : Nat) (f : FmtWord) (_ : Word) (s : State) : VOut :=
  let w := f.src1.width
  let lo := s.strand.cmp.vstart.toNat
  let groups := (List.range (s.strand.cmp.vl.toNat / m)).filter fun g => decide (lo ≤ g * m)
  .done (s.mapVec fun v => groups.foldl (fun v g =>
    let kept := keepLargest (fun i => s.srcVal a.vs f.src1 f.scaled (g * m + i)) n m
    (List.range n).foldl (fun v k =>
      let i := kept.getD k 0
      (v.put s.lanes a.vd w (g * n + k) (f.src1.significant (s.vget a.vs w (g * m + i)))).put s.lanes (vnum (a.vd.val + 1)) 4 (g * n + k) i) v) v).vdone

/-- The dispatch of VPRUNE (R163, R427). -/
def State.vprune (s : State) (i : Instr) (a : VPruneArgs) (m : Nat) (run : FmtWord → Word → State → VOut) : Out :=
  s.vdispatch i (s.fmtReg a.fmt) 0
    (fun f => a.vd ≠ 31 && f.src1.width ≤ 16 && (!f.scaled || (f.src1.isMx && a.vs ≠ 31)))
    (fun f w => f.src1.width == w && s.strand.cmp.vl.toNat % m == 0) false run

/-- VPRUNE.N1M4. -/
def runVpruneN1M4 (a : VPruneArgs) : FmtWord → Word → State → VOut := runPrune a 1 4
/-- VPRUNE.N1M4 (R163). -/
def execVpruneN1M4 (a : VPruneArgs) (s : State) : Out := s.vprune (.vpruneN1M4 a) a 4 (runVpruneN1M4 a)
/-- VPRUNE.N2M4. -/
def runVpruneN2M4 (a : VPruneArgs) : FmtWord → Word → State → VOut := runPrune a 2 4
/-- VPRUNE.N2M4 (R163). -/
def execVpruneN2M4 (a : VPruneArgs) (s : State) : Out := s.vprune (.vpruneN2M4 a) a 4 (runVpruneN2M4 a)
/-- VPRUNE.N1M8. -/
def runVpruneN1M8 (a : VPruneArgs) : FmtWord → Word → State → VOut := runPrune a 1 8
/-- VPRUNE.N1M8 (R163). -/
def execVpruneN1M8 (a : VPruneArgs) (s : State) : Out := s.vprune (.vpruneN1M8 a) a 8 (runVpruneN1M8 a)
/-- VPRUNE.N2M8. -/
def runVpruneN2M8 (a : VPruneArgs) : FmtWord → Word → State → VOut := runPrune a 2 8
/-- VPRUNE.N2M8 (R163). -/
def execVpruneN2M8 (a : VPruneArgs) (s : State) : Out := s.vprune (.vpruneN2M8 a) a 8 (runVpruneN2M8 a)
/-- VPRUNE.N4M8. -/
def runVpruneN4M8 (a : VPruneArgs) : FmtWord → Word → State → VOut := runPrune a 4 8
/-- VPRUNE.N4M8 (R163). -/
def execVpruneN4M8 (a : VPruneArgs) (s : State) : Out := s.vprune (.vpruneN4M8 a) a 8 (runVpruneN4M8 a)

end Sys2Proof.Machine
end

