-- ==== Sys2Proof/Machine/VecQueue.lean ====
section
/-! DEFINITION. VPOP, VPUSH, VWAIT and FENCE (R42 to R44, R55, R59, R61, R210, R357, R443, R447). -/

namespace Sys2Proof.Machine

/-- Element `i` of an entry's payload (R54). -/
def QSlot.elem (q : QSlot) (i : Nat) : Nat := let w := widthBits q.width.toNat; bits q.payload.toNat (i * w) w

/-- A FULL entry of elements (R54), pushed by a slice that has issued accesses numbered below `mark` (R61). -/
def fullEntry (count width mark : Nat) (elem : Nat → Nat) : QSlot :=
  let w := widthBits width
  { count := BitVec.ofNat 24 count, width := BitVec.ofNat 3 width, full := true, arrived := true, filled := BitVec.ofNat 24 count,
    payload := (List.range count).foldl (fun p i => putBits p (i * w) w (elem i)) 0, mark := mark }

/-- Popping the LDQ head, which is FULL (R55). -/
def State.popLdq (s : State) : State := s.mapQ fun q => { q with ldq := q.ldq.drop 1, ldqHead := q.ldqHead + 1 }

/-- VPOP's effect: the entry's elements go to vd by the entry's own width (R59, R443). -/
def runVpop (vd : VReg) (s : State) : VOut :=
  match s.strand.q.ldq with
  | [] => .done s
  | e :: _ =>
    let w := widthBits e.width.toNat
    .done (s.popLdq.mapVec fun v => (List.range e.count.toNat).foldl (fun v i => v.put s.lanes vd w i (e.elem i)) v).vdone

/-- The dispatch of a pop: it waits for a slot to be reserved, binds to it, and takes it at once when it is FULL and the vector
instruction queue is empty (R55). What the compute slice accesses from here on comes behind the access slice's accesses before the load
of that slot (R61). -/
def State.vpopIssue (s : State) (i : Instr) (sc : Word) (run : State → VOut) : Out :=
  let n := s.strand.q.boundPops
  match s.strand.q.ldq[n]? with
  | none => .next (s.wait .popUnreserved)
  | some e =>
    if s.strand.q.viq.isEmpty && e.full then .next ((run (s.popOrder e.mark)).finish 4)
    else if 32 ≤ s.strand.q.viq.length then .next (s.wait .viqFull)
    else
      let slot := s.strand.q.ldqHead + BitVec.ofNat 3 n
      .next (((s.popOrder e.mark).enqueueEntry (s.entry i sc 0 (some slot))).advance 4)

/-- VPOP (R59, R443). -/
def execVpop (vd : VReg) (s : State) : Out :=
  s.onCompute (.vpop vd) fun s => s.vready fun s => s.vpopIssue (.vpop vd) 0 (runVpop vd)

/-- The dispatch of a push into SDQ: it waits while SDQ is full (R53, R443), and behind the older memory instructions of the vector
instruction queue, which its entry has to come after (R61). -/
def State.vpushIssue (s : State) (i : Instr) (sc : Word) (run : State → VOut) : Out :=
  if 8 ≤ s.strand.q.sdq.length + s.strand.q.boundPushes then .next (s.wait .sdqFull) else s.vissue i sc 0 false 4 run

/-- VPUSH's effect: elements 0 to VLC - 1 as one FULL entry (R59). -/
def runVpush (vs : VReg) (mark : Nat) (s : State) : VOut :=
  let e := fullEntry s.strand.cmp.vl.toNat s.strand.cmp.width.toNat mark fun i => s.vget vs s.vw i
  .done (s.mapQ fun q => { q with sdq := q.sdq ++ [e] }).vdone

/-- VPUSH (R59, R443). -/
def execVpush (vs : VReg) (s : State) : Out :=
  s.onCompute (.vpush vs) fun s => s.vready fun s => s.vpushIssue (.vpush vs) 0 (runVpush vs s.strand.issued)

/-! VWAIT (R42 to R44). It stands in the vector instruction queue while it waits, and younger scalar instructions go on (R98). -/

/-- What the flags of a VWAIT say: element, address and key of each, or a trap, with its element when the access of that element fails. -/
inductive FlagRead
  | ok (flags : List (Nat × Nat × Nat))
  | trap (k : Option Nat) (t : Trap)
  deriving DecidableEq, Repr

/-- The elements of a VWAIT: every element below VLC that its mask makes active, whatever VSTART holds (R43, R84; log 46). -/
def State.waitEls (s : State) (a : VWaitArgs) : List (Nat × Nat) :=
  ((List.range s.strand.cmp.vl.toNat).filter (s.governs a.gov)).map fun i => (i, s.vget a.vs1 64 i)

/-- The checks of the flags, lowest element first: alignment of all, then translation (R43, R447). -/
def State.vwaitFlags (s : State) (a : VWaitArgs) : FlagRead :=
  let els := s.waitEls a
  match els.find? fun e => e.2 % 8 != 0 with
  | some e => .trap none ⟨0x04, BitVec.ofNat 64 e.2⟩
  | none =>
    els.foldr (fun (i, v) r =>
      match s.locate .global .load (BitVec.ofNat 64 v) with
      | .error c => .trap (some i) ⟨BitVec.ofNat 8 c, BitVec.ofNat 64 v⟩
      | .ok k =>
        if isRemote k && s.remoteFails (remotePa k).1 then .trap (some i) ⟨0x13, BitVec.ofNat 64 v⟩
        else match r with
          | .trap j t => .trap j t
          | .ok l => .ok ((i, v, k) :: l)) (.ok [])

/-- A VWAIT ends in a trap; a fault at an element leaves its number in VSTART (R43, R83, R183). -/
def State.vwaitTrap (s : State) (k : Option Nat) (t : Trap) : HeadStep :=
  let s := s.mapQ fun q => { q with headStall := none, headReq := none, headReply := none }
  .out (.trap (match k with
    | some i => s.mapCmp fun c => { c with vstart := BitVec.ofNat 24 i }
    | none => s) t)

/-- It waits, for this reason and perhaps for a request. -/
def State.vwaitBlock (s : State) (why : Stall) (req : Option Nat) : HeadStep :=
  .blocked (s.mapQ fun q => { q with headStall := some why, headReq := req, headReply := none })

/-- Asking for every line of a list, in a class of R247. -/
def State.askLines (s : State) (cls : Nat) : List Nat → State
  | [] => s
  | l :: ls => (s.askLine (.queue s.strand.key) l s.strand.die cls true).2.askLines cls ls

/-- The lines of the flags that the die has no copy of. -/
def State.missingLines (s : State) (flags : List (Nat × Nat × Nat)) : List Nat :=
  ((flags.filter fun e => (s.bytesAt s.strand.die e.2.2 8).isNone).map fun e => lineOf e.2.2).eraseDups

/-- The flags that a check does not read from a copy: remote ones always (R43), and far ones at SYSTEM scope (R210, R216). -/
def freshFlags (a : VWaitArgs) (flags : List (Nat × Nat × Nat)) : List (Nat × Nat × Nat) :=
  flags.filter fun e => isRemote e.2.2 || (a.scope == some .system && isFar e.2.2)

/-- The class of a VWAIT's reads and of the write-backs before them: ORDERED at SYSTEM scope, otherwise FREE (R215, R247). -/
def waitClass (a : VWaitArgs) : Nat := if a.scope = some .system then 0 else 1

/-- Asking for the flags' lines before a check: the copies that it must not read are written back, and once no write-back of theirs is in
flight they are dropped; then every missing line is asked for. -/
def State.vwaitAsk (s : State) (a : VWaitArgs) (flags : List (Nat × Nat × Nat)) (anew last : Bool) : HeadStep :=
  let fresh := if anew then freshFlags a flags else []
  let die := s.strand.die
  let dirty := fun u : State => u.l2.find? fun l =>
    l.die == die && l.dirty ≠ 0 && !u.backInFlight die l.line && fresh.any fun e => lineOf e.2.2 == l.line
  let s := fresh.foldl (fun (u : State) _ => match dirty u with
    | some l => u.writeBackLine .hub l (waitClass a)
    | none => u) s
  if flags.any fun e => s.backInFlight die e.2.2 then s.vwaitBlock .vwait none
  else if fresh.any fun e => s.dueOn die (lineOf e.2.2) then
    (fresh.foldl (fun (u : State) e => if u.dueOn die (lineOf e.2.2) then u.hubLine die e.2.2 else u) s).vwaitBlock .vwait none
  else
    let s := fresh.foldl (fun (u : State) e => u.dropLine die e.2.2) s
    let s := s.askLines (waitClass a) (s.missingLines flags)
    s.vwaitBlock (.flags last) (some (s.reqNext - 1))

/-- The detector on the flag reads (R219): the first element and address in conflict, or the state. -/
def State.vwaitDetect (s : State) : List (Nat × Nat × Nat) → Except (Nat × Nat) State
  | [] => .ok s
  | e :: es =>
    match s.detect s.strand.id e.2.2 [0] with
    | .conflict => .error (e.1, e.2.1)
    | .ok s => s.vwaitDetect es

/-- The end of VWAIT: md, the acquire at its scope when nothing is unmet, VSTART := 0 (R43). -/
def State.vwaitEnd (s : State) (a : VWaitArgs) (unmet : List Nat) : State :=
  let m := unmet.foldl (fun m i => m ||| 2 ^ i) 0
  let s := s.mapQ fun q => { q with headStall := none, headReq := none, headReply := none }
  let s := match a.scope, unmet with
    | some sc, [] => s.acquireAt sc
    | _, _ => s
  (s.mapVec fun v => v.putMask a.md m).vdone

/-- One check of the flags, with every line present: `last` when the timeout has run out. -/
def State.vwaitCheck (s : State) (a : VWaitArgs) (flags : List (Nat × Nat × Nat)) (last : Bool) : HeadStep :=
  match s.vwaitDetect flags with
  | .error (k, v) => s.vwaitTrap (some k) ⟨0x10, BitVec.ofNat 64 v⟩
  | .ok s =>
    let unmet := (flags.filter fun e =>
      (s.bytesAt s.strand.die e.2.2 8).map leNat != some (s.vget a.vs2 64 e.1)).map fun e => e.1
    if unmet.isEmpty || last then .out (.done (s.vwaitEnd a unmet)) else s.vwaitBlock .vwait none

/-- The access of a VWAIT to its flags (R198). -/
def State.waitAccess (s : State) (flags : List (Nat × Nat × Nat)) : Access :=
  s.access .vector (flags.flatMap fun e => memSlices s.strand.die e.2.2 8).eraseDups .r

/-- VWAIT at the head of the queue (R43), with the timeout that it read at dispatch; `last` at the event of that timeout. What comes before
its reads is performed first (R61, R203). -/
def State.vwait (s : State) (a : VWaitArgs) (xs : Word) (last : Bool) : HeadStep :=
  match s.vwaitFlags a with
  | .trap k t => s.vwaitTrap k t
  | .ok flags =>
    let q := s.strand.q
    match q.headReply with
    | some r =>
      match flags.find? fun e => lineOf e.2.2 == r.addr with
      | some e => s.vwaitTrap (some e.1) ⟨0x13, BitVec.ofNat 64 e.2.1⟩
      | none => s.vwaitBlock .vwait none
    | none =>
      let came := match q.headStall with | some (.flags l) => some l | _ => none
      let last := last || xs == 0 || came == some true
      if q.headReq.isSome then
        -- the timeout may run out while the lines are on their way: the check that follows is then the last
        s.vwaitBlock (.flags last) q.headReq
      else
        let s := flags.foldl (fun u e => u.used .global (BitVec.ofNat 64 e.2.1)) (s.ahead (s.waitAccess flags))
        if came.isNone && !(freshFlags a flags).isEmpty then s.vwaitAsk a flags true last
        else if (s.missingLines flags).isEmpty then s.vwaitCheck a flags last
        else s.vwaitAsk a flags false last

/-- VWAIT (R42 to R44, R98, R447). With an empty vector instruction queue its check begins at once; otherwise it joins the queue. Where its
flags can be checked at dispatch and a check fails it waits for the queue and traps precisely; what is found later traps from the queue
(R43, R72; log 17). -/
def execVwait (a : VWaitArgs) (s : State) : Out :=
  s.onCompute (.vwait a) fun s => s.vready fun s =>
    let e := s.entry (.vwait a) (s.x a.xs) 0 none
    if s.vw ≠ 64 then .next s.vtype
    else if s.strand.q.viq.isEmpty then .next ((s.vwait a (s.x a.xs) false).finish e 4)
    else if !s.sourcesPending [a.vs1, a.vs2] a.gov && (match s.vwaitFlags a with | .trap .. => true | .ok _ => false) then
      .next (s.wait .viqBusy)
    else if 32 ≤ s.strand.q.viq.length then .next (s.wait .viqFull)
    else .next ((s.enqueueEntry e).advance 4)

/-! FENCE. -/

/-- Does a kind of FENCE hold writes? -/
def fenceW (k : FenceKind) : Bool := k != .r
/-- Does a kind of FENCE hold reads? -/
def fenceR (k : FenceKind) : Bool := k != .w

/-- What a FENCE asks for (R210). -/
def fenceEdge (scope : Scope) (pred succ : FenceKind) : Edge := ⟨none, pred, none, succ, scope == .strand⟩

/-- A FENCE at SYSTEM scope has its accesses in pred performed (R210). -/
def State.fenceFirst (s : State) (pred succ : FenceKind) : State :=
  s.ahead { s.access .scalar [] .rw with edge := some (fenceEdge .system pred succ) }

/-- The end of a FENCE at SYSTEM scope: an R in succ invalidates (R216). -/
def State.fenceEnd (s : State) (succ : FenceKind) : State := if fenceR succ then s.invalidateClean s.strand.die else s

/-- Nothing of the vector instruction queue waits any longer for a request. -/
def State.headFree (s : State) : State := s.mapQ fun q => { q with headStall := none, headReq := none, headReply := none }

/-- A FENCE of the compute slice, with no memory instruction before it in the vector instruction queue (R210, R216, R357). At SYSTEM scope with
W in pred it waits for the acknowledgements of its write-backs. -/
def State.fenceRun (s : State) (scope : Scope) (pred succ : FenceKind) : HeadStep :=
  if scope ≠ .system then .out (.done (s.order (fenceEdge scope pred succ)))
  else
    let s := s.fenceFirst pred succ
    let done := fun u : State => HeadStep.out (.done (u.headFree.fenceEnd succ))
    let q := s.strand.q
    if !fenceW pred then done s
    else
      match q.headReply with
      | some r => if r.ok then done s else .out (.trap s.headFree ⟨0x13, 0⟩)
      | none =>
        if q.headReq.isSome then .blocked s
        else if q.headStall = some .release then done s
        else
          match s.backAll (.queue s.strand.key) with
          | .fails => .out (.trap s ⟨0x13, 0⟩)
          | .before t => .blocked t
          | .sent t => .blocked (t.mapQ fun q => { q with headStall := some .release, headReq := some (t.reqNext - 1) })
          | .clear t => done t

/-- FENCE (R210, R216, R356, R357). On the access slice it stands at its address while it waits. On the compute slice it joins the vector
instruction queue when it has to wait, and scalar instructions that access no memory go on (log 77). -/
def execFence (scope : Scope) (pred succ : FenceKind) (s : State) : Out :=
  if s.side = .access then
    if scope ≠ .system then .next ((s.order (fenceEdge scope pred succ)).advance 4)
    else
      let s := s.fenceFirst pred succ
      let done := fun u : State => .next ((u.fenceEnd succ).advance 4)
      if fenceW pred then s.systemRelease 0 done else done s
  else
    let e := s.entry (.fence scope pred succ) 0 0 none
    if 32 ≤ s.strand.q.viq.length then .next (s.wait .viqFull)
    else if s.strand.q.memoryWaits then .next ((s.enqueueEntry e).advance 4)
    else
      match s.fenceRun scope pred succ with
      | .out (.done t) => .next (t.advance 4)
      | .out (.trap t c) => .next (t.raise c)
      | .blocked t => .next ((t.enqueueEntry e).advance 4)

end Sys2Proof.Machine
end

