-- ==== Sys2Proof/Machine/VecMem.lean ====
section
/-! DEFINITION. The vector memory instructions of the access slice (R55, R60 to R65, R69, R183 to R185, R249, R420 to R426). -/

namespace Sys2Proof.Machine

/-- What a vector memory instruction does with its elements. -/
inductive VMemOp
  | load
  | loadFF
  | store
  | amo (op : AmoOp)
  deriving DecidableEq, Repr

/-- How it forms the address of an element (R184, R424). -/
inductive VForm
  | unit
  | stride (x : Word)
  | index
  | lane (x : Word)
  deriving DecidableEq, Repr

/-- Does it fill an LDQ slot (R420)? -/
def VMemOp.loads : VMemOp → Bool
  | .store => false
  | _ => true

/-- Is it a VAMO? -/
def VMemOp.isAmo : VMemOp → Bool
  | .amo _ => true
  | _ => false

/-- Does it take a data entry from SDQ (R420)? -/
def VMemOp.takesData : VMemOp → Bool
  | .store | .amo _ => true
  | _ => false

/-- What its accesses need of a page (R182). -/
def VMemOp.need : VMemOp → Need
  | .load | .loadFF => .load
  | .store => .store
  | .amo _ => .atomic

/-- Its kinds of access for the detector (R426). -/
def VMemOp.kinds : VMemOp → List Nat
  | .load | .loadFF => [0]
  | .store => [1]
  | .amo _ => [0, 1]

/-- The scalar operation of a VAMO (R425). -/
def amoOp (o : AmoOp) : AtOp :=
  match o with
  | .add => .add | .and => .and | .or => .or | .xor => .xor | .min => .min | .max => .max | .minn => .minn | .maxn => .maxn
  | .swp => .swp | .fadd => .fadd

/-- An element: its index, its byte address, and which nibble of the byte it is. -/
structure VEl where
  i : Nat
  va : Word
  hi : Bool
  deriving DecidableEq, Repr

/-- The nibble address of element `i`: twice its byte address, and one more in a high nibble (R184, R424). -/
def vNib (form : VForm) (base : Word) (w L : Nat) (idx : Nat → Nat) (i : Nat) : Nat :=
  let b := base.toNat
  match form with
  | .unit => (2 * b + i * (w / 4)) % 2 ^ 65
  | .stride x => if w = 4 then ((2 * b + i * x.toInt : Int) % 2 ^ 65).toNat else 2 * (b + i * x.toNat) % 2 ^ 65
  | .index => if w = 4 then (2 * b + idx i) % 2 ^ 64 else 2 * (b + idx i) % 2 ^ 65
  | .lane x => (2 * (b + i % L * x.toNat) + i / L * (w / 4)) % 2 ^ 65

/-- The elements from VSTART to VLA - 1. -/
def vEls (form : VForm) (base : Word) (w L : Nat) (idx : Nat → Nat) (lo vl : Nat) : List VEl :=
  ((List.range vl).drop lo).map fun i =>
    let n := vNib form base w L idx i
    ⟨i, BitVec.ofNat 64 (n / 2), n % 2 == 1⟩

/-- What an instruction in execution knows: its operation and form, its width in bits, its space, and the elements of its index
and data entries. -/
structure VMem where
  ins : Instr
  op : VMemOp
  form : VForm
  base : Word
  w : Nat
  space : Space
  data : Nat → Nat
  index : Nat → Nat
  els : List VEl
  stop : Option Nat      -- the element at which a pre-emption stops it (R75)

/-- MTYPE.SPACE as a space (R175). -/
def State.mspace (s : State) : Space :=
  match s.strand.sys.mtype.toNat with
  | 0 => .global
  | 1 => .spad
  | 2 => .shared
  | _ => .tcm

/-! Step 2: the LDQ slot (R55, R62, R421). -/

/-- The physical index of the youngest slot. -/
def Queues.youngest (q : Queues) : BitVec 3 := q.ldqHead + BitVec.ofNat 3 (q.ldq.length - 1)

/-- The slot of an instruction that stopped before: the youngest, whose elements have not all arrived and for which no load waits. -/
def Strand.stoppedSlot (t : Strand) : Bool :=
  match t.q.ldq.getLast? with
  | some e => !e.full && !e.arrived && !t.awaits t.q.youngest
  | none => false

/-- Changing the youngest slot. -/
def State.mapYoungest (s : State) (f : QSlot → QSlot) : State :=
  s.mapQ fun q => match q.ldq.getLast? with
    | some e => { q with ldq := q.ldq.dropLast ++ [f e] }
    | none => q

/-- COUNT, WIDTH and FILLED of the slot of a load that begins or goes on at VSTART; without an element COUNT is 0 (R54, R422). A load that
stopped behind its last element goes on with all of them (R75, R318). -/
def QSlot.begun (e : QSlot) (c : Slice) : QSlot :=
  if c.vstart < c.vl then { e with count := c.vl, width := c.width, filled := c.vstart }
  else if 0 < e.count ∧ e.count = c.vstart then { e with filled := e.count }
  else { e with count := 0, width := c.width, filled := 0 }

/-- Reserving the slot, unless the instruction resumes into the one it has; none at the slip limit. -/
def State.reserve (s : State) (op : VMemOp) : Option State :=
  if !op.loads then some s
  else if s.strand.stoppedSlot then some (s.mapYoungest fun e => e.begun s.strand.acc)
  else if s.strand.sys.slip.toNat ≤ s.strand.q.ldq.length || 8 ≤ s.strand.q.ldq.length then none
  else
    some (s.mapQ fun q => { q with ldq := q.ldq ++ [(QSlot.mk 0 0 false false 0 0 s.strand.issued).begun s.strand.acc] })

/-- Writing one element into the slot. -/
def State.fillOne (s : State) (w i x : Nat) : State := s.mapYoungest fun e => { e with payload := putBits e.payload (i * w) w x }

/-- Writing elements into the slot. -/
def State.fill (s : State) (w : Nat) (vals : List (Nat × Nat)) : State := vals.foldl (fun u p => u.fillOne w p.1 p.2) s

/-- The slot has all its elements, or they are on their way: FULL at once, or at LDQ_SLOT_FULL (R55; log 2). -/
def State.arrivedAll (s : State) : State :=
  if s.strand.awaits s.strand.q.youngest then
    s.mapYoungest fun e => { e with filled := BitVec.ofNat 24 (s.strand.firstAwaited s.strand.q.youngest e.count.toNat) }
  else
    let (d, s) := s.nextDelay
    s.mapYoungest fun e => { e with arrived := true, full := !d, filled := e.count }

/-! Ends. -/

/-- The instruction stops at element `k` with a trap, or for a pre-emption (R69, R75, R183): the elements below it are performed. -/
def State.vstop (s : State) (m : VMem) (k code : Nat) (a : Word) : State :=
  let s := s.drain fun st => st.side == Side.access && (st.path == Path.vector || !st.loads.isEmpty)
  let s := s.mapAcc fun c => { c with vstart := BitVec.ofNat 24 k }
  let s := if m.op.loads then s.mapYoungest fun e => { e with filled := BitVec.ofNat 24 k, arrived := false, full := false } else s
  if code = 0x17 then s.takePreempt else s.raiseAt ⟨BitVec.ofNat 8 code, a⟩

/-- SDQ entries that it uses (R420). -/
def VMem.entries (m : VMem) : Nat :=
  (match m.form with | .index => 1 | _ => 0) + (if m.op.takesData then 1 else 0)

/-- Taking its entries from SDQ (R60). -/
def State.popSdq (s : State) (n : Nat) : State :=
  if n = 0 then s else s.mapQ fun q => { q with sdq := q.sdq.drop n, sdqHead := q.sdqHead + BitVec.ofNat 3 n }

/-- What it accesses comes behind the compute slice's accesses before the pushes of those entries (R61). -/
def State.orderSdq (s : State) (n : Nat) : State := (s.strand.q.sdq.take n).foldl (fun u e => u.popOrder e.mark) s

/-- Completion: entries popped, the slot complete, VSTART := 0 (R60, R83, R422). -/
def State.vfinish (s : State) (m : VMem) : State :=
  let s := s.popSdq m.entries
  let s := if m.op.loads then s.arrivedAll else s
  let s := match m.op with
    | .loadFF => s.mapQ fun q => { q with aq := q.aq ++ [grantEntry s.strand.acc.vl.toNat s.strand.acc.width.toNat s.strand.issued] }
    | _ => s
  (s.mapAcc fun c => { c with vstart := 0 }).advance 4

/-- VLFF trims at element `k` (R65, R423). -/
def State.vtrim (s : State) (m : VMem) (k : Nat) : State :=
  let s := s.mapAcc fun c => { c with vl := BitVec.ofNat 24 k }
  (s.mapYoungest fun e => { e with count := BitVec.ofNat 24 k }).vfinish m

/-- Causes that trim a VLFF (R423). -/
def trims (code : Nat) : Bool := code == 0x05 || code == 0x08 || code == 0x09 || code == 0x0A || code == 0x13

/-- A failing element `k` (R421 step 6, R423). -/
def State.vfail (s : State) (m : VMem) (k code : Nat) (a : Word) : State :=
  if m.op == .loadFF && trims code && s.strand.acc.vstart.toNat < k then s.vtrim m k else s.vstop m k code a

/-! Elements. -/

/-- The checks of one element, but for an uncorrectable error (R173, R182, R251): a cause, or its key. -/
def State.elPlace (s : State) (m : VMem) (e : VEl) : Except Nat Nat :=
  match s.place m.space m.op.need e.va with
  | .error c => .error c
  | .ok k => if isRemote k && s.remoteFails (remotePa k).1 then .error 0x13 else .ok k

/-- The checks of one element (R173, R182, R251, R272): a cause, or its key. A store of fewer than 8 bytes merges with its ECC word. -/
def State.elCheck (s : State) (m : VMem) (e : VEl) : Except Nat Nat :=
  match s.elPlace m e with
  | .error c => .error c
  | .ok k => if (m.op != .store || m.w < 64) && s.isBad k then .error (memErr k) else .ok k

/-- Is the instruction to stop behind its last element (R75, R318)? -/
def State.stopsBehind (s : State) (m : VMem) : Bool := m.stop == some s.strand.acc.vl.toNat

/-- Elements with their keys up to the first that fails, or at which the instruction is to stop, and that one with its cause. It may stop
behind the last one, with VSTART = VLA (R318). -/
def State.elKeys (s : State) (m : VMem) : List VEl → List (VEl × Nat) × Option (VEl × Nat)
  | [] => ([], if s.stopsBehind m then some (⟨s.strand.acc.vl.toNat, 0, false⟩, 0x17) else none)
  | e :: es =>
    if (match m.stop with | some k => decide (k ≤ e.i) | none => false) then ([], some (e, 0x17))
    else
      match s.elCheck m e with
      | .error c => ([], some (e, c))
      | .ok k => let (l, o) := s.elKeys m es; ((e, k) :: l, o)

/-- Bytes of an element. -/
def VMem.bytes (m : VMem) : Nat := max 1 (m.w / 8)

/-- The memory slices of an element at a key. -/
def State.elSlices (s : State) (m : VMem) (k : Nat) : List Nat := memSlices s.strand.die k m.bytes

/-- What comes before an atomic of a VAMO at a key is performed (R61, R202, R203). -/
def State.ownVector (s : State) (m : VMem) (k : Nat) : State := s.ahead (s.access .vector (s.elSlices m k) .rw)

/-- The lines of these elements that the die has no copy of. -/
def State.linesMissing (s : State) (m : VMem) (l : List (VEl × Nat)) : List Nat :=
  ((l.filter fun p => (s.bytesAt s.strand.die p.2 m.bytes).isNone).map fun p => lineOf p.2).eraseDups

/-- Asking for lines and waiting for them all, once no write-back of theirs is in flight. -/
def State.vask (s : State) (lines : List Nat) : State :=
  if lines.any fun l => s.backInFlight s.strand.die l then s.wait .reply
  else
  let s := lines.foldl (fun u l => (u.askLine (.slice u.strand.key .access) l u.strand.die 1 true).2) s
  s.waitReply (s.reqNext - 1)

/-- The detector's checks of elements in order (R219, R426): those whose accesses are made, and the first element in conflict with the
address that DETERM reports. -/
def State.vdetect (s : State) (m : VMem) : List (VEl × Nat) → List (VEl × Nat) × Option (VEl × Nat) × State
  | [] => ([], none, s)
  | (e, k) :: l =>
    match s.detect s.strand.id k m.op.kinds with
    | .conflict => ([], some (e, 0x10), s)
    | .ok s => let (kept, o, s) := State.vdetect s m l; ((e, k) :: kept, o, s)

/-- The address that a failing element reports. -/
def failAddr (e : VEl) (code : Nat) : Word := if code = 0x10 ∨ code = 0x11 then e.va &&& ~~~(7 : Word) else e.va

/-- The distinct lines of a list of elements, in order. -/
def linesOf (l : List (VEl × Nat)) : List Nat := (l.map fun p => lineOf p.2).eraseDups

/-- One read of one line for the elements of a load that lie in it (R185): at once, or when it is performed (R203; log 11). -/
def State.readLine (s : State) (m : VMem) (l : List (VEl × Nat)) : State :=
  let slices := (l.flatMap fun p => s.elSlices m p.2).eraseDups
  let x := s.access .vector slices .r
  let far := l.any fun p => isFar p.2
  let (d, s) := if far then (false, s) else s.nextDelay
  if d then s.issue { x with loads := l.map fun p => ⟨p.2, m.bytes, .slot s.strand.q.youngest p.1.i m.w p.1.hi⟩ }
  else
    let (here, s) := if far then (s.ahead x, s.ahead x) else s.readNow x
    s.fill m.w (l.map fun p => (p.1.i, elementOf m.w p.1.hi ((here.bytesAt s.strand.die p.2 m.bytes).getD [])))

/-- Reading the elements of a load that are to be read, line by line, and its end (R422, R426). -/
def State.vread (s : State) (m : VMem) (fail : Option (VEl × Nat)) (l : List (VEl × Nat)) : State :=
  let s := (linesOf l).foldl (fun u line => u.readLine m (l.filter fun p => lineOf p.2 == line)) s
  match fail with
  | some (e, c) => s.vfail m e.i c (failAddr e c)
  | none => s.vfinish m

/-- Is byte `o` of an element, or its nibble, left to an earlier element of a higher lane of the same VSB (R424)? Shares of at most 64
bytes overlap only at strides below that. -/
def VMem.covered (m : VMem) (L : Nat) (e : VEl) (o : Nat) : Bool :=
  match m.form with
  | .lane x =>
    decide (x.toNat < 64) && (List.range e.i).any fun j =>
      let n := vNib m.form m.base m.w L (fun _ => 0) j
      let here := if m.w = 4 then 2 * e.va.toNat + e.hi.toNat else 2 * (e.va.toNat + o)
      decide (e.i % L < j % L) && decide (n ≤ here) && decide (here < n + m.w / 4)
  | _ => false

/-- What a store of one element writes: bytes, or one nibble (R184, R422), without what a higher lane of the same VSB leaves (R424). -/
def State.elWrites (s : State) (m : VMem) (e : VEl) (k : Nat) : List (Nat × Byte) × List (Nat × Bool × Byte) :=
  if m.w = 4 then ([], if m.covered s.lanes e 0 then [] else [(k, e.hi, BitVec.ofNat 8 (m.data e.i % 16))])
  else ((atKeys k (leBytes m.bytes (m.data e.i))).filter fun c => !m.covered s.lanes e (c.1 - k), [])

/-- One store of some elements: of one element, or of the elements of a lane's share that lie in one aligned 8-byte word, which is
single-copy atomic (R201, R424). Nibbles of a far line, whose copy is present now, are performed at once. -/
def State.writeWord (s : State) (m : VMem) (l : List (VEl × Nat)) : State :=
  let slices := (l.flatMap fun p => s.elSlices m p.2).eraseDups
  let ws := l.map fun p => s.elWrites m p.1 p.2
  let bytes := ws.flatMap (·.1)
  let half := ws.flatMap (·.2)
  if half.any fun h => isFar h.1 then (s.ahead (s.access .vector slices .w)).performStore s.strand.id bytes half
  else s.store .vector slices bytes half

/-- The stores that elements travel in: one each, or one for each lane and word of a VSB. -/
def VMem.stores (m : VMem) (L : Nat) (l : List (VEl × Nat)) : List (List (VEl × Nat)) :=
  match m.form with
  | .lane _ =>
    let tag := fun p : VEl × Nat => (p.1.i % L, p.2 / 8)
    (l.map tag).eraseDups.map fun t => l.filter fun p => tag p == t
  | _ => l.map fun p => [p]

/-- Performing the elements of a store in order, and its end (R183, R422). -/
def State.vwrite (s : State) (m : VMem) (fail : Option (VEl × Nat)) (l : List (VEl × Nat)) : State :=
  let s := (m.stores s.lanes l).foldl (fun u ws => u.writeWord m ws) s
  match fail with
  | some (e, c) => s.vstop m e.i c (failAddr e c)
  | none => s.vfinish m

/-- A load or store, element by element through the caches: every far line that it needs is present before it begins. -/
def State.vaccess (s : State) (m : VMem) : State :=
  let (ok, fail) := s.elKeys m m.els
  let (ok, fail) : List (VEl × Nat) × Option (VEl × Nat) := match s.cur.reply with
    | some r =>
      if r.ok then (ok, fail)
      else match ok.find? fun p => lineOf p.2 == r.addr with
        | some (e, _) => (ok.filter fun p => decide (p.1.i < e.i), some (e, 0x13))
        | none => (ok, fail)
    | none => (ok, fail)
  let needs := if m.op.loads then ok else if m.w = 4 then ok else []
  if s.cur.waitReq.isSome && s.cur.reply.isNone then s.wait .reply
  else
    let s := s.takeReply
    let missing := s.linesMissing m needs
    if !missing.isEmpty then s.vask missing
    else
      let s := ok.foldl (fun (u : State) (p : VEl × Nat) => u.used m.space p.1.va) s
      let (ok, bad, s) := s.vdetect m ok
      let fail := match bad with | some p => some p | none => fail
      if m.op.loads then s.vread m fail ok else s.vwrite m fail ok

/-! VAMO (R185, R425). -/

/-- One element on a location of this package. -/
def State.amoLocal (s : State) (m : VMem) (op : AmoOp) (e : VEl) (k : Nat) : State :=
  let sz : AtSize := if m.w = 32 then .w else .d
  let s := s.ownVector m k
  let old := s.mem.readNat k m.bytes
  let s := match ((amoOp op).new sz .rne old (m.data e.i) 0).1 with
    | some v => s.perform s.strand.die (atKeys k (leBytes m.bytes v))
    | none => s
  s.fillOne m.w e.i old

/-- Sending one element to the host or to a package, and waiting for its old value, for write-backs of its line, or for room among the
atomics that are outstanding (R250, R333, R421), or until adds that are due have reached its line (R223). -/
def State.amoSend (s : State) (m : VMem) (op : AmoOp) (e : VEl) (k : Nat) : State :=
  let s := s.mapAcc fun c => { c with vstart := BitVec.ofNat 24 e.i }
  let who := Requester.slice s.strand.key .access
  if s.backInFlight s.strand.die k || (isRemote k && s.atomicsFull (remotePa k).1) then s.wait .reply
  else if s.dueOn s.strand.die (lineOf k) then s.waitDue k
  else
    match s.detect s.strand.id k m.op.kinds with
    | .conflict => s.vstop m e.i 0x10 (failAddr e 0x10)
    | .ok s =>
      let writes := [(lineOf k, laneBytes k m.bytes)]
      let s := (s.ownVector m k).flushLine s.strand.die k 0
      if isRemote k then
        let (x, pa) := remotePa k
        let body := leBytes m.bytes (m.data e.i) ++ leBytes m.bytes 0
        let (q, s) := s.sendFlit 0x04 0 x false fun f =>
          { f with addr := BitVec.ofNat 64 pa, opx := BitVec.ofNat 32 ((amoOp op).code + (if m.w = 32 then 0 else 16)),
                   len := BitVec.ofNat 16 (2 * m.bytes), payload := body }
        let (id, s) := s.addReq who k false true s.strand.die x 0 q
        (s.writesHome writes).waitReply id
      else
        let (id, s) := s.addReq who k false false s.strand.die 0 0 0
        ((s.asksAtomic ⟨(amoOp op).code, m.bytes, BitVec.ofNat 64 (m.data e.i), 0⟩).writesHome writes).waitReply id

/-- The elements of a VAMO in ascending order; only an uncorrectable error, a conflict, a word that has left the atomics' domain since
(R224), a failed target or a pre-emption stops it among them. One that has left for the host or a package has passed its checks: it only takes its old value, behind which no older copy of the line
stays (R333). -/
def State.amoLoop (s : State) (m : VMem) (op : AmoOp) : List VEl → State
  | [] => if s.stopsBehind m then s.vstop m s.strand.acc.vl.toNat 0x17 0 else s.vfinish m
  | e :: es =>
    match s.cur.reply with
    | some r =>
      if r.ok then ((s.takeReply.outdated s.strand.die r.addr).fillOne m.w e.i (leNat (r.data.take m.bytes))).amoLoop m op es
      else s.takeReply.vstop m e.i 0x13 e.va
    | none =>
    if s.cur.waitReq.isSome then s.wait .reply
    else if (match m.stop with | some k => decide (k ≤ e.i) | none => false) then s.vstop m e.i 0x17 0
    else
    match s.elCheck m e with
    | .error c => s.vstop m e.i c e.va
    | .ok k =>
      let s := s.used m.space e.va
      if s.detDom k then s.vstop m e.i 0x11 (failAddr e 0x11)
      else if isFar k then s.amoSend m op e k
      else
        match s.detect s.strand.id k m.op.kinds with
        | .conflict => s.vstop m e.i 0x10 (failAddr e 0x10)
        | .ok s => (s.amoLocal m op e k).amoLoop m op es

/-- Step 5 of R421: the first element that fails its checks, or that a HOST page does not take; MEMERR comes later (R183). -/
def State.amoCheck (s : State) (m : VMem) (op : AmoOp) : Option (VEl × Nat) :=
  m.els.findSome? fun e =>
    match s.elPlace m e with
    | .error c => some (e, c)
    | .ok k =>
      if isFar k && !isRemote k && !(op == .add || op == .swp) then some (e, 0x08)
      else if s.detDom k then some (e, 0x11)
      else none

/-! Vector request packets (R249); the layout of a packet is the model's own (log 18). -/

/-- Package and page of an address on the REMOTE tier. -/
def State.remotePage (s : State) (m : VMem) (e : VEl) : Option (Nat × Nat) :=
  match m.space, s.elCheck m e, s.leafOf s.strand.trap.ptbr e.va.toNat with
  | .global, .ok k, some (_, level) => if isRemote k then some ((remotePa k).1, e.va.toNat / pageSize level) else none
  | _, _, _ => none

/-- Do all elements lie in one page of one REMOTE package, in a form that travels as one packet? -/
def State.onePacket (s : State) (m : VMem) : Bool :=
  (match m.form with | .stride _ | .index => true | _ => false) &&
    match m.els with
    | [] => false
    | e :: es => match s.remotePage m e with
      | none => false
      | some p => es.all fun f => s.remotePage m f == some p

/-- The operation byte of a packet. -/
def VMemOp.packetCode : VMemOp → Nat
  | .load | .loadFF => 0
  | .store => 1
  | .amo op => 2 + (amoOp op).code

/-- The base that a packet carries: that of the instruction, moved to the target's physical addresses, of which all elements share a page
with element `e` at key `k`. -/
def VMem.packetBase (m : VMem) (e : VEl) (k : Nat) : Word := m.base + (BitVec.ofNat 64 (remotePa k).2 - e.va)

/-- Bits as bytes, in whole words of 8 bytes, bit `i` telling of element `i`. -/
def maskBytes (n : Nat) (on : Nat → Bool) : List Byte :=
  (List.range ((n + 63) / 64 * 8)).map fun k =>
    BitVec.ofNat 8 (((List.range 8).filter fun b => decide (8 * k + b < n) && on (8 * k + b)).map (2 ^ ·)).sum

/-- A packet of the elements `l` (R249): operation, width code and form, the number of elements up to the last, the base and the stride, the
active mask, then the indices of an indexed form and the data of a store or an atomic. -/
def VMem.packetBytes (m : VMem) (l : List (VEl × Nat)) : List Byte :=
  let n := l.foldl (fun n p => max n (p.1.i + 1)) 0
  let base := match l with
    | (e, k) :: _ => m.packetBase e k
    | [] => 0
  let (form, stride) := match m.form with
    | .stride x => (0, x)
    | _ => (1, 0)
  leBytes 1 m.op.packetCode ++ leBytes 1 (Nat.log2 (m.w / 4)) ++ leBytes 2 form ++ leBytes 4 n ++ leBytes 8 base.toNat ++ leBytes 8 stride.toNat
    ++ maskBytes n (fun i => l.any fun p => p.1.i == i)
    ++ (if form = 1 then (List.range n).flatMap fun i => leBytes 8 (m.index i) else [])
    ++ (if m.op.takesData then (List.range n).flatMap fun i => leBytes 8 (m.data i) else [])

/-- A run of flits that carries a packet of `total` bytes, which OPX of each holds (log 18); answers the first flit's number. -/
def State.sendPacket (s : State) (typ x mark total : Nat) (bs : List Byte) : Nat → Option Nat → Nat × State
  | 0, q => (q.getD 0, s)
  | n + 1, q =>
    let part := bs.take 256
    let (r, s) := s.sendFlit typ 0 x false fun f =>
      { f with opx := BitVec.ofNat 32 total, mark := BitVec.ofNat 32 mark, len := BitVec.ofNat 16 part.length, payload := part }
    let first := some (q.getD r)
    if (bs.drop 256).isEmpty then (first.getD 0, s) else State.sendPacket s typ x mark total (bs.drop 256) n first

/-- The packet of an access leaves (R249): the dirty copies of its lines are written back first, in the FREE class (R247), and once they
are performed at home every copy is dropped; the detector sees every element, and the packet holds those before the first in conflict
(R219, R220). -/
def State.sendVector (s : State) (m : VMem) : State :=
  let die := s.strand.die
  let s := s.vectorFirst (if m.op.loads then (if m.op.isAmo then .rw else .r) else .w)
  let keys := m.els.filterMap fun e => match s.elCheck m e with | .ok k => some (e, k) | .error _ => none
  let dirty := s.l2.filter fun l => l.die == die && l.dirty ≠ 0 && !s.backInFlight die l.line && keys.any fun p => lineOf p.2 == l.line
  let s := dirty.foldl (fun u l => u.writeBackLine .hub l 1) s
  if keys.any fun p => s.backInFlight die p.2 then s.wait .reply
  else if keys.any fun p => s.dueOn die (lineOf p.2) then
    (keys.foldl (fun (u : State) p => if u.dueOn die (lineOf p.2) then u.hubLine die p.2 else u) s).wait .reply
  else
    let (ok, bad, s) := s.vdetect m keys
    let n := match bad with
      | some (e, _) => (m.els.takeWhile fun x => x.i != e.i).length
      | none => m.els.length
    match ok with
    | [] => match bad with
      | some (e, c) => s.vstop m e.i c (failAddr e c)
      | none => s.vfinish m
    | (_, k0) :: _ =>
      let s := ok.foldl (fun (u : State) p => (u.dropLine die p.2).used m.space p.1.va) s
      let writes := if m.op == .load then [] else ok.map fun p => (lineOf p.2, laneBytes p.2 m.bytes)
      let x := (remotePa k0).1
      let bs := m.packetBytes ok
      let (q, s) := s.sendPacket 0x06 x 0 bs.length bs 300 none
      let (id, s) := s.addReq (.slice s.strand.key .access) k0 false true die x 0 q
      (((s.restsOn 0 0 [(0, BitVec.ofNat 32 q, (bs.length + 255) / 256)]).writesHome writes).mapAcc fun c => { c with sent := n }).waitReply id

/-- The reply to the packet that is outstanding, which holds the first `sent` elements: they are done, behind which no older copy of their lines
stays. Where a conflict kept others back, the instruction goes on at the next element. -/
def State.packetReply (s : State) (m : VMem) : State :=
  let first := m.els.headD ⟨0, 0, false⟩
  match s.cur.reply with
  | none => s.wait .reply
  | some r =>
    let n := s.strand.acc.sent
    let s := s.takeReply.mapAcc fun c => { c with sent := 0 }
    if !r.ok then s.vstop m first.i 0x13 first.va
    else
      let done := m.els.take n
      let s := done.foldl (fun (u : State) e => match s.elPlace m e with
        | .ok k => u.outdated s.strand.die k
        | .error _ => u) s
      let s := if m.op.loads then
          s.fill m.w (done.zipIdx.map fun (e, j) => (e.i, leNat ((r.data.drop (8 * j)).take 8) % 2 ^ m.w))
        else s
      match m.els.drop n with
      | [] => s.vfinish m
      | e :: _ =>
        let s := s.mapAcc fun c => { c with vstart := BitVec.ofNat 24 e.i, stall := none }
        if m.op.loads then s.mapYoungest fun x => { x with filled := BitVec.ofNat 24 e.i } else s

/-! The instruction (R421). -/

/-- Does it travel as one packet (R249)? A VAMO does once its elements have passed their checks. -/
def State.travels (s : State) (m : VMem) : Bool :=
  s.onePacket m && match m.op with
    | .amo op => (s.amoCheck m op).isNone
    | _ => true

/-- Steps 4 to 6. What has asked for lines or for an old value, or has sent a packet, goes on with the answer. -/
def State.vmemRun (s : State) (m : VMem) : State :=
  if s.strand.acc.sent ≠ 0 then s.packetReply m
  else
    match m.els.find? fun e => e.va.toNat % m.bytes ≠ 0 with
    | some e => s.raiseAt ⟨0x04, e.va⟩
    | none =>
      match m.op with
      | .amo op =>
        if s.cur.reply.isSome || s.cur.waitReq.isSome then s.amoLoop m op m.els
        else if s.travels m then s.sendVector m
        else
          match s.amoCheck m op with
          | some (e, c) => s.raiseAt ⟨BitVec.ofNat 8 c, trapAddr c e.va⟩
          | none => s.amoLoop m op m.els
      | _ => if s.cur.reply.isNone && s.cur.waitReq.isNone && s.travels m then s.sendVector m else s.vaccess m

/-- Is an index entry legal (R60)? -/
def QSlot.indexOk (e : QSlot) (vl : BitVec 24) : Bool := (e.width == 3 || e.width == 4) && vl ≤ e.count

/-- Is a data entry legal (R60)? -/
def QSlot.dataOk (e : QSlot) (width : BitVec 3) (vl : BitVec 24) : Bool := e.width == width && vl ≤ e.count

/-- Step 3, and the instruction with its operands at hand. -/
def State.vmemQueue (s : State) (i : Instr) (op : VMemOp) (form : VForm) (base : Word) : State :=
  let c := s.strand.acc
  let nIdx := match form with | .index => 1 | _ => 0
  let nData := if op.takesData then 1 else 0
  if s.strand.q.sdq.length < nIdx + nData then s.wait .sdqShort
  else
    let none := fullEntry 0 0 0 fun _ => 0
    let idx := s.strand.q.sdq.headD none
    let data := s.strand.q.sdq.getD nIdx none
    if (nIdx == 1 && !idx.indexOk c.vl) || (nData == 1 && !data.dataOk c.width c.vl) then s.raiseAt ⟨0x02, 0⟩
    else
      let w := widthBits c.width.toNat
      (s.orderSdq (nIdx + nData)).vmemRun
        { ins := i, op := op, form := form, base := base, w := w, space := s.mspace, data := data.elem, index := idx.elem
          els := vEls form base w s.lanes idx.elem c.vstart.toNat c.vl.toNat
          stop := s.stopElement }

/-- The element at which a pre-emption was to stop the access slice has been used. -/
def State.usedStop (s t : State) : State := if s.stopElement.isSome then { t with stops := t.stops.drop 1 } else t

/-- A vector memory instruction of the access slice (R420, R421). -/
def State.vmem (s : State) (i : Instr) (op : VMemOp) (form : VForm) (base : Word) : Out :=
  s.onAccess i fun s =>
    let c := s.strand.acc
    if !c.legal || (op.isAmo && c.width ≠ 3 && c.width ≠ 4) then .next (s.raiseAt ⟨0x02, 0⟩)
    else if op == .loadFF && 32 ≤ s.strand.q.aq.length then .next (s.wait .aqFull)
    else
      match s.reserve op with
      | none => .next (s.wait .slipLimit)
      | some u => .next (s.usedStop (u.vmemQueue i op form base))

/-- VLE (R420). -/
def execVle (rs1 : Reg) (s : State) : Out := s.vmem (.vle rs1) .load .unit (s.x rs1)
/-- VLS (R420). -/
def execVls (rs1 rs2 : Reg) (s : State) : Out := s.vmem (.vls rs1 rs2) .load (.stride (s.x rs2)) (s.x rs1)
/-- VLX (R420). -/
def execVlx (rs1 : Reg) (s : State) : Out := s.vmem (.vlx rs1) .load .index (s.x rs1)
/-- VLFF (R65, R423). -/
def execVlff (rs1 : Reg) (s : State) : Out := s.vmem (.vlff rs1) .loadFF .unit (s.x rs1)
/-- VLB (R424). -/
def execVlb (rs1 rs2 : Reg) (s : State) : Out := s.vmem (.vlb rs1 rs2) .load (.lane (s.x rs2)) (s.x rs1)
/-- VSE (R420). -/
def execVse (rs1 : Reg) (s : State) : Out := s.vmem (.vse rs1) .store .unit (s.x rs1)
/-- VSS (R420). -/
def execVss (rs1 rs2 : Reg) (s : State) : Out := s.vmem (.vss rs1 rs2) .store (.stride (s.x rs2)) (s.x rs1)
/-- VSX (R420). -/
def execVsx (rs1 : Reg) (s : State) : Out := s.vmem (.vsx rs1) .store .index (s.x rs1)
/-- VSB (R424). -/
def execVsb (rs1 rs2 : Reg) (s : State) : Out := s.vmem (.vsb rs1 rs2) .store (.lane (s.x rs2)) (s.x rs1)
/-- VAMO (R425). -/
def execVamo (op : AmoOp) (rs1 : Reg) (s : State) : Out := s.vmem (.vamo op rs1) (.amo op) .index (s.x rs1)

end Sys2Proof.Machine
end

