-- ==== Sys2Proof/Machine/Func.lean ====
section
/-! DEFINITION. The function instructions: bindings and storage, the passes of R136, and the meanings (R127 to R154, R377 to
R394). FuncOps.lean dispatches them. -/

namespace Sys2Proof.Machine

/-! Descriptors (R128 to R131). -/

/-- A bound function register: its number, the fields of its descriptor, and its degree. -/
structure FuncReg where
  n : Nat
  shape : Nat
  basis : Nat
  fmt : Fmt
  span : Nat
  cap : Nat
  e : Nat
  p : Nat
  deriving DecidableEq, Repr

/-- The dimension of a SHAPE (R128). -/
def shapeDim (shape : Nat) : Nat := if shape = 3 then 0 else shape + 1

/-- The SHAPE of a face (R134). -/
def faceShape (shape : Nat) : Nat := if shape = 0 then 3 else shape - 1

/-- Bytes of an element. -/
def FuncReg.bytes (d : FuncReg) : Nat := d.fmt.width / 8
/-- The dimension. -/
def FuncReg.dim (d : FuncReg) : Nat := shapeDim d.shape
/-- Bytes of a slot (R132). -/
def FuncReg.stride (d : FuncReg) : Nat := (d.cap + 1) ^ d.dim * d.bytes

/-- The fields of a descriptor value for register `n` of degree `p`. E is taken from the fields, as PSET computes it (R131). -/
def funcReg (n raw p : Nat) : FuncReg :=
  let f := if bits raw 3 1 = 1 then Fmt.fp32 else Fmt.fp64
  let shape := bits raw 0 2
  let span := 2 ^ bits raw 4 2
  let cap := bits raw 6 4
  { n := n, shape := shape, basis := bits raw 2 1, fmt := f, span := span, cap := cap,
    e := span * 4096 / ((cap + 1) ^ shapeDim shape * (f.width / 8)), p := p }

/-- The binding that a register heads; none when it is unbound or absorbed (R127, R130). -/
def VecState.func (v : VecState) (f : FReg) : Option FuncReg :=
  let raw := (v.pdesc.get f).toNat
  if bits raw 24 1 = 1 then some (funcReg f.val raw (v.dg.get f).toNat) else none

/-- FSHAPE (R138). -/
def fshape : Trap := ⟨0x0D, 0⟩
/-- FCAP (R138). -/
def fcap : Trap := ⟨0x0C, 0⟩

/-- Agreement in SHAPE, BASIS and FMT. -/
def agrees (a b : FuncReg) : Bool := a.shape == b.shape && a.basis == b.basis && a.fmt == b.fmt

/-! Storage (R132, R269, R379). -/

/-- A physical function register. -/
def fnum (n : Nat) : FReg := Fin.ofNat 8 n

/-- `w` bits at byte `off` of a lane of a binding. -/
def VecState.fget (v : VecState) (d : FuncReg) (lane off w : Nat) : Nat :=
  bits ((v.f.get (fnum (d.n + off / 4096))).get (Fin.ofNat 32 lane)).toNat (off % 4096 * 8) w

/-- Writing `w` bits there, with the register's tag and dirty bit. -/
def VecState.fput (v : VecState) (d : FuncReg) (lane off w x : Nat) : VecState :=
  let r := fnum (d.n + off / 4096)
  let l : Fin 32 := Fin.ofNat 32 lane
  let reg := v.f.get r
  let blocks := BitVec.ofNat 7 ((off % 4096 * 8 + w + 511) / 512)
  let tag := v.fvalid.get r
  { v with
    f := v.f.set r.val (reg.set l.val (putBits (reg.get l) (off % 4096 * 8) w x) l.isLt) r.isLt
    fvalid := v.fvalid.set r.val (if tag < blocks then blocks else tag) r.isLt
    vdirty := v.vdirty ||| BitVec.ofNat 48 (2 ^ (40 + r.val)) }

/-- The coefficients of a slot at a binding's degree (R132). -/
def VecState.coefs (v : VecState) (d : FuncReg) (lane slot : Nat) : Array Nat :=
  ((List.range ((d.p + 1) ^ d.dim)).map fun i => v.fget d lane (slot * d.stride + i * d.bytes) d.fmt.width).toArray

/-- Writing coefficients from the start of a slot. -/
def VecState.putCoefs (v : VecState) (d : FuncReg) (lane slot : Nat) (xs : Array Nat) : VecState :=
  (List.range xs.size).foldl (fun (v : VecState) i =>
    v.fput d lane (slot * d.stride + i * d.bytes) d.fmt.width (xs.getD i 0)) v

/-- Writing a degree register. -/
def VecState.setDg (v : VecState) (n p : Nat) : VecState :=
  { v with dg := v.dg.set (fnum n).val (BitVec.ofNat 4 p) (fnum n).isLt }

/-- Clearing a span: +0 in every byte, tag 0, dirty (R142, R143, R379). -/
def VecState.clearSpan (v : VecState) (n span : Nat) : VecState :=
  (List.range span).foldl (fun (v : VecState) k =>
    let r := fnum (n + k)
    { v with
      f := v.f.set r.val (Vector.replicate 32 0) r.isLt
      fvalid := v.fvalid.set r.val 0 r.isLt
      vdirty := v.vdirty ||| BitVec.ofNat 48 (2 ^ (40 + r.val)) }) v

/-! Arithmetic (R136). -/

/-- The rounding of every function instruction: RNE into the register's format. -/
def roundTo (f : Fmt) (r : Val × Flags) : Nat × Flags :=
  let (y, g) := f.deliver .rne false r.1
  (y, r.2.or g)

/-- The chain of one output: fused steps from +0. -/
def chain (f : Fmt) (terms : List (Val × Val)) : Nat × Flags :=
  terms.foldl (fun (acc : Nat × Flags) t =>
    let (y, g) := roundTo f (Val.fmaExact .rne t.1 t.2 (f.decode acc.1))
    (y, acc.2.or g)) (0, .none)

/-- Pointwise results with their flags joined. -/
def joinFlags (xs : List (Nat × Flags)) : Array Nat × Flags :=
  ((xs.map (·.1)).toArray, xs.foldl (fun a x => a.or x.2) .none)

/-- A pass of a table along direction `d` of a tensor. -/
def passDir (f : Fmt) (t : OpTable) (sizes : List Nat) (d : Nat) (x : Array Nat) : Array Nat × Flags :=
  let inner := (sizes.take d).foldl (· * ·) 1
  let outer := (sizes.drop (d + 1)).foldl (· * ·) 1
  let v := x.map f.decode
  joinFlags ((List.range (inner * t.rows * outer)).map fun k =>
    chain f ((List.range t.cols).map fun j =>
      (t.at (k / inner % t.rows) j, v.getD (k % inner + inner * (j + t.cols * (k / (inner * t.rows)))) (.fin false 0 0))))

/-- Passes along the directions listed, in order. -/
def passes (f : Fmt) : List (Nat × OpTable) → List Nat → Array Nat → Array Nat × Flags
  | [], _, x => (x, .none)
  | (d, t) :: ts, sizes, x =>
    let (y, g) := passDir f t sizes d x
    let (z, h) := passes f ts (sizes.set d t.rows) y
    (z, g.or h)

/-- A transform: one pass per direction of the same table (R136). -/
def transform (f : Fmt) (dim : Nat) (t : OpTable) (x : Array Nat) : Array Nat × Flags :=
  passes f ((List.range dim).map fun d => (d, t)) (List.replicate dim t.cols) x

/-- A pointwise step. -/
def pointwise (f : Fmt) (op : Val → Val → Val × Flags) (x y : Array Nat) : Array Nat × Flags :=
  joinFlags ((List.range x.size).map fun i => roundTo f (op (f.decode (x.getD i 0)) (f.decode (y.getD i 0))))

/-- Index `idx` at degree `q`, as an index at degree `p`; none when a component exceeds `p`. -/
def reindex (p q : Nat) : Nat → Nat → Option Nat
  | 0, _ => some 0
  | d + 1, idx =>
    if p < idx % (q + 1) then none
    else (reindex p q d (idx / (q + 1))).map fun r => idx % (q + 1) + (p + 1) * r

/-- Zero extension or truncation from degree `p` to `q`, exactly (R145, R150). -/
def resize (dim p q : Nat) (x : Array Nat) : Array Nat :=
  ((List.range ((q + 1) ^ dim)).map fun i =>
    match reindex p q dim i with
    | some k => x.getD k 0
    | none => 0).toArray

/-- A Legendre-modal register; a PT register ignores its BASIS (R133). -/
def FuncReg.isGll (d : FuncReg) : Bool := d.basis == 1 && d.dim != 0

/-- An operand at degree `q` (R145): in GLL by I_{p,q} when its degree is lower, in LEG by zero extension. -/
def embed (d : FuncReg) (q : Nat) (x : Array Nat) : Array Nat × Flags :=
  if d.p = q then (x, .none)
  else if d.isGll then transform d.fmt d.dim (tableI d.fmt d.p q) x
  else (resize d.dim d.p q x, .none)

/-- Running a second step on a result. -/
def thenFlags (a : Array Nat × Flags) (k : Array Nat → Array Nat × Flags) : Array Nat × Flags :=
  let (y, g) := k a.1
  (y, a.2.or g)

/-! Running over slots (R139, R380). -/

/-- A place: window element, lane and slot. -/
structure Place where
  i : Nat
  lane : Nat
  slot : Nat
  deriving DecidableEq, Repr

/-- The least E of a list of bindings (R139). -/
def leastE (ds : List FuncReg) : Nat := (ds.map (·.e)).foldl min 65536

/-- The places of an array instruction: every lane, slots 0 to n - 1. -/
def arrayPlaces (lanes n : Nat) : List Place := (List.range n).flatMap fun sl => (List.range lanes).map fun l => ⟨0, l, sl⟩

/-- The places of a windowed instruction. -/
def State.window (s : State) (g : Gov) (sb : Word) : List Place :=
  (s.active g).map fun i => ⟨i, i % s.lanes, sb.toNat + i / s.lanes⟩

/-- Results at places into fd, all at once: an enabled flag traps FPX with no effect (R136, R118); dg takes the degree, even with
no place (R380). -/
def State.pwrite (s : State) (d : FuncReg) (deg : Nat) (res : List (Place × Array Nat × Flags)) : VOut :=
  let fl := res.foldl (fun a r => a.or r.2.2) Flags.none
  if fcsrTraps s.strand.cmp.fcsr fl then .trap s ⟨0x15, BitVec.setWidth 64 fl.toBits⟩
  else
    .done ((s.flagCompute fl).mapVec fun v =>
      (res.foldl (fun (v : VecState) r => v.putCoefs d r.1.lane r.1.slot r.2.1) v).setDg d.n deg)

/-- Results at window elements into a vector register (PINT, PEVAL). -/
def State.pwriteVec (s : State) (vd : VReg) (w : Nat) (res : List (Place × Nat × Flags)) : VOut :=
  let fl := res.foldl (fun a r => a.or r.2.2) Flags.none
  if fcsrTraps s.strand.cmp.fcsr fl then .trap s ⟨0x15, BitVec.setWidth 64 fl.toBits⟩
  else .done ((s.flagCompute fl).mapVec fun v =>
    res.foldl (fun (v : VecState) r => v.put s.lanes vd w r.1.i r.2.1) v).vdone

/-- VSTART := 0 at the end of a windowed instruction (R139). -/
def VOut.windowed (o : VOut) : VOut :=
  match o with
  | .done s => .done s.vdone
  | .trap s t => .trap s t

/-- The results of an array instruction on its sources. A slot whose sources are all +0 gives +0 and no flag without running the
passes: every pass and pointwise step of +0 is +0. -/
def State.arrayRes (s : State) (d : FuncReg) (srcs : List FuncReg) (count : Nat) (op : List (Array Nat) → Array Nat × Flags) :
    List (Place × Array Nat × Flags) :=
  (arrayPlaces s.lanes (leastE (d :: srcs))).map fun pl =>
    let xs := srcs.map fun r => s.strand.vec.coefs r pl.lane pl.slot
    if xs.all fun x => x.all (· == 0) then (pl, Array.replicate count 0, .none) else (pl, op xs)

/-- An array instruction with one source: checks of `shapes`, FCAP on the degree, then the operation. -/
def State.parray1 (s : State) (fd fs1 : FReg) (shapes : FuncReg → FuncReg → Bool) (deg : FuncReg → Nat)
    (op : FuncReg → FuncReg → Array Nat → Array Nat × Flags) : VOut :=
  match s.strand.vec.func fd, s.strand.vec.func fs1 with
  | some d, some a =>
    if !shapes d a then .trap s fshape
    else if d.cap < deg a then .trap s fcap
    else
      s.pwrite d (deg a) (s.arrayRes d [a] ((deg a + 1) ^ d.dim) fun xs => op d a (xs.headD #[]))
  | _, _ => .trap s fshape

/-- An array instruction with two agreeing sources. -/
def State.parray2 (s : State) (a : P3) (deg : FuncReg → FuncReg → FuncReg → Option Nat)
    (op : FuncReg → FuncReg → FuncReg → Array Nat → Array Nat → Array Nat × Flags) : VOut :=
  match s.strand.vec.func a.fd, s.strand.vec.func a.fs1, s.strand.vec.func a.fs2 with
  | some d, some x, some y =>
    if !(agrees d x && agrees d y) then .trap s fshape
    else
      match deg d x y with
      | none => .trap s fcap
      | some q =>
        s.pwrite d q (s.arrayRes d [x, y] ((q + 1) ^ d.dim) fun xs => op d x y (xs.headD #[]) ((xs.drop 1).headD #[]))
  | _, _, _ => .trap s fshape

/-! Array instructions. -/

/-- PMOV's effect. -/
def runPmov (fd fs1 : FReg) (s : State) : VOut := s.parray1 fd fs1 agrees (·.p) fun _ _ x => (x, .none)
/-- PZERO's effect. -/
def runPzero (fd : FReg) (s : State) : VOut :=
  match s.strand.vec.func fd with
  | some d => .done (s.mapVec fun v => (v.clearSpan d.n d.span).setDg d.n 0)
  | none => .trap s fshape
/-- A sum or difference at the larger degree (R145, R381). -/
def State.psum (s : State) (a : P3) (op : Val → Val → Val × Flags) : VOut :=
  s.parray2 a (fun d x y => if d.cap < max x.p y.p then none else some (max x.p y.p)) fun d x y u v =>
    let q := max x.p y.p
    thenFlags (embed x q u) fun u => thenFlags (embed y q v) fun v => pointwise d.fmt op u v

/-- PADD's effect. -/
def runPadd (a : P3) (s : State) : VOut := s.psum a fun x y => x.addExact .rne y
/-- PSUB's effect. -/
def runPsub (a : P3) (s : State) : VOut := s.psum a fun x y => x.addExact .rne y.negate
/-- The product of two operands of degrees p1 and p2 with result degree c under a mode (R146). -/
def product (mode : PMode) (c : Nat) (x y : FuncReg) (u v : Array Nat) : Array Nat × Flags :=
  let f := x.fmt
  let dim := x.dim
  let full := x.p + y.p
  let m := if full ≤ c then full else if mode = .coll then c else full
  let mul := pointwise f fun a b => a.mulExact b
  if dim = 0 then mul u v
  else if x.isGll then
    let r := thenFlags (transform f dim (tableI f x.p m) u) fun u =>
      thenFlags (transform f dim (tableI f y.p m) v) fun v => mul u v
    if m ≤ c then r else thenFlags r (transform f dim (tablePi f m c))
  else
    thenFlags (transform f dim (tableV f (m + 1) (x.p + 1)) u) fun u =>
      thenFlags (transform f dim (tableV f (m + 1) (y.p + 1)) v) fun v =>
        thenFlags (mul u v) (transform f dim (tableB f (m + 1) (min full c + 1)))

/-- PMUL's effect. -/
def runPmul (mode : PMode) (a : P3) (s : State) : VOut :=
  s.parray2 a (fun d x y => if x.p + y.p ≤ d.cap then some (x.p + y.p) else if mode = .exact then none else some d.cap)
    fun d x y u v => product mode d.cap x y u v
/-- The direction of PDIFF, from 0. -/
def dirIndex : PDir → Nat
  | .d1 => 0
  | .d2 => 1
  | .d3 => 2

/-- A derivative (R149, R384): in LEG a pass of Dl along the direction and of the truncated identity along the others, in
ascending order of the directions; the zero function at degree 0. In GLL a pass of Dg. -/
def derivative (k : Nat) (d : FuncReg) (x : Array Nat) : Array Nat × Flags :=
  let n := d.p + 1
  if d.isGll then passDir d.fmt (tableDg d.fmt d.p) (List.replicate d.dim n) k x
  else if d.p = 0 then (#[0], .none)
  else
    passes d.fmt ((List.range d.dim).map fun j => (j, if j = k then tableDl d.fmt d.p d.p else tableId d.fmt d.p d.p))
      (List.replicate d.dim n) x

/-- PDIFF's effect. -/
def runPdiff (dir : PDir) (fd fs1 : FReg) (s : State) : VOut :=
  s.parray1 fd fs1 (fun d a => agrees d a && dirIndex dir < a.dim) (fun a => if a.isGll then a.p else a.p - 1)
    fun _ a x => derivative (dirIndex dir) a x
/-- A projection onto degree `q` in the destination's basis (R150, R393). -/
def project (q : Nat) (d a : FuncReg) (x : Array Nat) : Array Nat × Flags :=
  let f := a.fmt
  let dim := a.dim
  if dim = 0 then (x, .none)
  else if a.isGll then
    if d.isGll then transform f dim (if a.p ≤ q then tableI f a.p q else tablePi f a.p q) x
    else if a.p ≤ q then
      let (y, g) := transform f dim (tableM f a.p (a.p + 1)) x
      (resize dim a.p q y, g)
    else transform f dim (tableM f a.p (q + 1)) x
  else if d.isGll then
    if a.p ≤ q then transform f dim (tableG f a.p q) x else transform f dim (tableG f q q) (resize dim a.p q x)
  else (resize dim a.p q x, .none)

/-- PPROJ's effect. -/
def runPproj (fd fs1 : FReg) (q : BitVec 4) (s : State) : VOut :=
  s.parray1 fd fs1 (fun d a => d.shape == a.shape && d.fmt == a.fmt) (fun _ => q.toNat) (project q.toNat)
/-- A trace on a face (R151, R394). -/
def trace (face : Nat) (a : FuncReg) (x : Array Nat) : Array Nat × Flags :=
  let n := a.p + 1
  let k := face / 2
  if a.isGll then
    let pick := if face % 2 = 1 then a.p else 0
    (((List.range (n ^ (a.dim - 1))).map fun i => x.getD (i % n ^ k + n ^ k * (pick + n * (i / n ^ k))) 0).toArray, .none)
  else passDir a.fmt (tableTrace a.fmt a.p (face % 2 = 1)) (List.replicate a.dim n) k x

/-- PTRACE's effect. -/
def runPtrace (fd fs1 : FReg) (face : BitVec 3) (s : State) : VOut :=
  s.parray1 fd fs1
    (fun d a => a.dim != 0 && face.toNat < 2 * a.dim && d.shape == faceShape a.shape && d.basis == a.basis && d.fmt == a.fmt)
    (·.p) fun _ a x => trace face.toNat a x
/-! Windowed instructions. -/

/-- Steps 3 and 4 of R138 for a windowed instruction: VTYPE.WIDTH, bindings and their agreement, and the slots. The register format of
step 3 is that of fs1; while fs1 is unbound there is none, and FSHAPE comes first (log 61). -/
def State.pwindow (s : State) (fs1 : FReg) (others : List FReg) (g : Gov) (sb : Word)
    (run : FuncReg → List FuncReg → List Place → VOut) : VOut :=
  match s.strand.vec.func fs1 with
  | none => .trap s fshape
  | some a =>
    let ds := others.filterMap s.strand.vec.func
    let win := s.window g sb
    let n := leastE (a :: ds)
    if s.vw ≠ a.fmt.width then .trap s ⟨0x02, 0⟩
    else if ds.length ≠ others.length || !(ds.all fun d => agrees a d) || win.any fun pl => n ≤ pl.slot then .trap s fshape
    else run a ds win

/-- PSCL's effect. -/
def runPscl (a : PSclArgs) (xs : Word) (s : State) : VOut :=
  s.pwindow a.fs1 [a.fd] a.gov xs fun x ds win =>
    match ds with
    | [d] =>
      if d.cap < x.p then .trap s fcap
      else
        (s.pwrite d x.p (win.map fun pl =>
          let k := x.fmt.decode (s.vget a.vs x.fmt.width pl.i)
          (pl, joinFlags ((s.strand.vec.coefs x pl.lane pl.slot).toList.map fun c =>
            roundTo x.fmt (k.mulExact (x.fmt.decode c)))))).windowed
    | _ => .trap s fshape
/-- PAXPY's effect. -/
def runPaxpy (a : PWinArgs) (xs : Word) (s : State) : VOut :=
  s.pwindow a.fs1 [a.fs2, a.fd] a.gov xs fun x ds win =>
    match ds with
    | [y, d] =>
      if x.p ≠ y.p then .trap s fshape
      else if d.cap < x.p then .trap s fcap
      else
        (s.pwrite d x.p (win.map fun pl =>
          let k := x.fmt.decode (s.vget a.vs x.fmt.width pl.i)
          let u := s.strand.vec.coefs x pl.lane pl.slot
          let v := s.strand.vec.coefs y pl.lane pl.slot
          (pl, pointwise x.fmt (fun p q => Val.fmaExact .rne k p q) u v))).windowed
    | _ => .trap s fshape
/-- PINT's value (R153, R388). -/
def integral (x : FuncReg) (w : Array Val) (c : Array Nat) : Nat × Flags :=
  if x.dim = 0 then (c.getD 0 0, .none)
  else if x.isGll then
    chain x.fmt ((List.range c.size).map fun i => (w.getD i (.fin false 0 0), x.fmt.decode (c.getD i 0)))
  else roundTo x.fmt ((x.fmt.decode (c.getD 0 0)).mulExact (.fin false (2 ^ x.dim) 0))

/-- PINT's effect. -/
def runPint (a : PVecArgs) (xs : Word) (s : State) : VOut :=
  s.pwindow a.fs1 [] a.gov xs fun x _ win =>
    let w := if x.isGll then tableW x.fmt x.p x.dim else #[]
    s.pwriteVec a.vd x.fmt.width (win.map fun pl => (pl, integral x w (s.strand.vec.coefs x pl.lane pl.slot)))
/-- The basis values of one direction at a coordinate (R154), each rounded once. -/
def basisRow (x : FuncReg) (nodes : Array Int) (c : Val) : OpTable × Flags :=
  match c with
  | .fin n m e =>
    let (k, sh) := dyadic n m e
    let (vs, fl) := joinFlags ((List.range (x.p + 1)).map fun j =>
      roundTo x.fmt (if x.isGll then gllBasis x.p nodes j k sh else legExact j k sh, .none))
    (⟨1, x.p + 1, vs.map x.fmt.decode⟩, fl)
  | _ => (⟨1, 0, #[]⟩, .none)

/-- PEVAL's value at a point (R154, R385). -/
def evaluate (x : FuncReg) (nodes : Array Int) (pt : List Val) (c : Array Nat) : Nat × Flags :=
  if x.dim = 0 then (c.getD 0 0, .none)
  else if pt.any fun v => v.isNaN || v.isInf then
    (x.fmt.defaultNaN, .invalidIf (pt.any fun v => v.isSNaN || v.isInf))
  else
    let rows := pt.map (basisRow x nodes)
    let fl := rows.foldl (fun a r => a.or r.2) Flags.none
    let (y, g) := passes x.fmt ((List.range x.dim).zip (rows.map (·.1))) (List.replicate x.dim (x.p + 1)) c
    (y.getD 0 0, fl.or g)

/-- PEVAL's effect. -/
def runPeval (a : PVecArgs) (xs : Word) (s : State) : VOut :=
  s.pwindow a.fs1 [] a.gov xs fun x _ win =>
    let nodes := if x.isGll then gllNodes x.p else #[]
    s.pwriteVec a.vd x.fmt.width (win.map fun pl =>
      let pt := (List.range x.dim).map fun d => x.fmt.decode (s.vget (vnum (a.vd.val + d)) x.fmt.width pl.i)
      (pl, evaluate x nodes pt (s.strand.vec.coefs x pl.lane pl.slot)))
/-- The bits that an orientation code may set (R135). -/
def codeMask (shape : Nat) : Nat := if shape = 3 then 0 else if shape = 0 then 1 else 7

/-- The sign of a value flipped in its format. -/
def flipSign (f : Fmt) (x : Nat) : Nat := x ^^^ 2 ^ (f.width - 1)

/-- A right trace reoriented by its code (R135), exactly. -/
def reorient (d : FuncReg) (code : Nat) (x : Array Nat) : Array Nat :=
  let p := d.p
  let n := p + 1
  let swap := d.dim = 2 && code.testBit 0
  let f1 := if d.dim = 2 then code.testBit 1 else code.testBit 0
  let f2 := code.testBit 2
  ((List.range (n ^ d.dim)).map fun i =>
    let j1 := i % n
    let j2 := i / n
    let flip := fun (b : Bool) j => if b && d.isGll then p - j else j
    let (a, b) := if swap then (flip f2 j2, flip f1 j1) else (flip f1 j1, flip f2 j2)
    let y := x.getD (if d.dim = 2 then a + n * b else a) 0
    if !d.isGll && ((f1 && j1 % 2 = 1) != (d.dim == 2 && f2 && j2 % 2 = 1)) then flipSign d.fmt y else y).toArray

/-- PJUMP and PAVG (R152, R382). -/
def State.pface (s : State) (a : PWinArgs) (xs : Word) (op : Val → Val → Val × Flags) : VOut :=
  s.pwindow a.fs1 [a.fs2, a.fd] a.gov xs fun l ds win =>
    match ds with
    | [r, d] =>
      let q := max l.p r.p
      if l.shape = 2 || win.any (fun pl => codeMask l.shape < s.vget a.vs l.fmt.width pl.i) then .trap s fshape
      else if d.cap < q then .trap s fcap
      else
        (s.pwrite d q (win.map fun pl =>
          let u := s.strand.vec.coefs l pl.lane pl.slot
          let v := reorient r (s.vget a.vs l.fmt.width pl.i) (s.strand.vec.coefs r pl.lane pl.slot)
          (pl, thenFlags (embed l q u) fun u => thenFlags (embed r q v) fun v => pointwise l.fmt op u v))).windowed
    | _ => .trap s fshape

/-- PJUMP's effect: l - ρ. -/
def runPjump (a : PWinArgs) (xs : Word) (s : State) : VOut := s.pface a xs fun x y => x.addExact .rne y.negate
/-- PAVG's effect: (l + ρ) / 2 with one rounding. -/
def runPavg (a : PWinArgs) (xs : Word) (s : State) : VOut :=
  s.pface a xs fun x y => let (v, g) := x.addExact .rne y; (v.scale (-1), g)
/-! Queues and control. -/

/-- PPOP's effect on the head of LDQ, which is FULL: VTYPE leaves the entry in LDQ (R144, R391). -/
def runPpop (fd : FReg) (xs : Word) (s : State) : VOut :=
  match s.strand.vec.func fd, s.strand.q.ldq with
  | some d, e :: _ =>
    let w := widthBits e.width.toNat
    if e.count.toNat * w ≠ 512 * s.lanes then .trap s ⟨0x02, 0⟩
    else
      .done (s.popLdq.mapVec fun v => (List.range s.lanes).foldl (fun (v : VecState) l =>
        let x := (List.range (512 / w)).foldl (fun x k => x + e.elem (k * s.lanes + l) * 2 ^ (k * w)) 0
        v.fput d l (64 * xs.toNat) 512 x) v)
  | _, _ => .trap s fshape
/-- PPUSH's effect (R144, R392). -/
def runPpush (fs1 : FReg) (xs : Word) (mark : Nat) (s : State) : VOut :=
  match s.strand.vec.func fs1 with
  | some d =>
    let w := d.fmt.width
    let e := fullEntry (512 * s.lanes / w) (if w = 64 then 4 else 3) mark fun i =>
      s.strand.vec.fget d (i % s.lanes) (64 * xs.toNat + i / s.lanes * d.bytes) w
    .done (s.mapQ fun q => { q with sdq := q.sdq ++ [e] })
  | none => .trap s fshape
/-- Unbinding every binding that shares a physical register with a span (R142). -/
def VecState.unbind (v : VecState) (n span : Nat) : VecState :=
  (List.range 8).foldl (fun (v : VecState) h =>
    match v.func (fnum h) with
    | some d =>
      if h < n + span ∧ n < h + d.span then
        { v with
          pdesc := v.pdesc.set (fnum h).val 0 (fnum h).isLt
          dg := v.dg.set (fnum h).val 0 (fnum h).isLt }
      else v
    | none => v) v

/-- The values of xs that PSET takes (R142, R386): no bit above 24, and CAP 0 for PT. -/
def psetOk (x : Word) : Bool := x.toNat < 2 ^ 25 && !(bits x.toNat 0 2 == 3 && bits x.toNat 6 4 != 0)

/-- PSET's effect (R142). -/
def runPset (fd : FReg) (xs : Word) (s : State) : VOut :=
  let d := funcReg fd.val xs.toNat 0
  if fd.val % d.span ≠ 0 || d.e = 0 then .trap s fshape
  else
    .done (s.mapVec fun v =>
      let v := (v.unbind d.n d.span).clearSpan d.n d.span
      { v with pdesc := v.pdesc.set fd.val (BitVec.ofNat 25 (bits xs.toNat 0 10 + d.e * 2 ^ 10 + 2 ^ 24)) fd.isLt }.setDg d.n 0)
/-- PSET.DG's effect (R142, R386). -/
def runPsetDg (fd : FReg) (xs : Word) (s : State) : VOut :=
  match s.strand.vec.func fd with
  | some d => if d.cap < xs.toNat then .trap s fcap else .done (s.mapVec fun v => v.setDg d.n xs.toNat)
  | none => .trap s fshape
/-- PGET's effect: the descriptor, 0 when unbound (R387). -/
def runPget (rd : Reg) (fs1 : FReg) (s : State) : VOut :=
  .done (s.setX rd (match s.strand.vec.func fs1 with
    | some _ => BitVec.setWidth 64 (s.strand.vec.pdesc.get fs1)
    | none => 0))
/-- PGET.DG's effect. -/
def runPgetDg (rd : Reg) (fs1 : FReg) (s : State) : VOut :=
  .done (s.setX rd (match s.strand.vec.func fs1 with
    | some d => BitVec.ofNat 64 d.p
    | none => 0))

end Sys2Proof.Machine
end

