-- ==== Sys2Proof/Machine/FuncOps.lean ====
section
/-! DEFINITION. The dispatch of the function instructions: their checks against the descriptors that the older instructions of the vector
instruction queue leave, and the queue (R98, R138, R377, R378). -/

namespace Sys2Proof.Machine

/-- The degree that a register has. -/
def VecState.degree (v : VecState) (f : FReg) : Nat := (v.dg.get f).toNat

/-- The descriptors and degrees after a function instruction that has passed its checks, with the scalar it read (R138). -/
def VecState.nextDesc (v : VecState) (i : Instr) (x : Word) : VecState :=
  let setTo := fun (f : FReg) (p : Nat) => v.setDg f.val p
  match i with
  | .pmov d a => setTo d (v.degree a)
  | .pzero d => setTo d 0
  | .padd a | .psub a => setTo a.fd (max (v.degree a.fs1) (v.degree a.fs2))
  | .pmul _ a =>
    let n := v.degree a.fs1 + v.degree a.fs2
    setTo a.fd (match v.func a.fd with | some d => min n d.cap | none => n)
  | .pdiff _ d a => setTo d (match v.func a with | some r => if r.isGll then r.p else r.p - 1 | none => 0)
  | .pproj d _ q => setTo d q.toNat
  | .ptrace d a _ => setTo d (v.degree a)
  | .pscl a => setTo a.fd (v.degree a.fs1)
  | .paxpy a => setTo a.fd (v.degree a.fs1)
  | .pjump a | .pavg a => setTo a.fd (max (v.degree a.fs1) (v.degree a.fs2))
  | .pset f _ =>
    let d := funcReg f.val x.toNat 0
    { v.unbind d.n d.span with
      pdesc := (v.unbind d.n d.span).pdesc.set f.val (BitVec.ofNat 25 (bits x.toNat 0 10 + d.e * 2 ^ 10 + 2 ^ 24)) f.isLt }.setDg d.n 0
  | .psetDg f _ => setTo f x.toNat
  | _ => v

/-- Does an entry of the vector instruction queue leave VSTART as it finds it? Vector instructions and windowed P-instructions write 0 when
they complete (R83, R139). -/
def leavesStart (i : Instr) : Bool :=
  isMarker i || isFence i || isSyncMatrix i ||
    match i with
    | .mma _ | .mzero .. | .pmov .. | .pzero _ | .padd _ | .psub _ | .pmul .. | .pdiff .. | .pproj .. | .ptrace .. | .ppop .. | .ppush ..
    | .pset .. | .psetDg .. | .pget .. | .pgetDg .. => true
    | _ => false

/-- VSTART of the compute slice behind the vector instruction queue; none behind a VISECT or a VHACC, which may end at an element (R196,
R197). -/
def State.startAhead (s : State) : Option (BitVec 24) :=
  s.strand.q.viq.foldl (fun o e =>
    match e.ins with
    | .visect _ | .vhacc _ => none
    | i => if leavesStart i then o else some 0) (some s.strand.cmp.vstart)

/-- Is an older instruction in the vector instruction queue yet to write a vector register, a mask or the VSTART that the checks of a windowed
instruction read? -/
def State.windowPending (s : State) (vs : List (Fin 32)) (g : Gov) : Bool := s.startAhead.isNone || s.sourcesPending vs g

/-- The state that the checks of a function instruction see: the descriptors and VSTART as the queue leaves them (markers change neither),
and no data, which no check reads. -/
def State.pahead (s : State) : State :=
  if s.strand.q.viq.all fun e => isMarker e.ins then s
  else
    let v := s.strand.q.viq.foldl (fun (v : VecState) e => v.nextDesc e.ins e.scalar) s.strand.vec
    ((s.mapVec fun _ => { v with f := Vector.replicate 8 (Vector.replicate 32 0) })).mapCmp fun c => { c with vstart := s.startAhead.getD 0 }

/-- The dispatch of a function instruction: step 1 of R138 (`ok`), step 2, then the rest as `run` makes it. With an empty queue it runs at
once. Otherwise it is checked against what the queue leaves and joins the queue; it holds dispatch while the checks read a register that
the queue is yet to write (`pending`), and while a flag is enabled (R378). -/
def State.pdispatch (s : State) (i : Instr) (sc : Word) (pending ok : State → Bool) (run : State → VOut) : Out :=
  s.onCompute i fun s =>
    if !ok s.pahead then .next (s.illegal i)
    else s.vready fun s =>
      if s.strand.q.viq.isEmpty then .next ((run s).finish 4)
      else if pending s || fcsrEn s.strand.cmp.fcsr ≠ 0 then .next (s.wait .viqBusy)
      else
        match run s.pahead with
        | .trap _ t => .next (s.raise t)
        | .done _ => s.vissue i sc 0 false 4 run

/-- PMOV (R143, R389): bit for bit. -/
def execPmov (fd fs1 : FReg) (s : State) : Out := s.pdispatch (.pmov fd fs1) 0 (fun _ => false) (fun _ => true) (runPmov fd fs1)

/-- PZERO (R143, R389). -/
def execPzero (fd : FReg) (s : State) : Out := s.pdispatch (.pzero fd) 0 (fun _ => false) (fun _ => true) (runPzero fd)

/-- PADD (R145, R381). -/
def execPadd (a : P3) (s : State) : Out := s.pdispatch (.padd a) 0 (fun _ => false) (fun _ => true) (runPadd a)

/-- PSUB (R145, R381). -/
def execPsub (a : P3) (s : State) : Out := s.pdispatch (.psub a) 0 (fun _ => false) (fun _ => true) (runPsub a)

/-- PMUL (R146, R390). -/
def execPmul (mode : PMode) (a : P3) (s : State) : Out := s.pdispatch (.pmul mode a) 0 (fun _ => false) (fun _ => true) (runPmul mode a)

/-- PDIFF (R149, R384). -/
def execPdiff (dir : PDir) (fd fs1 : FReg) (s : State) : Out :=
  s.pdispatch (.pdiff dir fd fs1) 0 (fun _ => false) (fun _ => true) (runPdiff dir fd fs1)

/-- PPROJ (R150, R393). -/
def execPproj (fd fs1 : FReg) (q : BitVec 4) (s : State) : Out := s.pdispatch (.pproj fd fs1 q) 0 (fun _ => false) (fun _ => true) (runPproj fd fs1 q)

/-- PTRACE (R151, R394); faces 6 and 7 are ILLEGAL. -/
def execPtrace (fd fs1 : FReg) (face : BitVec 3) (s : State) : Out :=
  s.pdispatch (.ptrace fd fs1 face) 0 (fun _ => false) (fun _ => face.toNat < 6) (runPtrace fd fs1 face)

/-- PSCL (R148, R383). -/
def execPscl (a : PSclArgs) (s : State) : Out := s.pdispatch (.pscl a) (s.x a.xs) (·.windowPending [] a.gov) (fun _ => true) (runPscl a (s.x a.xs))

/-- PAXPY (R148, R383). -/
def execPaxpy (a : PWinArgs) (s : State) : Out := s.pdispatch (.paxpy a) (s.x a.xs) (·.windowPending [] a.gov) (fun _ => true) (runPaxpy a (s.x a.xs))

/-- PINT (R153, R388). -/
def execPint (a : PVecArgs) (s : State) : Out := s.pdispatch (.pint a) (s.x a.xs) (·.windowPending [] a.gov) (fun _ => true) (runPint a (s.x a.xs))

/-- PEVAL (R154, R385): coordinate registers beyond v31 are ILLEGAL. -/
def execPeval (a : PVecArgs) (s : State) : Out :=
  s.pdispatch (.peval a) (s.x a.xs) (·.windowPending [] a.gov)
    (fun s => match s.strand.vec.func a.fs1 with
      | some x => a.vd.val + x.dim ≤ 32
      | none => true) (runPeval a (s.x a.xs))

/-- PJUMP (R152, R382). -/
def execPjump (a : PWinArgs) (s : State) : Out := s.pdispatch (.pjump a) (s.x a.xs) (·.windowPending [a.vs] a.gov) (fun _ => true) (runPjump a (s.x a.xs))

/-- PAVG (R152, R382). -/
def execPavg (a : PWinArgs) (s : State) : Out := s.pdispatch (.pavg a) (s.x a.xs) (·.windowPending [a.vs] a.gov) (fun _ => true) (runPavg a (s.x a.xs))

/-- PPOP (R144, R391): FSHAPE before the pop; then it binds to its slot as a VPOP does, and VTYPE when that slot has come and does not
fit. While a flag is enabled, or while the slot does not fit, it holds dispatch until the slot is FULL. -/
def execPpop (fd : FReg) (xs : Reg) (s : State) : Out :=
  s.onCompute (.ppop fd xs) fun s => s.vready fun s =>
    match s.pahead.strand.vec.func fd with
    | none => .next (s.raise fshape)
    | some d =>
      if d.span * 64 ≤ (s.x xs).toNat then .next (s.raise fshape)
      else
        match s.strand.q.ldq[s.strand.q.boundPops]? with
        | none => .next (s.wait .popUnreserved)
        | some e =>
          let holds := fcsrEn s.strand.cmp.fcsr ≠ 0 || e.count.toNat * widthBits e.width.toNat ≠ 512 * s.lanes
          if holds && !(s.strand.q.viq.isEmpty && e.full) then .next (s.wait .popFilling)
          else s.vpopIssue (.ppop fd xs) (s.x xs) (runPpop fd (s.x xs))

/-- PPUSH (R144, R392): FSHAPE, then it waits while SDQ is full. -/
def execPpush (fs1 : FReg) (xs : Reg) (s : State) : Out :=
  s.onCompute (.ppush fs1 xs) fun s => s.vready fun s =>
    match s.pahead.strand.vec.func fs1 with
    | none => .next (s.raise fshape)
    | some d =>
      if d.span * 64 ≤ (s.x xs).toNat then .next (s.raise fshape)
      else if fcsrEn s.strand.cmp.fcsr ≠ 0 && !s.strand.q.viq.isEmpty then .next (s.wait .viqBusy)
      else s.vpushIssue (.ppush fs1 xs) (s.x xs) (runPpush fs1 (s.x xs) s.strand.issued)

/-- PSET (R142, R386). -/
def execPset (fd : FReg) (xs : Reg) (s : State) : Out :=
  s.pdispatch (.pset fd xs) (s.x xs) (fun _ => false) (fun _ => psetOk (s.x xs)) (runPset fd (s.x xs))

/-- PSET.DG (R142, R386). -/
def execPsetDg (fd : FReg) (xs : Reg) (s : State) : Out :=
  s.pdispatch (.psetDg fd xs) (s.x xs) (fun _ => false) (fun _ => (s.x xs).toNat ≤ 15) (runPsetDg fd (s.x xs))

/-- PGET (R142, R387). -/
def execPget (rd : Reg) (fs1 : FReg) (s : State) : Out := s.pdispatch (.pget rd fs1) 0 (fun _ => false) (fun _ => true) (runPget rd fs1)

/-- PGET.DG (R142, R387). -/
def execPgetDg (rd : Reg) (fs1 : FReg) (s : State) : Out := s.pdispatch (.pgetDg rd fs1) 0 (fun _ => false) (fun _ => true) (runPgetDg rd fs1)

end Sys2Proof.Machine
end

