-- ==== Sys2Proof/Machine/Matrix.lean ====
section
/-! DEFINITION. The matrix unit (R156 to R172, R369 to R372). All of its instructions go through the vector instruction queue to the strand's
matrix queue; MLDB, MLDB.P, MLDACC and MST hold dispatch until they have completed. -/

namespace Sys2Proof.Machine

/-- An empty panel (R156). -/
def Panel.empty : Panel := ⟨none, false, false, 0, 0, 0⟩
/-- A tile after placement (R156). -/
def Tile.start : Tile := ⟨false, 0⟩

/-- The gang of the strand in focus. -/
def State.gang (s : State) : Gang := s.gangOf s.strand.id
/-- A panel of the gang. -/
def State.panel (s : State) (n : Nat) : Panel := assocGet Panel.empty s.gang.panels n
/-- A tile of the gang. -/
def State.tile (s : State) (n : Nat) : Tile := assocGet Tile.start s.gang.tiles n
/-- Replacing a panel. -/
def State.setPanel (s : State) (n : Nat) (p : Panel) : State :=
  s.mapGang s.strand.id fun g => { g with panels := assocSet g.panels n p }
/-- Replacing a tile. -/
def State.setTile (s : State) (n : Nat) (t : Tile) : State :=
  s.mapGang s.strand.id fun g => { g with tiles := assocSet g.tiles n t }

/-! Formats (R157). -/

/-- A formats for FP32 tiles. -/
def matAFlt : Fmt → Bool
  | .bf16 | .fp16 | .t8 | .e4m3 | .e2m3 | .t6 | .e5m2 | .e3m2 | .e2m1 => true
  | _ => false
/-- B formats for FP32 tiles. -/
def matBFlt : Fmt → Bool
  | .e4m3 | .e5m2 | .e2m3 | .e3m2 | .e2m1 | .t8 | .t6 => true
  | _ => false
/-- Formats for I32 tiles. -/
def matInt : Fmt → Bool
  | .i8 | .n8 | .i4 | .n4 => true
  | _ => false
/-- The B formats. -/
def matB (f : Fmt) : Bool := matBFlt f || matInt f

/-- Does a format code's format and the panel's tag agree? -/
def tagIs (p : Panel) (f : Fmt) : Bool := p.tag == some (BitVec.ofNat 5 f.code)

/-! The matrix queue (R167). -/

/-- The panel that a queued instruction uses. -/
def MqEntry.panel (e : MqEntry) : Option Nat :=
  match e.ins with
  | .mma a => some a.panel.val
  | _ => none
/-- The tile that a queued instruction uses. -/
def MqEntry.tile (e : MqEntry) : Option Nat :=
  match e.ins with
  | .mma a => some a.acc.val
  | .mzero n _ => some n.val
  | _ => none

/-- The matrix queues of the gang's strands, one after another. -/
def State.gangMq (s : State) : List MqEntry :=
  ((s.strands.filter fun t => t.id.lid == s.strand.id.lid && t.id.squad == s.strand.id.squad && t.id.gang == s.strand.id.gang).map
    (·.q.mq)).flatten

/-- Is the panel's macro idle: no MMA on it has been granted and has yet to end? -/
def State.panelIdle (s : State) (n : Nat) : Bool := !(s.gangMq.any fun e => e.granted && e.panel == some n)
/-- Is the tile idle? -/
def State.tileIdle (s : State) (n : Nat) : Bool := !(s.gangMq.any fun e => e.granted && e.tile == some n)

/-- May the head of a matrix queue be granted (R167)? -/
def State.grantable (s : State) (e : MqEntry) : Bool :=
  e.wait == 0 && (match e.panel with | some n => s.panelIdle n | none => true) && (match e.tile with | some n => s.tileIdle n | none => true)

/-! The product (R164). -/

/-- The exact products of one output element, and their group sum (R120, R121). -/
def matDot (f : FmtWord) (terms : List (Val × Val)) : Val × Flags :=
  let ps := terms.map fun t => t.1.mulExact t.2
  let (v, g) := if f.src1.width = 16 then windowSum f.rnd (ps.map (·.1)) else exactSum f.rnd (ps.map (·.1))
  (v, ps.foldl (fun a p => a.or p.2) g)

/-- K rows that a panel covers (R161, R164). -/
def Panel.depth (p : Panel) : Nat := if p.pruned then 128 else 64

/-- The K position of weight (j, n) of a panel (R161). -/
def Panel.pos (p : Panel) (j n : Nat) : Nat :=
  if p.pruned then 4 * (j / 2) + bits p.index.toNat (4 * (256 * j + n)) 2 else j

/-- Element i of A: its value, scaled by vs + 1 when SCALED is 1 (R114, R164). -/
def matA (f : FmtWord) (L : Nat) (e : MqEntry) (i : Nat) : Val :=
  let v := f.src1.decode (elemAt L f.src1.width e.a i)
  if f.scaled then applyScale v (elemAt L 8 e.scales (i / 32)) else v

/-- Weight (j, n) of a panel, with its scale. -/
def matW (f : FmtWord) (p : Panel) (j n : Nat) : Val :=
  let v := f.src2.decode (bits p.weights.toNat (8 * (256 * j + n)) 8)
  if p.scaled then applyScale v (bits p.scales.toNat (8 * (256 * (j / 32) + n)) 8) else v

/-- Does an MMA fit the panel and tile as they stand (R164)? -/
def mmaFits (f : FmtWord) (p : Panel) (t : Tile) : Bool :=
  tagIs p f.src2 && f.scaled == p.scaled
    && (if t.isInt then matInt f.src1 && matInt f.src2 && f.dst == .i32 else matAFlt f.src1 && matBFlt f.src2 && f.dst == .fp32)

/-- The new element (r, n) of a tile, with its flags (R164). -/
def mmaElem (f : FmtWord) (p : Panel) (t : Tile) (a : Array Val) (w : Array Val) (r n : Nat) : Nat × Flags :=
  let acc := bits t.data.toNat (32 * (256 * r + n)) 32
  let terms := (List.range 64).map fun j =>
    (a.getD (p.depth * r + p.pos j n) (.fin false 0 0), w.getD (256 * j + n) (.fin false 0 0))
  if t.isInt then
    let sum := terms.foldl (fun (x : Int) q => match q.1, q.2 with
      | .fin n1 m1 _, .fin n2 m2 _ => x + (if n1 != n2 then -((m1 * m2 : Nat) : Int) else ((m1 * m2 : Nat) : Int))
      | _, _ => x) (Fmt.i32.decodeInt acc)
    (Fmt.i32.deliverInt f.sat sum, .none)
  else
    let (v, g) := matDot f terms
    let (y, h) := (Fmt.fp32.decode acc).addExact f.rnd v
    let (z, k) := Fmt.fp32.deliver f.rnd f.sat y
    (z, (g.or h).or k)

/-- A tile of 32-bit elements, as one number. -/
def packTile (xs : List Nat) : BitVec 262144 := BitVec.ofNat 262144 (leNat ((xs.map fun x => leBytes 4 x).flatten))

/-- The tile after an MMA, and its flags: rows M to 31 keep their values. -/
def mmaTile (f : FmtWord) (L : Nat) (p : Panel) (t : Tile) (e : MqEntry) : Tile × Flags :=
  let rows := e.vl / p.depth
  let a := ((List.range e.vl).map (matA f L e)).toArray
  let w := ((List.range 16384).map fun i => matW f p (i / 256) (i % 256)).toArray
  let res := (List.range (rows * 256)).map fun i => mmaElem f p t a w (i / 256) (i % 256)
  let rest := ((List.range (32 * 256)).drop (rows * 256)).map fun i => bits t.data.toNat (32 * i) 32
  ({ t with data := packTile (res.map (·.1) ++ rest) }, res.foldl (fun x y => x.or y.2) Flags.none)

/-- The effect of a matrix-queue entry when it ends; none when it raises an enabled flag (R164, R165, R170). -/
def State.mqEffect (s : State) (e : MqEntry) : State × Option Flags :=
  match fmtParse e.fmtWord, e.ins with
  | some f, .mma a =>
    let p := s.panel a.panel.val
    let t := s.tile a.acc.val
    if mmaFits f p t && e.vl % p.depth = 0 && e.vl ≤ 32 * p.depth then
      let (t', fl) := mmaTile f s.lanes p t e
      if fcsrTraps s.strand.cmp.fcsr fl then (s, some fl) else ((s.setTile a.acc.val t').flagCompute fl, none)
    else ({ s.setTile a.acc.val { t with data := Config.freeTile s.fresh } with fresh := s.fresh + 1 }, none)
  | some f, .mzero n _ => (s.setTile n.val ⟨f.dst == .i32, 0⟩, none)
  | _, _ => (s, none)

/-- The oldest entry of the strand's matrix queue ends. -/
def State.mqEnd (s : State) : State :=
  match s.strand.q.mq with
  | [] => s
  | e :: rest => ({ s with strand := { s.strand with q := { s.strand.q with mq := rest } } }.mqEffect e).1

/-- A matrix instruction leaves for the matrix queue with the registers it reads (R167); with nothing before it and its panel and
tile idle it may end at once. -/
def State.mqEnter (s : State) (e : MqEntry) : State :=
  let queue := fun (s : State) => s.mapQ fun q => { q with mq := q.mq ++ [e] }
  if s.strand.q.mq.isEmpty && s.grantable e then
    let (d, s) := s.nextDelay
    if d then queue s else (s.mqEffect e).1
  else queue s

/-- The entry of an MMA that reads its registers now. -/
def State.mmaEntry (s : State) (a : MmaArgs) (fw : Word) : MqEntry :=
  ⟨.mma a, fw, s.strand.cmp.vl.toNat, s.strand.vec.v.get a.vs, s.strand.vec.v.get (vnum (a.vs.val + 1)), false, 0, 0, 0, 0, none⟩

/-- The entry of an MZERO. -/
def mzeroEntry (acc : Fin 16) (fmt : Fin 8) (fw : Word) : MqEntry := ⟨.mzero acc fmt, fw, 0, 0, 0, false, 0, 0, 0, 0, none⟩

/-- The entry of a synchronous matrix instruction with xs1 and xs2 (R268). -/
def syncEntry (i : Instr) (fw pair addr : Word) : MqEntry := ⟨i, fw, 0, 0, 0, false, pair, addr, 0, 0, none⟩

/-- An entry when the head of the vector instruction queue has completed, with what its registers then hold. -/
def MqEntry.moved (e : MqEntry) (v : VecState) : MqEntry :=
  let e' := { e with behind := e.behind - 1, wait := e.wait - 1 }
  match e.wait, e.ins with
  | 1, .mma a => { e' with a := v.v.get a.vs, scales := v.v.get (vnum (a.vs.val + 1)) }
  | _, _ => e'

/-- The entries at the head of the matrix queue that the head of the vector instruction queue held up: each may be granted and end at once, by
the schedule (log 2). -/
def State.mqCatchUp (s : State) : Nat → State
  | 0 => s
  | n + 1 =>
    match s.strand.q.mq with
    | e :: _ =>
      if !e.granted && !isSyncMatrix e.ins && s.grantable e then
        let (d, s) := s.nextDelay
        if d then s else s.mqEnd.mqCatchUp n
      else s
    | [] => s

/-- The head of the vector instruction queue has completed: what waited for it in the matrix queue reads its registers (R167). -/
def State.mqMoved (s : State) : State :=
  let held := s.strand.q.mq.any fun e => e.wait == 1
  let s := s.mapQ fun q => { q with mq := q.mq.map fun e => e.moved s.strand.vec }
  if held then s.mqCatchUp s.strand.q.mq.length else s

/-- A tile's mode as the strand's older matrix instructions leave it (R167). -/
def State.tileMode (s : State) (n : Nat) : Bool :=
  let older := s.strand.q.mq.map (fun e => (e.ins, e.fmtWord)) ++ s.strand.q.viq.map fun e => (e.ins, e.fmtWord)
  older.foldl (fun m e => match e.1, fmtParse e.2 with
    | .mzero k _, some f => if k.val = n then f.dst == .i32 else m
    | _, _ => m) (s.tile n).isInt

/-- Checks 1 to 3 of an MMA (R159, R164). -/
def State.mmaOk (s : State) (a : MmaArgs) (f : FmtWord) : Bool :=
  a.panel.val < s.gang.npanels && a.acc.val < s.gang.naccs
    && mmaFits f (s.panel a.panel.val) ⟨s.tileMode a.acc.val, 0⟩
    && (!f.scaled || (f.src1.isMx && a.vs ≠ 31))

/-- The length rule of an MMA (R164). -/
def State.mmaLen (s : State) (a : MmaArgs) (f : FmtWord) : Bool :=
  let d := (s.panel a.panel.val).depth
  let vl := s.strand.cmp.vl.toNat
  s.vw == f.src1.width && vl ≠ 0 && vl % d == 0 && vl ≤ 32 * d

/-- The effect of an MMA leaving the vector instruction queue. -/
def runMma (a : MmaArgs) (fw : Word) (s : State) : VOut := .done (s.mqEnter (s.mmaEntry a fw))

/-- An MMA that runs to its end at once, since a flag is enabled: one that it raises traps FPX and leaves the tile unchanged (R170). -/
def runMmaNow (a : MmaArgs) (fw : Word) (s : State) : VOut :=
  match s.mqEffect (s.mmaEntry a fw) with
  | (t, some fl) => .trap t ⟨0x15, BitVec.setWidth 64 fl.toBits⟩
  | (t, none) => .done t

/-- An MMA at the head of the vector instruction queue (R167, R170): while a flag is enabled it completes before it leaves. -/
def State.mmaHead (s : State) (a : MmaArgs) (fw : Word) : HeadStep :=
  if fcsrEn s.strand.cmp.fcsr ≠ 0 then headWhen (s.strand.q.mq.isEmpty && s.grantable (s.mmaEntry a fw)) s (runMmaNow a fw)
  else headWhen (s.strand.q.mq.length < 64) s (runMma a fw)

/-- MMA (R164, R167, R170). While a flag is enabled it holds dispatch until it has ended. -/
def execMma (a : MmaArgs) (s : State) : Out :=
  let fw := s.fmtReg a.fmt
  s.onCompute (.mma a) fun s =>
    match fmtParse fw with
    | none => .next (s.illegal (.mma a))
    | some f =>
      if !s.mmaOk a f then .next (s.illegal (.mma a))
      else s.vready fun s =>
        if !s.mmaLen a f then .next s.vtype
        else if fcsrEn s.strand.cmp.fcsr ≠ 0 then
          if s.strand.q.viq.isEmpty && s.strand.q.mq.isEmpty && s.grantable (s.mmaEntry a fw) then .next ((runMmaNow a fw s).finish 8)
          else .next (s.wait .matrix)
        else if s.strand.q.viq.isEmpty && s.strand.q.mq.length < 64 then .next ((runMma a fw s).finish 8)
        else if 32 ≤ s.strand.q.viq.length then .next (s.wait .viqFull)
        else .next ((s.enqueueEntry (s.entry (.mma a) 0 fw none)).advance 8)

/-- The effect of an MZERO leaving the vector instruction queue. -/
def runMzero (acc : Fin 16) (fmt : Fin 8) (fw : Word) (s : State) : VOut := .done (s.mqEnter (mzeroEntry acc fmt fw))

/-- MZERO (R165, R167). -/
def execMzero (acc : Fin 16) (fmt : Fin 8) (s : State) : Out :=
  let fw := s.fmtReg fmt
  s.onCompute (.mzero acc fmt) fun s =>
    match fmtParse fw with
    | none => .next (s.illegal (.mzero acc fmt))
    | some f =>
      if s.gang.naccs ≤ acc.val || !(f.dst == .fp32 || f.dst == .i32) then .next (s.illegal (.mzero acc fmt))
      else s.vready fun s =>
        if s.strand.q.viq.isEmpty && s.strand.q.mq.length < 64 then .next ((runMzero acc fmt fw s).finish 8)
        else if 32 ≤ s.strand.q.viq.length then .next (s.wait .viqFull)
        else .next ((s.enqueueEntry (s.entry (.mzero acc fmt) 0 fw none)).advance 8)

/-! Scratchpad rows. -/

/-- The words of a row: offsets of the 8-byte words from `off`. -/
def rowWords (off len : Nat) : List Nat := (List.range (len / 8)).map fun i => off + 8 * i

/-- Reading rows of the gang's scratchpad, as vector accesses of the compute slice (R162): MEMERR and DETERM stop at their word. -/
def State.readRows (s : State) (base : Nat) : List (Nat × Nat) → Except Trap (List (List Byte) × State)
  | [] => .ok ([], s)
  | (off, len) :: rows =>
    let step := (rowWords off len).foldl (fun (r : Except Trap State) o =>
      match r with
      | .error t => .error t
      | .ok s =>
        if s.isBad (base + o) then .error ⟨0x0B, BitVec.ofNat 64 o⟩
        else
          match s.detect s.strand.id (base + o) [0] with
          | .conflict => .error ⟨0x10, BitVec.ofNat 64 o⟩
          | .ok s => .ok s) (.ok s)
    match step with
    | .error t => .error t
    | .ok s =>
      match s.readRows base rows with
      | .error t => .error t
      | .ok (bs, s) => .ok (s.mem.bytes (base + off) len :: bs, s)

/-- Writing the words of a row. An uncorrectable error that it meets stops it, with what comes before it written (R371; log 15). -/
def State.writeWords (s : State) (base : Nat) : List (Nat × List Byte) → Except (State × Trap) State
  | [] => .ok s
  | (o, bs) :: ws =>
    if s.isBad (base + o) then .error (s, ⟨0x0B, BitVec.ofNat 64 o⟩)
    else
      match s.detect s.strand.id (base + o) [1] with
      | .conflict => .error (s, ⟨0x10, BitVec.ofNat 64 o⟩)
      | .ok s => (s.store .vector (memSlices s.strand.die (base + o) 8) (atKeys (base + o) bs)).writeWords base ws

/-- Cutting bytes into words at consecutive offsets. -/
def wordsAt (off : Nat) (bs : List Byte) : List (Nat × List Byte) :=
  (List.range (bs.length / 8)).map fun i => (off + 8 * i, (bs.drop (8 * i)).take 8)

/-- Step 6 of R159 under R370: MISALIGN, the least xs2, and the extent. Of a misaligned pair the TADDR is xs1, and xs2 when it alone is
misaligned: R159 and R263 do not say which operand it is (log 62). -/
def rowCheck (x1 x2 : Word) (least extent limit cause : Nat) (illegal : Trap) : Option Trap :=
  if x1.toNat % 64 ≠ 0 then some ⟨0x04, x1⟩
  else if x2.toNat % 64 ≠ 0 then some ⟨0x04, x2⟩
  else if x2.toNat < least then some illegal
  else if limit < extent then some ⟨BitVec.ofNat 8 cause, x1⟩
  else none

/-- Extent of `rows` rows, the last of `size` bytes. -/
def rowExtent (x1 x2 : Word) (rows size : Nat) : Nat := x1.toNat + (rows - 1) * x2.toNat + size

/-- A synchronous matrix instruction joins the matrix queue, where it waits for what it needs (R167, R371). -/
def State.matJoin (s : State) (i : Instr) (fw pair addr : Word) : State :=
  s.mapQ fun q => { q with mq := q.mq ++ [syncEntry i fw pair addr] }

/-- A synchronous matrix instruction (R159, R162): steps 1 to 3 in `ok`, 4, 6 in `rows`. When everything older of the strand is done and
what it needs is idle it runs at once; otherwise it waits in the matrix queue or before that in the vector instruction queue, with xs1 and
xs2 as R268 has them, and holds dispatch until it has completed. -/
def State.matSync (s : State) (i : Instr) (fw : Word) (x1 x2 : Word) (ok : FmtWord → Bool) (rows : FmtWord → Trap → Option Trap) (idle : State → Bool)
    (run : FmtWord → State → VOut) : Out :=
  s.onCompute i fun s =>
    match fmtParse fw with
    | none => .next (s.illegal i)
    | some f =>
      if !ok f then .next (s.illegal i)
      else s.vready fun s =>
        match rows f ⟨0x01, BitVec.ofNat 64 (encode i % 2 ^ 32)⟩ with
        | some t => .next (s.raise t)
        | none =>
          let pair := BitVec.ofNat 64 (x1.toNat % 2 ^ 32 + x2.toNat % 2 ^ 32 * 2 ^ 32)
          if s.strand.q.viq.isEmpty && s.strand.q.mq.isEmpty && idle s then .next ((run f s).finish 8)
          else if s.strand.q.viq.isEmpty && s.strand.q.mq.length < 64 then .next ((s.matJoin i fw pair s.pc).advance 8)
          else if 32 ≤ s.strand.q.viq.length then .next (s.wait .viqFull)
          else .next ((s.enqueueEntry (s.entry i pair fw none)).advance 8)

/-- Bytes of the gang's scratchpad. -/
def State.spadLimit (s : State) : Nat := s.gang.spadPages * 4096
/-- Key of the gang's scratchpad. -/
def State.spadBase (s : State) : Nat := spadKey s.strand.id.cluster (s.gang.spadPage * 4096)

/-- Bytes of a row of 256 elements. -/
def rowBytes (f : Fmt) : Nat := 256 * f.width / 8

/-- The 256 elements of a row, as bits. -/
def rowElems (w : Nat) (bs : List Byte) : List Nat :=
  let x := leNat bs
  (List.range 256).map fun n => bits x (w * n) w

/-- A row of 256 elements of width `w`, as bytes. -/
def packRow (w : Nat) (xs : List Nat) : List Byte :=
  if w = 4 then (List.range 128).map fun i => BitVec.ofNat 8 (xs.getD (2 * i) 0 % 16 + xs.getD (2 * i + 1) 0 % 16 * 16)
  else (xs.map fun x => leBytes (w / 8) x).flatten

/-- Every MMA of the gang on the panel has ended (R371). -/
def State.panelFree (s : State) (n : Nat) : Bool := !(s.gangMq.any fun e => e.panel == some n)

/-- The rows of MLDB and MLDB.P: `k` rows from xs1 in steps of xs2, each of its size. -/
def rowList (x1 x2 : Word) (k0 k size : Nat) : List (Nat × Nat) :=
  (List.range k).map fun i => (x1.toNat + (k0 + i) * x2.toNat, size)

/-- Weights of 64 rows, one byte each. -/
def packWeights (w : Nat) (rows : List (List Byte)) : BitVec 131072 :=
  BitVec.ofNat 131072 (leNat ((rows.map fun r => (rowElems w r).map fun x => BitVec.ofNat 8 x).flatten))

/-- What comes before reads of these rows is performed (R61, R202, R203). -/
def State.ownRows (s : State) (rows : List (Nat × Nat)) : State :=
  s.ahead (s.access .vector ((rows.flatMap fun r => (rowWords r.1 r.2).flatMap fun o => memSlices s.strand.die (s.spadBase + o) 8).eraseDups) .r)

/-- Loading a panel; an uncorrectable error leaves it EMPTY (R371). -/
def State.loadPanel (s : State) (n : Nat) (rows : List (Nat × Nat)) (mk : List (List Byte) → Panel) : VOut :=
  let s := s.ownRows rows
  match s.readRows s.spadBase rows with
  | .ok (bs, s) => .done (s.setPanel n (mk bs))
  | .error t => .trap (if t.code = 0x0B then s.setPanel n Panel.empty else s) t

/-- MLDB's effect (R160). -/
def runMldb (a : MatArgs) (x1 x2 : Word) (f : FmtWord) (s : State) : VOut :=
  let rows := rowList x1 x2 0 64 (rowBytes f.src2) ++ (if f.scaled then rowList x1 x2 64 2 256 else [])
  s.loadPanel a.n.val rows fun bs =>
    { tag := some (BitVec.ofNat 5 f.src2.code), scaled := f.scaled, pruned := false, weights := packWeights f.src2.width (bs.take 64),
      index := 0, scales := BitVec.ofNat 4096 (leNat (bs.drop 64).flatten) }

/-- MLDB (R160, R370, R371). -/
def execMldb (a : MatArgs) (s : State) : Out :=
  let x1 := s.x a.xs1
  let x2 := s.x a.xs2
  s.matSync (.mldb a) (s.fmtReg a.fmt) x1 x2 (fun f => a.n.val < s.gang.npanels && matB f.src2 && (!f.scaled || f.src2.isMx))
    (fun f ill =>
      if f.scaled then rowCheck x1 x2 256 (rowExtent x1 x2 66 256) s.spadLimit 5 ill
      else rowCheck x1 x2 (rowBytes f.src2) (rowExtent x1 x2 64 (rowBytes f.src2)) s.spadLimit 5 ill)
    (·.panelFree a.n.val) (runMldb a x1 x2)

/-- MLDB.P's effect (R161). -/
def runMldbP (a : MatArgs) (x1 x2 : Word) (f : FmtWord) (s : State) : VOut :=
  s.loadPanel a.n.val (rowList x1 x2 0 64 (rowBytes f.src2) ++ rowList x1 x2 64 64 128) fun bs =>
    { tag := some (BitVec.ofNat 5 f.src2.code), scaled := false, pruned := true, weights := packWeights f.src2.width (bs.take 64),
      index := BitVec.ofNat 65536 (leNat (bs.drop 64).flatten), scales := 0 }

/-- MLDB.P (R161, R370, R371). -/
def execMldbP (a : MatArgs) (s : State) : Out :=
  let x1 := s.x a.xs1
  let x2 := s.x a.xs2
  s.matSync (.mldbP a) (s.fmtReg a.fmt) x1 x2 (fun f => a.n.val < s.gang.npanels && matB f.src2 && !f.scaled)
    (fun f ill => rowCheck x1 x2 (rowBytes f.src2) (rowExtent x1 x2 128 (rowBytes f.src2)) s.spadLimit 5 ill)
    (·.panelFree a.n.val) (runMldbP a x1 x2)

/-- MLDACC's effect (R165). -/
def runMldacc (a : MatArgs) (x1 x2 : Word) (f : FmtWord) (s : State) : VOut :=
  let s := s.ownRows (rowList x1 x2 0 32 1024)
  match s.readRows s.spadBase (rowList x1 x2 0 32 1024) with
  | .ok (bs, s) => .done (s.setTile a.n.val ⟨f.dst == .i32, BitVec.ofNat 262144 (leNat bs.flatten)⟩)
  | .error t => .trap s t

/-- MLDACC (R165, R370, R371). -/
def execMldacc (a : MatArgs) (s : State) : Out :=
  let x1 := s.x a.xs1
  let x2 := s.x a.xs2
  s.matSync (.mldacc a) (s.fmtReg a.fmt) x1 x2 (fun f => a.n.val < s.gang.naccs && (f.dst == .fp32 || f.dst == .i32))
    (fun _ ill => rowCheck x1 x2 1024 (rowExtent x1 x2 32 1024) s.spadLimit 5 ill)
    (·.tileIdle a.n.val) (runMldacc a x1 x2)

/-- Row r of a tile converted for MST: the elements, the scales of its eight blocks, and the flags (R166). -/
def mstRow (f : FmtWord) (t : Tile) (r : Nat) : List Nat × List Nat × Flags :=
  let vals := (List.range 256).map fun n => f.src1.decode (bits t.data.toNat (32 * (256 * r + n)) 32)
  if f.scaled then
    let blocks := (List.range 8).map fun b => quantBlock f.dst f.rnd f.sat ((vals.drop (32 * b)).take 32)
    (blocks.flatMap fun b => b.2.map (·.1), blocks.map (·.1), blocks.foldl (fun a b => b.2.foldl (fun x y => x.or y.2) a) Flags.none)
  else
    let xs := vals.map (convert f)
    (xs.map (·.1), [], xs.foldl (fun a x => a.or x.2) Flags.none)

/-- MST's effect (R166, R170): its flags first, then the rows and the scales. -/
def runMst (a : MatArgs) (x1 x2 : Word) (f : FmtWord) (s : State) : VOut :=
  let rows := (List.range 32).map (mstRow f (s.tile a.n.val))
  let fl := rows.foldl (fun x r => x.or r.2.2) Flags.none
  if fcsrTraps s.strand.cmp.fcsr fl then .trap s ⟨0x15, BitVec.setWidth 64 fl.toBits⟩
  else
    let data := ((List.range 32).map fun r => wordsAt (x1.toNat + r * x2.toNat) (packRow f.dst.width ((rows.getD r ([], [], .none)).1))).flatten
    let scales := if f.scaled then
        wordsAt (x1.toNat + 32 * x2.toNat) ((rows.map fun r => r.2.1.map fun x => BitVec.ofNat 8 x).flatten)
      else []
    match s.writeWords s.spadBase (data ++ scales) with
    | .ok s => .done (s.flagCompute fl)
    | .error (s, t) => .trap s t

/-- MST (R166, R370, R371). -/
def execMst (a : MatArgs) (s : State) : Out :=
  let x1 := s.x a.xs1
  let x2 := s.x a.xs2
  s.matSync (.mst a) (s.fmtReg a.fmt) x1 x2
    (fun f => a.n.val < s.gang.naccs && f.dst ≠ .e8m0 && (!f.scaled || f.dst.isMx)
      && f.src1 == (if s.tileMode a.n.val then Fmt.i32 else Fmt.fp32))
    (fun f ill => rowCheck x1 x2 (rowBytes f.dst)
      (if f.scaled then rowExtent x1 x2 33 256 else rowExtent x1 x2 32 (rowBytes f.dst)) s.spadLimit 6 ill)
    (·.tileIdle a.n.val) (runMst a x1 x2)

/-! The way through the queues (R167, R371). -/

/-- What a synchronous matrix instruction needs idle, and its effect on xs1 and xs2. -/
def syncMatrix (i : Instr) : Option ((State → Bool) × (Word → Word → FmtWord → State → VOut)) :=
  match i with
  | .mldb a => some ((·.panelFree a.n.val), runMldb a)
  | .mldbP a => some ((·.panelFree a.n.val), runMldbP a)
  | .mldacc a => some ((·.tileIdle a.n.val), runMldacc a)
  | .mst a => some ((·.tileIdle a.n.val), runMst a)
  | _ => none

/-- The effect of a synchronous matrix instruction whose older matrix instructions have ended, once what it needs is idle. -/
def State.matRun (s : State) (i : Instr) (fw pair : Word) : Option VOut :=
  match syncMatrix i, fmtParse fw with
  | some (idle, run), some f =>
    if idle s then some (run (BitVec.setWidth 64 (pair.extractLsb' 0 32)) (BitVec.setWidth 64 (pair.extractLsb' 32 32)) f s) else none
  | _, _ => none

/-- A synchronous matrix instruction at the head of the vector instruction queue: it completes, or leaves for the matrix queue. -/
def State.matHead (s : State) (e : ViqEntry) : HeadStep :=
  match if s.strand.q.mq.isEmpty then s.matRun e.ins e.fmtWord e.scalar else none with
  | some o => .out o
  | none => headWhen (s.strand.q.mq.length < 64) s fun s => .done (s.matJoin e.ins e.fmtWord e.scalar e.addr)

/-- Is it a matrix instruction? -/
def isMatrix (i : Instr) : Bool :=
  isSyncMatrix i || match i with
    | .mma _ | .mzero .. => true
    | _ => false

/-- The vector registers that a matrix instruction reads. -/
def matSources (e : ViqEntry) : List (Fin 32) :=
  match e.ins with
  | .mma a => if (fmtParse e.fmtWord).any (·.scaled) then [a.vs, vnum (a.vs.val + 1)] else [a.vs]
  | _ => []

/-- May a matrix instruction leave the vector instruction queue past the older entries? They have passed their checks; VWAIT, VHACC and a
FENCE make checks until they end (R43, R167, R197, R357). -/
def mayPass (older : List ViqEntry) (e : ViqEntry) : Bool :=
  isMatrix e.ins && older.all fun o => !isQueuedMemory o.ins && !isMatrix o.ins && !isFence o.ins

/-- The older entries, from the head, that complete before a matrix instruction reads its registers and begins: those that write one of them
(R168), and those up to a CONVOY (R100). -/
def startsBehind (older : List ViqEntry) (e : ViqEntry) : Nat :=
  older.zipIdx.foldl (fun n (o, k) => if o.ins == .convoy || (matSources e).any (writesVec o.ins).contains then k + 1 else n) 0

/-- The first matrix instruction behind the head of the vector instruction queue that may leave it, by its place. -/
def Queues.passing (q : Queues) : Option (Nat × ViqEntry) :=
  (q.viq.zipIdx.find? fun (e, k) => decide (0 < k) && mayPass (q.viq.take k) e).map fun (e, k) => (k, e)

/-- Matrix instructions leave for the matrix queue past older entries that wait (R167). While a flag is enabled they do not: dispatch stands
behind them (R170). -/
def State.matPass (s : State) : Nat → State
  | 0 => s
  | n + 1 =>
    if fcsrEn s.strand.cmp.fcsr ≠ 0 || 64 ≤ s.strand.q.mq.length then s
    else
      match s.strand.q.passing with
      | none => s
      | some (k, e) =>
        if s.entryLost e then s else
        let left := fun m : MqEntry => { m with behind := k, wait := startsBehind (s.strand.q.viq.take k) e, entry := some e }
        let s := s.mapQ fun q => { q with viq := q.viq.eraseIdx k }
        (match e.ins with
        | .mma a => (s.mqEnter (left (s.mmaEntry a e.fmtWord))).ranVector
        | .mzero acc fmt => s.mqEnter (left (mzeroEntry acc fmt e.fmtWord))
        | i => s.mapQ fun q => { q with mq := q.mq ++ [left (syncEntry i e.fmtWord e.scalar e.addr)] }).matPass n

/-- The synchronous matrix instruction at the head of the matrix queue completes when what it needs is idle; a trap of it is precise, since
nothing younger has been dispatched (R162, R371). -/
def State.matSettle (s : State) : State :=
  match s.strand.q.mq with
  | [] => s
  | e :: rest =>
    match if e.wait = 0 then s.matRun e.ins e.fmtWord e.scalar else none with
    | none => s
    | some (.done t) => t.mapQ fun q => { q with mq := rest }
    | some (.trap t c) => ((t.mapQ fun q => { q with mq := [] }).goto e.addr).raise c

end Sys2Proof.Machine
end

