-- ==== Sys2Proof/Machine/Engine.lean ====
section
/-! DEFINITION. The copy engines (R186 to R193, R212, R248, R320, R344 to R351). A command's reads and writes happen at one moment, in
the step in which it moves its data (log 22); which writes a failing command performs is free. -/

namespace Sys2Proof.Machine

/-! Checks at issue (R190, R345 to R348). -/

/-- A command has met a conflict at a word: its strand traps DETERM there (R220; log 22). -/
def State.engConflicts (s : State) (c : Command) (word : Nat) : State :=
  s.mapStrands (fun t : Strand => t.id.lid == c.owner.lid && t.id.squad == c.owner.squad && t.id.gang == c.owner.gang && t.id.name == c.owner.name)
    fun t => { t with trap := { t.trap with determ := some (t.trap.determ.getD (BitVec.ofNat 64 word)) } }

/-- The detector on an access of a command, as one of the access slice that issued it, to the 8-byte word of a key and of an address (R219,
R220, R344; log 22): may it be performed? -/
def State.engDetect (s : State) (c : Command) (kind key addr : Nat) : Bool × State :=
  match ({ s with side := .access }).detect c.owner key [kind] with
  | .ok t => (true, { t with side := s.side })
  | .conflict => (false, s.engConflicts c (addr / 8 * 8))

/-! Writes to remote packages (R200, R248, R320). -/

/-- A byte joins a list of bytes at rising keys; the last write of a key stands. -/
def putSorted (k : Nat) (b : Byte) : List (Nat × Byte) → List (Nat × Byte)
  | [] => [(k, b)]
  | (j, c) :: l => if k < j then (k, b) :: (j, c) :: l else if k = j then (k, b) :: l else (j, c) :: putSorted k b l

/-- Bytes at rising keys, cut into runs of consecutive keys within aligned blocks of 256 bytes (R320). -/
def blockRuns : List (Nat × Byte) → List (Nat × List Byte)
  | [] => []
  | (k, b) :: l =>
    match blockRuns l with
    | (j, bs) :: rest => if j = k + 1 ∧ j % 256 ≠ 0 then (k, b :: bs) :: rest else (k, [b]) :: (j, bs) :: rest
    | [] => [(k, [b])]

/-- The die's own slice applies a byte that leaves for its package (R200): until that has performed it, it is in flight. -/
def State.flyByte (s : State) (die key : Nat) (b : Byte) : State :=
  let l := (s.l2Line die (lineOf key)).getD ⟨die, lineOf key, false, 0, 0, 0⟩
  let bit := BitVec.ofNat 64 (2 ^ (key % 64))
  s.setLine { l with data := putBits l.data (8 * (key % 64)) 8 b.toNat, dirty := l.dirty &&& ~~~bit, flying := l.flying ||| bit }

/-- The bytes of a command, at rising keys, leave for one package: a WRITE for each run in ascending order, then the RELMARK, for which the
command waits and the lines that the die's slice holds meanwhile (R248, R320). -/
def State.engSendTo (s : State) (c : Command) (x : Nat) (l : List (Nat × Byte)) : State :=
  let d := engDesc c.desc
  let die := c.owner.cluster / 40
  let first := (s.peer (BitVec.ofNat 16 x)).freeNext
  let s := (blockRuns l).foldl (fun (s : State) (k, bs) =>
    (s.sendFlit 0x01 1 x d.direct fun f =>
      { f with addr := BitVec.ofNat 64 (remotePa k).2, len := BitVec.ofNat 16 bs.length, payload := bs }).2) s
  let s := l.foldl (fun (s : State) p => s.flyByte die p.1 p.2) s
  let lines := (l.map fun p => lineOf p.1).eraseDups
  let maskOf := fun line => (l.filter fun p => lineOf p.1 == line).foldl
    (fun (m : BitVec 64) p => m ||| BitVec.ofNat 64 (2 ^ (p.1 % 64))) 0
  let s := lines.foldl (fun (s : State) line => (s.codeWrote line (maskOf line)).staleFills die line) s
  let mark := (s.peer (BitVec.ofNat 16 x)).freeNext
  let start := (l.head?.map (·.1)).getD (remoteKey x 0)
  let (q, s) := s.sendFlit 0x08 0 x d.direct fun f => { f with mark := mark, addr := BitVec.ofNat 64 (remotePa start).2 }
  let flits := [(0, BitVec.ofNat 32 q, 1), (1, first, (mark - first).toNat)]
  let s := ((s.addReq (.engine c.owner.cluster c.seq) start false true die x 0 q).2).restsOn 0 0 flits
  lines.foldl (fun (s : State) line =>
    ((s.addReq .engineLines line false true die x 0 q).2).restsOn (maskOf line) 0 flits) s

/-- The bytes of a command leave for their packages, in ascending order. -/
def State.engSend (s : State) (c : Command) (l : List (Nat × Byte)) : State :=
  let all := l.foldl (fun acc p => putSorted p.1 p.2 acc) []
  ((all.map fun p => (remotePa p.1).1).eraseDups).foldl (fun (s : State) x =>
    s.engSendTo c x (all.filter fun p => (remotePa p.1).1 == x)) s

/-- Replacing a command in its engine. -/
def State.setCommand (s : State) (c : Command) : State :=
  let e := s.engine c.owner.cluster
  s.setEngine { e with cmds := e.cmds.map fun x => if x.seq == c.seq then c else x }

/-- The bytes of an output that the detector lets be written, word by word. -/
def State.engAllowed (s : State) (c : Command) (o : EngBytes) : State × List (Nat × Byte) :=
  let at_ := o.bytes.zipIdx.map fun (p, j) => (p, o.addr + j)
  ((at_.map fun p => p.2 / 8).eraseDups).foldl (fun (u : State × List (Nat × Byte)) w =>
    let mine := at_.filter fun p => p.2 / 8 == w
    match mine with
    | [] => u
    | (p, a) :: _ =>
      let (go, s) := u.1.engDetect c 1 p.1 a
      (s, if go then u.2 ++ mine.map (·.1) else u.2)) (s, [])

/-- Performing the writes of a plan: all of them, or in a failing command a free subset of those that pass their checks (R345). Answers the
bytes written. -/
def State.engPerform (s : State) (c : Command) (bad : Bool) (outs : List EngBytes) : State × List (Nat × Byte) :=
  let (s, all) := (if bad then engPieces outs else outs).foldl (fun (u : State × List (Nat × Byte)) o =>
    if bad && !Config.freeChoice u.1.fresh o.num then u
    else
      let (s, bs) := u.1.engAllowed c o
      let ((bs, _), s) := s.tagged c.owner bs []
      (s.perform (c.owner.cluster / 40) (bs.filter fun b => !isRemote b.1), u.2 ++ bs)) (s, [])
  (s.engSend c (all.filter fun b => isRemote b.1), all)

/-- The bytes of a command's source, the packed values of an EUNPACK among them. -/
def State.engSource (s : State) (c : Command) : List Nat :=
  let d := engDesc c.desc
  spanBytes (engReads c.op d) ++ match d.f1 with
    | some a => if c.op = 3 then s.engValues c d a.width else []
    | none => []

/-- The detector on what a command reads (R219), word by word: may all of it be read? -/
def State.engReadDetect (s : State) (c : Command) : Bool × State :=
  if !s.isDet c.owner.lid then (true, s)
  else
    let d := engDesc c.desc
    ((s.engSource c).map (· / 8)).eraseDups.foldl (fun (u : Bool × State) w =>
      match u.2.engLoc c d.sspace c.readNeed (8 * w) with
      | .ok k => let (go, t) := u.2.engDetect c 0 k (8 * w); (u.1 && go, t)
      | .error _ => u) (true, s)

/-- The command moves its data (R189 to R193); `memErr` brings an uncorrectable error that it finds. A command of which a read is in conflict
(R220) writes nothing. -/
def State.engMove (s : State) (c : Command) (memErr : Bool) : State × Command :=
  let p := s.engPlan c
  let (outs, fail) := s.engOuts c p
  let fail := if memErr && fail.isNone then some (7, (Config.freeValue s.fresh).toNat) else fail
  let (go, t) := s.engReadDetect c
  let (t, all) := t.engPerform c fail.isSome (if go then outs else [])
  let t := { t with fresh := t.fresh + 1 + p.needed }
  -- at SYSTEM scope its writes to host memory leave the die before it ends (R200, R212)
  let t := if fail.isNone && (engDesc c.desc).scope = 4 then
      (t.l2.filter fun l => l.die == c.owner.cluster / 40 && !isRemote l.line && l.dirty ≠ 0 && all.any fun b => lineOf b.1 == l.line).foldl
        (fun (u : State) l => u.writeBackLine .hub l 0) t
    else t
  (t, { c with moved := true, code := (fail.map (·.1)).getD 0, failAddr := BitVec.ofNat 64 ((fail.map (·.2)).getD 0),
               written := (all.map (·.1)).eraseDups.length, needed := p.needed })

/-! Ends (R188, R190). -/

/-- Commands that have ended, in one run above DONE. -/
def engAdvance (ended : List Nat) : Nat → Nat → Nat
  | 0, d => d
  | n + 1, d => if ended.contains (d + 1) then engAdvance ended n (d + 1) else d

/-- DONE and what has ended above it. -/
def Engine.settle (e : Engine) : Engine :=
  let d := engAdvance e.ended e.ended.length e.done
  { e with done := d, ended := e.ended.filter (d < ·) }

/-- The record of a command that ends (R190). -/
def Command.record (c : Command) : List Byte :=
  let d := engDesc c.desc
  leBytes 8 (c.seq % 2 ^ 48 + c.op * 2 ^ 48 + d.scope * 2 ^ 51 + c.code * 2 ^ 56) ++ leBytes 8 c.failAddr.toNat ++ leBytes 8 c.written
    ++ leBytes 8 (c.owner.pair + (if c.op = 2 then c.needed else 0) * 8)

/-- A command ends: its record is posted and DONE and ERRS follow (R188, R190). -/
def State.engFinish (s : State) (c : Command) : State :=
  let e := s.engine c.owner.cluster
  let e := { e with
    cmds := e.cmds.filter fun x => x.seq != c.seq
    ended := e.ended ++ [c.seq]
    errs := if c.code = 0 then e.errs else e.errs + 1
    sysFirst := if c.code = 0 && (engDesc c.desc).scope = 4 then
        some (match e.sysFirst with | some n => min n c.seq | none => c.seq) else e.sysFirst }
  (s.setEngine e.settle).mapGang c.owner fun g => { g with records := g.records ++ [c.record] }

/-- The end of a command whose data have moved: with REL = 1 at SYSTEM scope it is a release, which waits for the adds of its die that are
due and for the write-backs in flight, writes back the dirty lines of the die, and waits for those; where one cannot be reached the command
ends with REMOTE (R189, R212, R216, R223, R251), and its record names DST, where R190 leaves the address open (log 74). -/
def State.engEnd (s : State) (c : Command) : State :=
  let d := engDesc c.desc
  let die := c.owner.cluster / 40
  if c.code ≠ 0 || c.released || !d.rel || d.scope ≠ 4 then s.engFinish c
  else if s.dieBackInFlight die then s
  else if (s.dirtyLines die).any s.unreachable || (s.dueLines die).any fun k => isRemote k && s.remoteFails (remotePa k).1 then
    s.engFinish { c with code := 8, failAddr := BitVec.ofNat 64 d.dst }
  else if !(s.dueLines die).isEmpty then (s.dueLines die).foldl (fun (u : State) k => u.hubLine die k) s
  else
    let s := (s.dirtyLines die).foldl (fun u l => u.writeBackLine (.engine c.owner.cluster c.seq) l 0) s
    let c := { c with released := true }
    if s.engWaits c then s.setCommand c else s.engFinish c

/-- One go at a command, as far as it gets: an acquire and its reads, its writes and its release, its end. Its bulk reads are FREE (R247). -/
def State.engStep (s : State) (c : Command) (memErr : Bool) : State :=
  if s.engWaits c then s
  else if c.moved then s.engEnd c
  else if c.failed.isSome then
    s.engFinish { c with code := c.failed.getD 8 }
  else if s.engQueued c then s
  else
    let d := engDesc c.desc
    let s := if !c.started && d.acq && d.scope = 4 then s.invalidateClean (c.owner.cluster / 40) else s
    let c := { c with started := true }
    let s := s.setCommand c
    let lines := s.engMissing c
    if lines.any fun l => s.backInFlight (c.owner.cluster / 40) l then s
    else if !lines.isEmpty then
      lines.foldl (fun u l => (u.askLineBy d.direct (.engine c.owner.cluster c.seq) l (c.owner.cluster / 40) 1 true).2) s
    else
      let (s, c) := s.engMove c memErr
      let s := s.setCommand c
      if s.engWaits c then s else s.engEnd c

/-- A strand in focus for a while. -/
def State.withFocus (s : State) (key : Nat) (f : State → State) : State :=
  if s.strand.resident && s.strand.key == key then f s else (f (s.focus key)).focus s.strand.key

/-! Instructions. -/

/-- An issue (R186, R344): its traps, the descriptor, the limit of 32, the number, and the checks. -/
def State.engIssue (s : State) (i : Instr) (op : Nat) (rd xs1 : Reg) : Out :=
  s.onAccess i fun s =>
    let a := s.x xs1
    if a.toNat % 64 ≠ 0 then .next (s.misalign a)
    else if Config.tcmBytes < a.toNat + 64 then .next (s.trap 0x05 a)
    else
      let s := s.settleOwn
      let id := s.strand.id
      let desc := s.mem.read (tcmKey id.cluster id.pair .access a.toNat) 64
      if 32 ≤ (s.gangOf id).outstanding then .next (s.result rd 0 8)
      else
        let e := s.engine id.cluster
        let n := e.issued + 1
        let d := engDesc desc
        let c : Command := ⟨n, op, desc, id, s.strand.trap.ptbr, s.strand.trap.priv, s.engCheck id op d, false, false, false, 0, 0, 0, 0⟩
        let s := s.setEngine { e with issued := n, cmds := e.cmds ++ [c] }
        let s := s.mapGang id fun g => { g with outstanding := g.outstanding + 1, maxSeq := n }
        let s := s.result rd (BitVec.ofNat 64 n) 8
        if c.failed.isSome then .next (s.engStep c false)
        else
          let (wait, s) := s.nextDelay
          .next (if wait then s else s.engStep c false)

/-- ECOPY (R186, R191, R344, R346). -/
def execEcopy (rd xs1 : Reg) (s : State) : Out := s.engIssue (.ecopy rd xs1) 0 rd xs1
/-- EQUANT (R192, R347). -/
def execEquant (rd xs1 : Reg) (s : State) : Out := s.engIssue (.equant rd xs1) 1 rd xs1
/-- EPACK (R193, R348). -/
def execEpack (rd xs1 : Reg) (s : State) : Out := s.engIssue (.epack rd xs1) 2 rd xs1
/-- EUNPACK (R193, R348). -/
def execEunpack (rd xs1 : Reg) (s : State) : Out := s.engIssue (.eunpack rd xs1) 3 rd xs1

/-- ESEQ (R188, R350): an acquire for every command up to DONE that ended OK, which beyond the package shows as the SYSTEM-scope
acquire of R216. -/
def execEseq (rd : Reg) (s : State) : Out :=
  s.onAccess (.eseq rd) fun s =>
    let e := (s.engine s.strand.id.cluster).settle
    let s := match e.sysFirst with
      | some n => if n ≤ e.done then s.acquireAt .system else s
      | none => s
    .next (s.result rd (BitVec.setWidth 16 e.errs ++ BitVec.ofNat 48 e.done) 8)

/-- EVPOP (R186, R351). -/
def execEvpop (rd xs1 : Reg) (s : State) : Out :=
  s.onAccess (.evpop rd xs1) fun s =>
    let a := s.x xs1
    let id := s.strand.id
    if a.toNat % 32 ≠ 0 then .next (s.misalign a)
    else if Config.tcmBytes < a.toNat + 32 then .next (s.trap 0x06 a)
    else
      match (s.gangOf id).records with
      | [] => .next (s.result rd 0 8)
      | r :: rest =>
        let key := tcmKey id.cluster id.pair .access a.toNat
        let s := s.mapGang id fun g => { g with records := rest, outstanding := g.outstanding - 1 }
        let s := (List.range 4).foldl (fun (u : State) i => u.store .scalar [memSlice s.strand.die key] (atKeys (key + 8 * i) ((r.drop (8 * i)).take 8))) s
        let s := if leNat ((r.drop 7).take 1) = 0 && bits (leNat ((r.drop 6).take 1)) 3 3 = 4 then s.acquireAt .system else s
        .next (s.result rd 1 8)

/-- ENGINE_COMMAND_END: the engine goes on with a command as far as it can, to its end (R188, R190, R212). -/
def execEngineCommandEnd (cluster : Fin 160) (seq : Nat) (memErr : Bool) (s : State) : Out :=
  match (s.engine cluster.val).cmds.find? fun c => c.seq == seq with
  | some c => .next (s.withFocus (c.owner.cluster * 8 + c.owner.pair) fun s => s.engStep c memErr)
  | none => .next s

end Sys2Proof.Machine
end

