-- ==== Sys2Proof/Machine/Context.lean ====
section
/-! DEFINITION. The save area of a strand (R268 to R271): VSAVE, VRESTORE, and the switch-in that loads it. -/

namespace Sys2Proof.Machine

/-! The layout. -/

/-- GEOM of a strand (R271). -/
def Strand.geom (t : Strand) : Nat := t.id.lanes + 32 * 2 ^ 8 + 32 * 2 ^ 16 + 2 ^ 24

/-- Fields of one width, the first lowest. -/
def packBits (w : Nat) (xs : List Nat) : Nat := xs.foldr (fun x a => x % 2 ^ w + a * 2 ^ w) 0

/-- The descriptor of a queue entry (R54). -/
def QSlot.descriptor (e : QSlot) : Nat :=
  e.count.toNat + e.width.toNat * 2 ^ 24 + (if e.full then 2 else 1) * 2 ^ 27
    + (if e.full then e.count.toNat else e.filled.toNat) * 2 ^ 29

/-- The entries of a queue by physical slot: slot `k` holds the entry (k - oldest) mod 8, when there is one. -/
def bySlot (head : BitVec 3) (q : List QSlot) : List (Option QSlot) := (List.range 8).map fun k => q[(8 + k - head.toNat) % 8]?

/-- A barrier-wait record (R268). -/
def barWaitWord (w : Option BarWait) : Nat :=
  match w with
  | some w => w.bar + (if w.squad then 2 ^ 10 else 0) + 2 ^ 11 + w.gen.toNat * 2 ^ 32
  | none => 0

/-- The system block of a slice; registers of the strand or core pair stand in both (R268). -/
def Strand.sysBlock (t : Strand) (side : Side) : List Nat :=
  let c := if side = .access then t.acc else t.cmp
  let acc := side == .access
  [ (if acc then t.trap.tpca else t.trap.tpcc).toNat, c.fcsr.toNat, c.vl.toNat, c.vtypeWord.toNat, c.vstart.toNat,
    barWaitWord c.barWait, if acc then t.sys.mtype.toNat else t.sys.spstat.toNat,
    if acc then t.sys.slip.toNat else t.sys.vbconf.toNat,
    if acc then t.trap.ptbr.toNat else (t.id.children.map fun k => 2 ^ k.name).sum,
    t.trap.tvec.toNat, t.sys.lod.toNat, t.sys.lodcyc.toNat, if t.sys.ovf then 1 else 0 ]

/-- 512 bytes: x0 to x31 and the system block. -/
def sliceBlock (bank : Vector Word 32) (sys : List Nat) : List Byte :=
  let xs := (List.range 32).map fun r => if r = 0 then 0 else (bank.get (Fin.ofNat 32 r)).toNat
  ((xs ++ sys ++ List.replicate (32 - sys.length) 0).map (leBytes 8)).flatten

/-- An entry of the vector instruction queue (R268). -/
def ViqEntry.bytes (e : ViqEntry) : List Byte :=
  leBytes 8 (encode e.ins) ++ leBytes 8 e.scalar.toNat ++ leBytes 8 (e.fmtWord.toNat % 2 ^ 20)
    ++ leBytes 8 (1 + bits e.addr.toNat 1 55 * 2 + (match e.slot with | some k => k.toNat * 2 ^ 56 + 2 ^ 59 | none => 0))

/-- Bytes padded with zeros to a length. -/
def padTo (n : Nat) (l : List Byte) : List Byte := l ++ List.replicate (n - l.length) 0

/-- The 4 KiB below 0x1000. -/
def Strand.areaLow (t : Strand) : List Byte :=
  let header := padTo 256
    (leBytes 8 t.geom
      ++ leBytes 8 ((if t.acc.halted then 1 else 0) + (if t.cmp.halted then 2 else 0) + (if t.trap.vabsent then 0 else 4))
      ++ leBytes 8 (packBits 2 (t.vec.vvalid.toList.map (·.toNat)))
      ++ leBytes 8 (t.vec.mvalid.toNat + packBits 7 (t.vec.fvalid.toList.map (·.toNat)) * 2 ^ 8)
      ++ leBytes 8 (t.q.cq.length + t.q.ldqHead.toNat * 2 ^ 6 + t.q.sdqHead.toNat * 2 ^ 9))
  let aq := padTo 512 ((t.q.aq.map fun e => leBytes 8 e.value.toNat ++ leBytes 8 ((if e.grant then 1 else 0) + 2)).flatten)
  let cq := padTo 256 ((t.q.cq.map fun e => leBytes 8 e.value.toNat).flatten)
  let viq := padTo 1024 ((t.q.viq.map ViqEntry.bytes).flatten)
  let descs := ((bySlot t.q.ldqHead t.q.ldq ++ bySlot t.q.sdqHead t.q.sdq).map fun o =>
    leBytes 8 (match o with | some e => e.descriptor | none => 0)).flatten
  let funcs := ((t.vec.pdesc.toList.map fun d => leBytes 8 d.toNat) ++ t.vec.dg.toList.map fun d => leBytes 8 d.toNat).flatten
  padTo 4096 (header ++ sliceBlock t.regs.user (t.sysBlock .access) ++ sliceBlock t.regs.comp (t.sysBlock .compute)
    ++ aq ++ cq ++ viq ++ descs ++ funcs)

/-- The payloads of LDQ and SDQ, 2 KiB per physical slot. -/
def Strand.areaQueues (t : Strand) : List Byte :=
  ((bySlot t.q.ldqHead t.q.ldq ++ bySlot t.q.sdqHead t.q.sdq).map fun o =>
    leBytes 2048 (match o with | some e => e.payload.toNat | none => 0)).flatten

/-- Bytes of a lane that a VVALID tag covers (R269). -/
def vvalidBytes (tag : Nat) : Nat := if tag = 0 then 0 else if tag = 1 then 32 else 64

/-- Lane `l`'s share of a mask register: element k × L + l at bit k (R80). -/
def maskLane (L : Nat) (m : Nat) (l : Nat) : Nat :=
  packBits 1 ((List.range (4096 / L)).map fun k => if m.testBit (k * L + l) then 1 else 0)

/-- The pieces of the vector, mask and function parts that a save writes, `dirty` telling which registers it does not skip. -/
def Strand.areaVector (t : Strand) (dirty : Nat → Bool) : List (Nat × List Byte) :=
  let L := t.id.lanes
  let ms := (List.range 8).flatMap fun r =>
    if t.vec.mvalid.getLsbD r && dirty (32 + r) then
      (List.range L).map fun l => (0x1000 + 512 * r + 16 * l, leBytes 16 (maskLane L (t.vec.m.get (Fin.ofNat 8 r)).toNat l))
    else []
  let vs := (List.range 32).flatMap fun r =>
    let n := vvalidBytes (t.vec.vvalid.get (Fin.ofNat 32 r)).toNat
    if n ≠ 0 && dirty r then
      (List.range L).map fun l =>
        (0x10000 + 2048 * r + 64 * l, leBytes n (bits (t.vec.v.get (Fin.ofNat 32 r)).toNat (512 * l) (8 * n)))
    else []
  let fs := (List.range 8).flatMap fun r =>
    let n := 64 * (t.vec.fvalid.get (Fin.ofNat 8 r)).toNat
    if n ≠ 0 && dirty (40 + r) then
      (List.range L).map fun l =>
        (0x20000 + 0x20000 * r + 4096 * l, leBytes n ((t.vec.f.get (Fin.ofNat 8 r)).get (Fin.ofNat 32 l)).toNat)
    else []
  ms ++ vs ++ fs

/-- Everything that a save writes, by offset (R268, R269). -/
def Strand.area (t : Strand) (xs : Word) : List (Nat × List Byte) :=
  let all := xs ≠ t.trap.restaddr
  (0, t.areaLow) ::
    ((if t.trap.vabsent then [] else t.areaVector fun r => all || t.vec.vdirty.getLsbD r)
      ++ [(0x2000, t.areaQueues)] ++ if t.trap.vabsent then [] else [(0xA000, List.replicate 0x6000 0)])

/-! Accesses to an area by pieces that lie in one page. -/

/-- Writing consecutive bytes for an agent on a die. -/
def State.performRange (s : State) (die key : Nat) (bs : List Byte) : State :=
  if isFar key then s.perform die (atKeys key bs) else { s with mem := s.mem.write key bs }

/-- Cutting bytes at 64 KiB page ends: offset and bytes of each piece. -/
def pagePieces (a : Nat) (bs : List Byte) : List (Nat × List Byte) :=
  (List.range (bs.length / 65536 + 2)).filterMap fun k =>
    let lo := if k = 0 then 0 else (65536 - a % 65536) + (k - 1) * 65536
    let hi := 65536 - a % 65536 + k * 65536
    let piece := (bs.take hi).drop lo
    if piece.isEmpty then none else some (a + lo, piece)

/-- The first of `n` bytes from a key that lies in a line with an uncorrectable error (R272). -/
def State.firstBad (s : State) (k n : Nat) : Option Nat :=
  (((List.range (n / 64 + 2)).map fun j => if j = 0 then 0 else lineOf k + 64 * j - k).filter fun o => o < n).find? fun o => s.isBad (k + o)

/-- Writing the pieces of an area at `base` through a root, up to the first that fails: its cause and address (R445). A write to a line with
an uncorrectable error fails there (log 15). -/
def State.writeArea (s : State) (die : Nat) (ptbr : Word) (base : Nat) : List (Nat × List Byte) → Except (State × Nat × Nat) State
  | [] => .ok s
  | (o, bs) :: rest =>
    match s.translate ptbr true .store (BitVec.ofNat 64 (base + o)) with
    | .error c => .error (s, c, base + o)
    | .ok k =>
      if isRemote k && s.remoteFails (remotePa k).1 then .error (s, 0x13, base + o)
      else
        match s.firstBad k bs.length with
        | some j => .error (s.performRange die k (bs.take j), memErr k, base + o + j)
        | none => (s.performRange die k bs).writeArea die ptbr base rest

/-- The pieces of a list of offsets and bytes. -/
def areaPieces (base : Nat) (l : List (Nat × List Byte)) : List (Nat × List Byte) :=
  l.flatMap fun p => (pagePieces (base + p.1) p.2).map fun q => (q.1 - base, q.2)

/-- Why a read of an area ends early. -/
inductive AreaStop
  | cause (code addr : Nat)
  | miss (lines : List (Nat × Nat))   -- far lines, each with its first address in the area
  deriving DecidableEq, Repr

/-- Reading `n` bytes of an area, page by page; a far line that is missing is named. -/
def State.readPiece (s : State) (die : Nat) (ptbr : Word) (a n : Nat) : Except AreaStop (List Byte) :=
  match s.translate ptbr true .load (BitVec.ofNat 64 a) with
  | .error c => .error (.cause c a)
  | .ok k =>
    if isRemote k && s.remoteFails (remotePa k).1 then .error (.cause 0x13 a)
    else
      match s.firstBad k n with
      | some j => .error (.cause (memErr k) (a + j))
      | none =>
        if isFar k then
          match s.bytesAt die k n with
          | some bs => .ok bs
          | none =>
            .error (.miss (((List.range (n / 64 + 1)).map fun j => (lineOf (k + 64 * j), a + (lineOf (k + 64 * j) - k))).filter fun l =>
              l.1 < k + n && (s.bytesAt die l.1 64).isNone))
        else .ok (s.mem.bytes k n)

/-- Reading `n` bytes across pages. -/
def State.readArea (s : State) (die : Nat) (ptbr : Word) (a n : Nat) : Except AreaStop (List Byte) :=
  (pagePieces a (List.replicate n 0)).foldl (fun (r : Except AreaStop (List Byte)) p =>
    match r with
    | .error e => .error e
    | .ok bs =>
      match s.readPiece die ptbr p.1 p.2.length with
      | .error e => .error e
      | .ok more => .ok (bs ++ more)) (.ok [])

/-! VSAVE. -/

/-- VSAVE's effect (R268, R269, R445): performed at DEVICE scope before it completes, precise at its first fault, which leaves the strand's
state as it is, the access slice's VSTART too. The conflicts that VBCONF
has yet to count are a free value, as before a read (R97; log 6). -/
def State.vsave (s : State) (xs : Word) : State :=
  let s := s.settleOwn.countConflicts
  match s.writeArea s.strand.die s.strand.trap.ptbr xs.toNat (areaPieces xs.toNat (s.strand.area xs)) with
  | .ok s => s.advance 4
  | .error (s, c, a) => s.raiseAt ⟨BitVec.ofNat 8 c, BitVec.ofNat 64 a⟩

/-- VSAVE (R268, R269, R444). -/
def execVsave (xs : Reg) (s : State) : Out :=
  s.onAccess (.vsave xs) fun s =>
    let a := s.x xs
    if !s.strand.trap.priv || !s.strand.trap.ack then .next (s.illegal (.vsave xs))
    else if a.toNat % 65536 ≠ 0 then .next (s.misalign a)
    else if s.strand.trap.vabsent && a ≠ s.strand.trap.restaddr then .next (s.illegal (.vsave xs))
    else .next (s.vsave a)

/-! VRESTORE. -/

/-- A number in the low part of an area. -/
def areaNat (low : List Byte) (o n : Nat) : Nat := leNat ((low.drop o).take n)

/-- Does GEOM and do the tags suit the strand (R271)? -/
def geomOk (lanes : Nat) (low : List Byte) : Bool :=
  let g := areaNat low 0 8
  let v := areaNat low 16 8
  let f := areaNat low 24 8 / 2 ^ 8
  bits g 0 8 == lanes && bits g 8 8 ≤ 32 && bits g 16 8 ≤ 32 && bits g 24 8 == 1 && bits g 32 32 == 0
    && ((List.range 32).all fun r => bits v (2 * r) 2 != 3) && (List.range 8).all fun r => bits f (7 * r) 7 ≤ 64

/-- The tags of an area. -/
def VecState.loadTags (v : VecState) (low : List Byte) : VecState :=
  { v with
    vvalid := Vector.ofFn fun r : Fin 32 => BitVec.ofNat 2 (bits (areaNat low 16 8) (2 * r.val) 2)
    mvalid := BitVec.ofNat 8 (areaNat low 24 1)
    fvalid := Vector.ofFn fun r : Fin 8 => BitVec.ofNat 7 (bits (areaNat low 24 8) (8 + 7 * r.val) 7) }

/-- The function descriptors and degrees of an area. -/
def VecState.loadFuncs (v : VecState) (low : List Byte) : VecState :=
  { v with
    pdesc := Vector.ofFn fun r : Fin 8 => BitVec.ofNat 25 (areaNat low (0xC80 + 8 * r.val) 8)
    dg := Vector.ofFn fun r : Fin 8 => BitVec.ofNat 4 (areaNat low (0xCC0 + 8 * r.val) 8) }

/-- The ranges that a restore reads beyond the low part: offset, bytes. -/
def restoreRanges (v : VecState) (L : Nat) : List (Nat × Nat) :=
  ((List.range 8).filter fun r => v.mvalid.getLsbD r).map (fun r => (0x1000 + 512 * r, 16 * L))
    ++ ((List.range 32).filter fun r => (v.vvalid.get (Fin.ofNat 32 r)).toNat ≠ 0).flatMap (fun r =>
      (List.range L).map fun l => (0x10000 + 2048 * r + 64 * l, vvalidBytes (v.vvalid.get (Fin.ofNat 32 r)).toNat))
    ++ ((List.range 8).filter fun r => (v.fvalid.get (Fin.ofNat 8 r)).toNat ≠ 0).flatMap fun r =>
      (List.range L).map fun l => (0x20000 + 0x20000 * r + 4096 * l, 64 * (v.fvalid.get (Fin.ofNat 8 r)).toNat)

/-- Reading ranges in order, up to the first that stops. -/
def State.readRanges (s : State) (base : Nat) : List (Nat × Nat) → Except AreaStop (List (Nat × List Byte))
  | [] => .ok []
  | (o, n) :: rest =>
    match s.readArea s.strand.die s.strand.trap.ptbr (base + o) n with
    | .error e => .error e
    | .ok bs =>
      match s.readRanges base rest with
      | .error e => .error e
      | .ok l => .ok ((o, bs) :: l)

/-- One loaded range into its register. -/
def VecState.loadRange (v : VecState) (L : Nat) (o : Nat) (bs : List Byte) : VecState :=
  let x := leNat bs
  if o < 0x10000 then
    let m := (List.range (L * (4096 / L))).foldl (fun m e =>
      if x.testBit (128 * (e % L) + e / L) && decide (e / L < 128) then m + 2 ^ e else m) 0
    let r : Fin 8 := Fin.ofNat 8 ((o - 0x1000) / 512)
    { v with m := v.m.set r.val (BitVec.ofNat 4096 m) r.isLt }
  else if o < 0x20000 then
    let r : Fin 32 := Fin.ofNat 32 ((o - 0x10000) / 2048)
    let l := (o - 0x10000) % 2048 / 64
    { v with v := v.v.set r.val (putBits (v.v.get r) (512 * l) 512 x) r.isLt }
  else
    let r : Fin 8 := Fin.ofNat 8 ((o - 0x20000) / 0x20000)
    let l : Fin 32 := Fin.ofNat 32 ((o - 0x20000) % 0x20000 / 4096)
    { v with f := v.f.set r.val ((v.f.get r).set l.val (BitVec.ofNat 32768 x) l.isLt) r.isLt }

/-- A read of an area that cannot go on: its trap, or the wait for the far lines that are missing. -/
def State.areaStop (s : State) (e : AreaStop) : State :=
  match e with
  | .cause c a => s.trap c (BitVec.ofNat 64 a)
  | .miss lines =>
    match s.cur.reply with
    | some r =>
      match lines.find? fun l => l.1 == r.addr with
      | some l => if r.ok then s.takeReply.wait .reply else s.takeReply.trap 0x13 (BitVec.ofNat 64 l.2)
      | none => s.takeReply.wait .reply
    | none => if s.cur.waitReq.isSome then s.wait .reply else s.vask (lines.map (·.1)).eraseDups

/-- VRESTORE's effect (R269, R271, R445). R81 names it among the writers of VLA and VLC; of what R269 lists it writes neither, and the
switch-in loads them (log 63). -/
def State.vrestore (s : State) (xs : Word) : State :=
  let s := s.settleOwn
  match s.readArea s.strand.die s.strand.trap.ptbr xs.toNat 4096 with
  | .error e => s.areaStop e
  | .ok low =>
    if !geomOk s.lanes low then s.trap 0x0F xs
    else
      let v := ((VecState.zero).loadTags low).loadFuncs low
      match s.readRanges xs.toNat (restoreRanges v s.lanes) with
      | .error e => s.areaStop e
      | .ok l =>
        let s := s.mapVec fun _ => l.foldl (fun (v : VecState) p => v.loadRange s.lanes p.1 p.2) v
        (s.takeReply.mapTrap fun t => { t with restaddr := xs, vabsent := false }).advance 4

/-- VRESTORE (R268, R269, R444). -/
def execVrestore (xs : Reg) (s : State) : Out :=
  s.onAccess (.vrestore xs) fun s =>
    let a := s.x xs
    if !s.strand.trap.priv || !s.strand.trap.ack then .next (s.illegal (.vrestore xs))
    else if a.toNat % 65536 ≠ 0 then .next (s.misalign a)
    else .next (s.vrestore a)

/-! The switch-in (R269). -/

/-- A slice from its system block. -/
def loadSlice (low : List Byte) (o : Nat) (halted : Bool) : Slice :=
  let f := fun k n => areaNat low (o + 256 + 8 * k) n
  let w := f 5 8
  { pc := BitVec.ofNat 64 (f 0 8), fcsr := BitVec.ofNat 13 (f 1 8), vl := BitVec.ofNat 24 (f 2 8), legal := bits (f 3 8) 0 1 == 1,
    width := BitVec.ofNat 3 (bits (f 3 8) 1 3), vstart := BitVec.ofNat 24 (f 4 8), halted := halted, stall := none,
    barWait := if bits w 11 1 = 1 then some ⟨bits w 10 1 == 1, bits w 0 10, BitVec.ofNat 32 (bits w 32 32)⟩ else none,
    waitReq := none, reply := none, popMark := 0, sent := 0 }

/-- 32 registers of a slice block. -/
def loadBank (low : List Byte) (o : Nat) : Vector Word 32 :=
  Vector.ofFn fun r : Fin 32 => if r.val = 0 then 0 else BitVec.ofNat 64 (areaNat low (o + 8 * r.val) 8)

/-- An LDQ or SDQ queue: entries from the oldest on, as long as they are in use. -/
def loadQueue (low pay : List Byte) (descs pays head : Nat) : List QSlot :=
  (List.range 8).filterMap fun k =>
    let p := (head + k) % 8
    let d := areaNat low (descs + 8 * p) 8
    if bits d 27 2 = 0 then none
    else
      some { count := BitVec.ofNat 24 (bits d 0 24), width := BitVec.ofNat 3 (bits d 24 3), full := bits d 27 2 == 2,
             arrived := bits d 27 2 == 2, filled := BitVec.ofNat 24 (bits d 29 24),
             payload := BitVec.ofNat 16384 (areaNat pay (pays + 2048 * p) 2048), mark := 0 }

/-- The vector instruction queue of an area, whose entries come back at a point of the detector's time; an entry whose encoding names no
instruction is left out. -/
def loadViq (low : List Byte) (stamp : Nat) : List ViqEntry :=
  (List.range 32).filterMap fun k =>
    let o := 0x800 + 32 * k
    let w := areaNat low o 8
    let a := areaNat low (o + 24) 8
    if bits a 0 1 = 0 then none
    else
      match decodeWord (lengthOf (w % 65536)) w with
      | .ok i =>
        some ⟨i, BitVec.ofNat 64 (areaNat low (o + 8) 8), BitVec.ofNat 64 (areaNat low (o + 16) 8), BitVec.ofNat 64 (bits a 1 55 * 2),
          if bits a 59 1 = 1 then some (BitVec.ofNat 3 (bits a 56 3)) else none, isMarker i, stamp, 0, true⟩
      | .error _ => none

/-- A strand as its area describes it: everything below 0x1000 and the queue payloads, with VABSENT = 1 and RESTADDR the area
(R269). `pay` holds the bytes from 0x2000 on. Reserved bits are not kept (R2). -/
def Strand.switchIn (t : Strand) (area : Word) (low pay : List Byte) (stamp : Nat) : Strand :=
  let flags := areaNat low 8 8
  let qpos := areaNat low 32 8
  let sys := fun o k => areaNat low (o + 256 + 8 * k) 8
  let ldqHead := bits qpos 6 3
  let sdqHead := bits qpos 9 3
  { t with
    acc := loadSlice low 0x100 (bits flags 0 1 == 1)
    cmp := loadSlice low 0x300 (bits flags 1 1 == 1)
    regs := ⟨loadBank low 0x100, t.regs.super, loadBank low 0x300⟩
    vec := (VecState.zero.loadTags low).loadFuncs low
    q :=
      { ldq := loadQueue low pay 0xC00 0 ldqHead, ldqHead := BitVec.ofNat 3 ldqHead
        sdq := loadQueue low pay 0xC40 0x4000 sdqHead, sdqHead := BitVec.ofNat 3 sdqHead
        aq := (List.range 32).filterMap fun k =>
          let m := areaNat low (0x500 + 16 * k + 8) 8
          if bits m 1 1 = 1 then some ⟨BitVec.ofNat 64 (areaNat low (0x500 + 16 * k) 8), bits m 0 1 == 1, 0⟩ else none
        cq := (List.range (min 32 (bits qpos 0 6))).map fun k => ⟨BitVec.ofNat 64 (areaNat low (0x700 + 8 * k) 8), 0⟩
        viq := loadViq low stamp, headStall := none, headReq := none, headReply := none, mq := [] }
    sys :=
      { mtype := BitVec.ofNat 2 (sys 0x100 6), spstat := BitVec.ofNat 2 (sys 0x300 6), slip := BitVec.ofNat 4 (sys 0x100 7)
        lod := BitVec.ofNat 48 (sys 0x100 10), lodcyc := BitVec.ofNat 48 (sys 0x100 11), vbconf := BitVec.ofNat 48 (sys 0x300 7), vbrun := false
        ovf := bits (sys 0x100 12) 0 1 == 1 }
    trap :=
      { t.trap with
        tvec := BitVec.ofNat 64 (sys 0x100 9) &&& 0x00FFFFFFFFFFFFFE, ptbr := BitVec.ofNat 64 (sys 0x100 8) &&& 0x000FFFFFFFFFFF03
        restaddr := area, vabsent := true, savearea := if t.trap.preempt then t.trap.savearea else area } }

/-- The PREEMPT trap that begins a switch-in: TSTAT.RESUME = 1 and TADDR the area (R263, R269). -/
def Strand.resumeTrap (t : Strand) (area : Word) : Strand := t.enterTrap ⟨0x17, area⟩ false true false t.acc.pc t.cmp.pc

end Sys2Proof.Machine
end

