-- ==== Sys2Proof/Machine/Requests.lean ====
section
/-! DEFINITION. The ends of requests to the host and to remote packages (R249 to R251, R333, R406), and the memory slices' own
steps: an access performed, a write-back (R200, R203, R272, R406). -/

namespace Sys2Proof.Machine

/-- Changing one slice of the strand on a core pair. -/
def State.mapSlice (s : State) (key : Nat) (side : Side) (f : Slice → Slice) : State :=
  s.mapStrands (fun t => t.key == key) fun t =>
    if side = .access then { t with acc := f t.acc } else { t with cmp := f t.cmp }

/-- A slice of the strand on a core pair. -/
def State.sliceAt (s : State) (key : Nat) (side : Side) : Option Slice :=
  (s.strands.find? fun t => t.key == key).map fun t => if side = .access then t.acc else t.cmp

/-- Has a slice requests of its own that are not answered? -/
def State.outstanding (s : State) (key : Nat) (side : Side) : Bool := s.reqs.any fun r => r.who == .slice key side

/-- Does a slice wait for the answer of one request alone: an atomic, a vector packet or a fresh read? -/
def State.waitsForData (s : State) (c : Slice) : Bool :=
  s.reqs.any fun r => c.waitReq == some r.id && !r.fill && r.mask == 0

/-- The bytes of a line whose write-back by a die is still in flight. -/
def State.inFlightMask (s : State) (die line : Nat) : BitVec 64 :=
  (s.reqs.filter fun r => r.die == die && r.addr == line).foldl (fun m r => m ||| r.mask) 0

/-- The write-back of a request has ended: its bytes are no longer in flight, and a copy that holds nothing else is dropped. -/
def State.landed (s : State) (r : Request) : State :=
  if r.mask = 0 then s
  else
    let still := s.inFlightMask r.die r.addr
    { s with l2 := (s.l2.map fun l : L2Line => if l.die == r.die && l.line == r.addr then { l with flying := l.flying &&& still } else l).filter fun l =>
        !(l.die == r.die && l.line == r.addr) || l.filled || (l.dirty ||| l.flying) != 0 }

/-- The bytes of a failed write-back are dirty again, as they left, but for those written since (R406). -/
def State.dirtyAgain (s : State) (r : Request) : State :=
  if r.mask = 0 then s
  else
    let l := (s.l2Line r.die r.addr).getD ⟨r.die, r.addr, false, 0, 0, 0⟩
    let back := r.mask &&& ~~~(l.dirty ||| s.inFlightMask r.die r.addr)
    let data := (List.range 64).foldl (fun (d : BitVec 512) i =>
      if back.getLsbD i then putBits d (8 * i) 8 (bits r.data.toNat (8 * i) 8) else d) l.data
    s.setLine { l with data := data, dirty := l.dirty ||| back, flying := l.flying &&& ~~~back }

/-- What a command wrote to a line has not reached its package: the die's copy of it is no longer known to be right (R212). -/
def State.lineLost (s : State) (r : Request) : State :=
  ({ s with l2 := s.l2.map fun l : L2Line => if l.die == r.die && l.line == r.addr then { l with filled := false } else l }).landed r

/-- A request of a slice that has left the list ends well. Fills end the wait once all have come; the answer to a single request, or the
last acknowledgement of a release, is kept for the slice. -/
def State.sliceDone (s : State) (r : Request) (key : Nat) (side : Side) (data : List Byte) : State :=
  let rest := s.outstanding key side
  s.mapSlice key side fun c =>
    if c.waitReq.isNone || c.reply.isSome then c
    else if r.fill then (if rest then c else { c with waitReq := none })
    else if r.mask = 0 then (if c.waitReq = some r.id then { c with reply := some ⟨r.addr, false, true, data⟩ } else c)
    else if c.stall = some .release && !rest then { c with reply := some ⟨r.addr, true, true, []⟩ }
    else c

/-- A request of a slice that has left the list fails: the slice traps REMOTE when it takes the answer (R251). -/
def State.sliceFailed (s : State) (r : Request) (key : Nat) (side : Side) : State :=
  match s.sliceAt key side with
  | none => s
  | some c =>
    if c.waitReq = some r.id || (c.waitReq.isSome && !s.waitsForData c) then
      s.mapSlice key side fun c => { c with reply := some ⟨r.addr, c.stall == some .release, false, []⟩ }
    else s

/-- A line of a VWAIT's flags has come, or its request has failed (R43). -/
def State.queueDone (s : State) (r : Request) (key : Nat) (ok : Bool) : State :=
  let rest := s.reqs.any fun r => r.who == .queue key
  s.mapStrands (fun t => t.key == key) fun t =>
    if t.q.headReq.isNone then t
    else if !ok then { t with q := { t.q with headReply := some ⟨r.addr, false, false, []⟩ } }
    else if rest then t
    else { t with q := { t.q with headReq := none } }

/-- The address whose line failed, among the bytes that a command reads; for a mark or a write-back, its destination (R190). -/
def State.engFailAddr (s : State) (c : Command) (r : Request) : Nat :=
  if r.fill then
    ((s.engSource c).find? fun a => match s.engLoc c .global c.readNeed a with
      | .ok k => lineOf k == r.addr
      | .error _ => false).getD (engDesc c.desc).dst
  else (engDesc c.desc).dst

/-- A request of a command fails: the command ends with code REMOTE (R190, R251). -/
def State.engFailed (s : State) (r : Request) (cluster seq : Nat) : State :=
  match (s.engine cluster).cmds.find? fun c => c.seq == seq with
  | none => s
  | some c => s.setCommand { c with failed := some 8, code := 8, failAddr := BitVec.ofNat 64 (s.engFailAddr c r) }

/-- The line that buffered adds wait for cannot be had: they are lost, and the completion of their launch is faulty (R34, R223; log 57). -/
def State.dueLost (s : State) (r : Request) : State :=
  let gone := s.det.due.filter fun d => d.die == r.die && lineOf d.key == r.addr
  gone.foldl (fun (u : State) d => d.adds.foldl (fun u a => u.mapLaunch a.lid fun l => { l with faulty := true }) u)
    { s with det := { s.det with due := s.det.due.filter fun d => !(d.die == r.die && lineOf d.key == r.addr) } }

/-- A request of the hub for a launch fails: a failed read of a save area aborts the launch (R267), anything else is a fault of its
completion write (R34). -/
def State.launchFailed (s : State) (r : Request) (lid : BitVec 32) : State :=
  if r.fill then s.abort lid 3 else s.mapLaunch lid fun l => { l with faulty := true }

/-- The launches whose triggers wait for write-backs are looked at again (R49). -/
def State.refire (s : State) : State := ((s.launches.filter fun l => l.atSystem && !l.triggered).map (·.pkt.lid)).foldl State.fireTrigger s

/-- A request ends: of the lines that an atomic or a packet has written at their home no older copy stays (R333). Its line becomes the die's copy (R214), unless it may be older than what the die has done since it was asked for: then
who waits asks again (R202, R216). Who waits for it learns of it. -/
def State.complete (s : State) (r : Request) (ok : Bool) (data : List Byte) : State :=
  let s := { s with reqs := s.reqs.filter fun x => x.id != r.id }
  let s := r.wrote.foldl (fun (u : State) w => u.outdated r.die w.1) s
  let s :=
    if ok then
      let s := if r.fill then (if r.stale then s else s.installLine r.die r.addr data) else s.landed r
      match r.who with
      | .slice key side => s.sliceDone r key side data
      | .queue key => s.queueDone r key true
      | .engine .. | .engineLines | .launch _ | .hub => s
    else
      match r.who with
      | .slice key side => (s.dirtyAgain r).sliceFailed r key side
      | .queue key => (s.dirtyAgain r).queueDone r key false
      | .engine c q => (s.dirtyAgain r).engFailed r c q
      | .engineLines => s.lineLost r
      | .launch lid => (s.dirtyAgain r).launchFailed r lid
      | .hub => if r.fill then s.dueLost r else s.dirtyAgain r
  (if s.det.due.isEmpty then s else s.applyDue r.die).refire

/-- PCIE_COMPLETION: the host's answer to a HOST-tier read or atomic; Unsupported Request and Completer Abort fail it (R333). -/
def execPcieCompletion (a : HostReply) (s : State) : Out :=
  match s.reqs.find? fun r => r.id == a.id && !r.remote with
  | some r => .next (s.complete r a.ok a.data)
  | none => .next s

/-! Memory slices. -/

/-- The `i`-th waiting access of the strand in focus, when nothing before it has to be performed first (R61, R203). -/
def Strand.headAccess (t : Strand) (i : Nat) : Option Access :=
  match t.stores[i]? with
  | none => none
  | some a => if (t.stores.take i).any fun x => x.precedes a then none else some a

/-- Performing the `i`-th waiting access of the strand in focus. -/
def State.performHead (s : State) (i : Nat) : State :=
  match s.strand.headAccess i with
  | none => s
  | some a =>
    let u := s.performOne a
    { u with strand := ({ u.strand with stores := s.strand.stores.eraseIdx i } : Strand).settleSlots s.strand }

/-- ACCESS_PERFORMED: a memory slice applies the head of one of the strand's FIFOs (R200, R203). -/
def execAccessPerformed (strand i : Nat) (s : State) : Out :=
  .next (if s.isResident strand then s.withFocus strand fun s => s.performHead i else s)

/-- Tier code and physical address of a far line, as a MEMERR record has them (R178, R280). -/
def farPa (line : Nat) : Nat × Nat := if isRemote line then (3, (remotePa line).2) else (2, line - 2 ^ 60)

/-- Posting MEMERR (R272, R280). -/
def State.postMemErr (s : State) (source tier pa : Nat) : State :=
  s.post (record 0x07 source 0 ([0, 0, 0, 0] ++ leBytes 8 tier ++ leBytes 8 pa))

/-- WRITE_BACK: a copy leaves an L2 slice, a dirty one by a write-back; an uncorrectable error found there posts MEMERR and leaves it
dirty (R214, R247, R272, R406; log 40). -/
def execWriteBack (i : Nat) (ok : Bool) (s : State) : Out :=
  match s.l2[i]? with
  | none => .next s
  | some l =>
    if s.backInFlight l.die l.line then .next s
    else if l.dirty = 0 then .next (s.dropLine l.die l.line)
    else if !ok then let (t, pa) := farPa l.line; .next (s.postMemErr 1 t pa)
    else if isRemote l.line && s.remoteFails (remotePa l.line).1 then .next s
    else .next (s.writeBackLine .hub l 1)

end Sys2Proof.Machine
end

