-- ==== Sys2Proof/Machine/Units.lean ====
section
/-! DEFINITION. Steps of the units of a cluster: grants, markers, timeouts, arriving loads, VWAIT's checks, trap entry, the end of
a matrix instruction (R35, R43, R51, R55, R68, R71, R90, R101, R167, R168, R211, R223, R261). -/

namespace Sys2Proof.Machine

/-- A step of a unit on a resident strand; nothing happens without that strand. -/
def State.onStrand (s : State) (key : Nat) (f : State → State) : State := if s.isResident key then s.withFocus key f else s

/-- Granting the head of the matrix queue in focus, an MMA or MZERO (R35, R167). -/
def State.grantHead (s : State) : State :=
  match s.strand.q.mq with
  | [] => s
  | e :: rest => if !e.granted && !isSyncMatrix e.ins && s.grantable e then s.mapQ fun q => { q with mq := { e with granted := true } :: rest } else s

/-- ARBITER_GRANT: of the matrix unit, which marks the head of the strand's matrix queue; a grant of the vector memory unit
changes no architectural state (R35). -/
def execArbiterGrant (strand : Nat) (matrixUnit : Bool) (s : State) : Out :=
  .next (if matrixUnit then s.onStrand strand State.grantHead else s)

/-- MATRIX_INSTRUCTION_END: the granted head of the matrix queue finishes (R168). -/
def execMatrixInstructionEnd (strand : Nat) (s : State) : Out :=
  .next (s.onStrand strand fun s =>
    match s.strand.q.mq with
    | e :: _ => if e.granted then s.mqEnd else s
    | [] => s)

/-- Is the queue of the strand in focus frozen (R261, R269)? So it is from the moment at which the compute slice stops on a fault (R73). -/
def State.viqFrozen (s : State) : Bool :=
  s.strand.trap.held || (match s.strand.cmp.stall with | some (.fault _) => true | _ => false) || s.strand.trap.dead || s.strand.trap.parked || s.strand.trap.loading || s.strand.trap.vabsent || !s.strand.resident

/-- The entry at the head of the vector instruction queue, which has come to a fault `c` from `s` in the state `u`. While the access slice
stands stopped its cause is reported, and the fault has had no effect and recurs (R71). When nothing younger has executed the trap is precise
at the entry (R73). Otherwise the compute slice stops precisely where it stands, with the entry waiting in the queue, which runs again
from the element at which it stopped (R72; log 17). An instruction at the PC that waits for an answer completes first. -/
def State.entryTrap (s : State) (e : ViqEntry) (u : State) (c : Trap) : State :=
  if s.strand.cmp.waitReq.isSome then s
  else
    match s.strand.trap.accStop with
    | some a => s.enterTrap a false
    | none =>
      if e.passed then u.ranVector.raise c
      else ((u.ranVector.mapQ fun q => { q with viq := [] }).goto e.addr).raise c

/-- The marker at the head of the vector instruction queue may fire; while a trap is handled the queue is frozen (R261). -/
def State.releaseMarker (s : State) (which : Instr → Bool) : State :=
  match s.strand.q.viq with
  | e :: rest =>
    if which e.ins && !s.strand.trap.held then s.mapQ fun q => { q with viq := { e with waiting := false } :: rest } else s
  | [] => s

/-- Is an instruction a barrier marker of the vector instruction queue? -/
def isArrival (i : Instr) : Bool := isMarker i && i != .convoy

/-- ARRIVAL_MARKER_FIRE (R38, R211): the conditions of the marker at the head are met. -/
def execArrivalMarkerFire (strand : Nat) (s : State) : Out := .next (s.onStrand strand fun s => s.releaseMarker isArrival)

/-- CONVOY_MARKER_FIRE (R101). -/
def execConvoyMarkerFire (strand : Nat) (s : State) : Out :=
  .next (s.onStrand strand fun s => s.releaseMarker fun i => i == .convoy)

/-- LDQ_SLOT_FULL: the oldest slot whose elements have all arrived becomes FULL (R55). -/
def execLdqSlotFull (strand : Nat) (s : State) : Out :=
  .next (s.onStrand strand fun s => s.mapQ fun q =>
    match q.ldq.findIdx? fun e => e.arrived && !e.full with
    | some k => { q with ldq := q.ldq.modify k fun e => { e with full := true } }
    | none => q)

/-! Deadlock (R51, R68). -/

/-- The instruction at the PC of a slice of the strand in focus, when it can be fetched. -/
def State.atPc (s : State) (side : Side) : Option Instr :=
  match ({ s with side := side }).fetch with
  | .ok (len, w) => match decodeWord len w with | .ok i => some i | .error _ => none
  | .error _ => none

/-- SDQ entries that a vector memory instruction needs (R60, R420). -/
def sdqNeed (i : Instr) : Nat :=
  match i with
  | .vse _ | .vss .. | .vsb .. | .vlx _ => 1
  | .vsx _ | .vamo .. => 2
  | _ => 0

/-- Is the access slice blocked on its partner now (R68)? -/
def State.accessBlocked (s : State) : Bool :=
  let q := s.strand.q
  s.strand.acc.halted ||
    match s.strand.acc.stall with
    | some .cqEmpty => q.cq.isEmpty
    | some .aqFull => decide (32 ≤ q.aq.length)
    | some .slipLimit => q.boundPops == 0 && (decide (s.strand.sys.slip.toNat ≤ q.ldq.length) || decide (8 ≤ q.ldq.length))
    | some .sdqShort => q.boundPushes == 0 && (match s.atPc .access with | some i => decide (q.sdq.length < sdqNeed i) | none => false)
    | _ => false

/-- Is the compute slice blocked on its partner now (R68)? -/
def State.computeBlocked (s : State) : Bool :=
  let q := s.strand.q
  s.strand.cmp.halted ||
    match s.strand.cmp.stall with
    | some .aqEmpty => q.aq.isEmpty
    | some .popUnreserved => decide (q.ldq.length ≤ q.boundPops)
    | some .cqFull => decide (32 ≤ q.cq.length)
    | some .sdqFull => decide (8 ≤ q.sdq.length + q.boundPushes)
    | _ => false

/-- Are both slices blocked on each other, at U, with no cause of higher rank (R51, R68, R261)? -/
def State.deadlocked (s : State) : Bool :=
  s.accessBlocked && s.computeBlocked && !(s.strand.acc.halted && s.strand.cmp.halted) && !s.strand.trap.priv
    && !s.strand.trap.held && s.strand.trap.accStop.isNone && !s.strand.trap.dead && !s.strand.trap.parked && !s.strand.trap.loading

/-- QUEUE_DEADLOCK_TIMEOUT: the strand traps QUEUE (R51, R68). -/
def execQueueDeadlockTimeout (strand : Nat) (s : State) : Out :=
  .next (s.onStrand strand fun s => if s.deadlocked then s.enterTrap ⟨0x0E, 0⟩ false else s)

/-! Timeouts of R71, R43 and R223. -/

/-- COMPUTE_STOP_TIMEOUT: the compute slice stops at the next instruction that reaches dispatch, and the access slice's trap is
taken (R71). An instruction that has asked a host or package is not the next one: it completes first. -/
def execComputeStopTimeout (strand : Nat) (s : State) : Out :=
  .next (s.onStrand strand fun s => if s.strand.trap.dead || s.strand.cmp.waitReq.isSome || s.strand.q.matrixBegun then s else s.takeStopped)

/-- The slice that reads a part of a strand's storage. -/
def lostSide : LostPart → Side
  | .reg side .. => side
  | .tcm side _ => side
  | .sdq | .cq => .access
  | .vec _ | .ldq | .aq | .viq => .compute

/-- The error stays in the storage: of a TCM with the line, as in memory (R272). -/
def State.noteLost (s : State) (p : LostPart) : State :=
  match p with
  | .tcm side line => { s with bad := tcmKey s.strand.id.cluster s.strand.id.pair side (64 * line.val) :: s.bad }
  | p => { s with strand := { s.strand with lost := p :: s.strand.lost } }

/-- A slice finds an uncorrectable error in its registers, in a queue, in its TCM or in function storage: MEMERR with STATE = 1 and TADDR 0,
a double fault at S before the TACK; every later read finds it again (R263, R265, R272, R378). A synchronous matrix instruction that has begun
completes first (R72, R162). -/
def State.stateLost (s : State) (part : LostPart) : State :=
  let t := s.strand
  let side := lostSide part
  if t.trap.dead || t.trap.parked || t.trap.loading || t.completed || t.q.matrixBegun then s
  else if t.trap.priv && !t.trap.ack then (s.noteLost part).doubleFault ⟨0x0B, 0⟩
  else
    let s := (s.noteLost part).pastVlsync
    let s := (if side = .compute then s else s.stopAtFence).finishLoads.orphan fun w => w.isSlice s.strand.key
    { s with strand := s.strand.enterTrap ⟨0x0B, 0⟩ (side == Side.compute) false true s.strand.acc.pc s.strand.cmp.pc }

/-- TRAP_ENTRY: the trap that is ready for the strand is taken (R261): MEMERR for lost state, when the event brings it; a fault of the access
slice once the compute slice has stopped; otherwise a pre-emption. -/
def execTrapEntry (e : TrapEvent) (s : State) : Out :=
  .next (s.onStrand e.strand fun s =>
    match e.lost with
    | some part => s.stateLost part
    | none =>
    if s.strand.trap.accStop.isSome then (if !s.strand.trap.dead && s.computeStopped then s.takeStopped else s)
    else if s.preemptReady then s.takePreempt
    else s)

/-- A step of the VWAIT that waits at the head of the vector instruction queue, `last` telling from its timeout whether this is its last
check (R43, R98). -/
def State.vwaitStep (s : State) (last : Word → Bool) : State :=
  if s.viqFrozen then s
  else
    match s.strand.q.viq with
    | [] => s
    | e :: rest =>
      match e.ins with
      | .vwait a =>
        if s.strand.q.headStall.isNone then s
        else
          let u :=
            match ({ s with side := .compute, stamp := e.stamp }).vwait a e.scalar (last e.scalar) with
            | .blocked t => t
            | .out (.done t) => (t.mapQ fun q => { q with viq := rest }).ranVector
            | .out (.trap t c) => ({ s with side := .compute }).entryTrap e t c
          { u with side := s.side, stamp := s.stamp }
      | _ => s

/-- VWAIT_RECHECK (R43). -/
def execVwaitRecheck (strand : Nat) (s : State) : Out := .next (s.onStrand strand fun s => s.vwaitStep fun _ => false)

/-- VWAIT_TIMEOUT: a timeout of all ones never expires (R42, R43). -/
def execVwaitTimeout (strand : Nat) (s : State) : Out :=
  .next (s.onStrand strand fun s => s.vwaitStep fun x => x != BitVec.allOnes 64)

/-- The AMOFADD.DET of a slice that waits for space traps DETERM (R223). -/
def State.detTimeout (s : State) (side : Side) : State :=
  match s.atPc side with
  | some (.amofaddDet a) =>
    let t := { s with side := side }
    { t.determ (t.x a.rs1) with side := s.side }
  | _ => s

/-- DET_ADD_WAIT_TIMEOUT (R223). -/
def execDetAddWaitTimeout (strand : Nat) (s : State) : Out :=
  .next (s.onStrand strand fun s =>
    if s.strand.acc.stall = some .detSpace then s.detTimeout .access
    else if s.strand.cmp.stall = some .detSpace && !s.strand.trap.held then s.detTimeout .compute
    else s)

/-- GRANT_OVERRUN_THROTTLE: the idle cycles change no result (R90). -/
def execGrantOverrunThrottle (_strand : Nat) (s : State) : Out := .next s

end Sys2Proof.Machine
end

