-- ==== Sys2Proof/Machine/HostRegs.lean ====
section
/-! DEFINITION. Host writes of the BAR0 registers of the queues, of the start-up block and of the port status (R2, R231, R280). -/

namespace Sys2Proof.Machine

/-- A host link that has trained (R280). -/
def linkUp (l : BitVec 4) : Bool := l == 1 || l == 2

/-- A host write of BAR0, which only link 0 brings: without it nothing is written (R13, R14). -/
def State.bar0 (s : State) (f : State → State) : Out := .next (if linkUp s.hub.link0 then f s else s)

/-- Entries of a launch queue (R280). -/
def LaunchQueue.entries (l : LaunchQueue) : Nat := 2 ^ (l.size.toNat % 32)

/-- Setting LQCTL.ERR of a queue. -/
def State.lqErr (s : State) (q : Nat) : State := s.setLq q { s.lq q with err := true }

/-- LQTAIL_WRITE (R280): a tail that moves backwards, or that stands more than the queue size ahead of LQHEAD, is ignored and sets
ERR. A tail that advances posts packets, in the order in which the writes reach BAR0 (R31). -/
def execLqtailWrite (q : Fin 64) (v : Word) (s : State) : Out :=
  s.bar0 fun s =>
  let l := s.lq q.val
  let t : BitVec 32 := BitVec.setWidth 32 v
  let ahead := (t - l.head).toNat
  if ahead < (l.tail - l.head).toNat || l.entries < ahead then s.lqErr q.val
  else if t = l.tail then s
  else
    let s := s.setLq q.val { l with tail := t, posts := l.posts ++ [(t, s.hub.postOrder)] }
    { s with hub := { s.hub with postOrder := s.hub.postOrder + 1 } }

/-- LQSIZE_WRITE (R280): outside 4 to 16 it is ignored and sets ERR. -/
def execLqsizeWrite (q : Fin 64) (v : Word) (s : State) : Out :=
  let n := v.toNat % 32
  s.bar0 fun s => if 4 ≤ n ∧ n ≤ 16 then s.setLq q.val { s.lq q.val with size := BitVec.ofNat 64 n } else s.lqErr q.val

/-- Changing the event queue; held records then enter it as far as there is room and EN is 1 (R280). -/
def State.mapEvents (s : State) (f : EventQueue → EventQueue) : State :=
  ({ s with hub := { s.hub with events := f s.hub.events } }).drainRecords 4097

/-- EQSIZE_WRITE (R280): outside 6 to 20 it is ignored. -/
def execEqsizeWrite (v : Word) (s : State) : Out :=
  let n := v.toNat % 32
  s.bar0 fun s => if 6 ≤ n ∧ n ≤ 20 then s.mapEvents fun e => { e with size := BitVec.ofNat 64 n } else s

/-- EQHEAD_WRITE (R280). -/
def execEqheadWrite (v : Word) (s : State) : Out := s.bar0 fun s => s.mapEvents fun e => { e with head := BitVec.setWidth 32 v }

/-- EQCTL_WRITE (R280): EN and the interrupt enable; LOST is read only. -/
def execEqctlWrite (v : Word) (s : State) : Out :=
  s.bar0 fun s => s.mapEvents fun e => { e with en := v.getLsbD 0, msix := v.getLsbD 1 }

/-- The fields of LQBASE and EQBASE: tier and address bits 51 to 7 (R280). -/
def baseFields (v : Word) : Word := v &&& 0x000FFFFFFFFFFF83
/-- The fields of LQPTBR, which are PTBR's (R181, R280). -/
def ptbrFields (v : Word) : Word := v &&& 0x000FFFFFFFFFFF03

/-- Changing the hub. -/
def State.mapHub (s : State) (f : Hub → Hub) : State := { s with hub := f s.hub }

/-- The effect of a write to a register that has no row of its own: read-only registers and reserved fields ignore it (R2, R231,
R280). A write of RESET with WARM = 1 makes a warm start due (R275). -/
def State.registerWrite (s : State) (r : Bar0Reg) (v : Word) : State :=
  match r with
  | .devstat => s
  | .reset => s.mapHub fun h => { h with keep := v.getLsbD 1, auto := v.getLsbD 2, warm := h.warm || v.getLsbD 0 }
  | .rtvec => s.mapHub fun h => { h with rtvec := v }
  | .savebase => s.mapHub fun h => { h with saveBase := v &&& 0x00FFFFFFFFFF0000 }
  | .lqbase q => s.setLq q.val { s.lq q.val with base := baseFields v }
  | .lqhead _ => s
  | .lqptbr q => s.setLq q.val { s.lq q.val with ptbr := ptbrFields v }
  | .lqctl q => let l := s.lq q.val; s.setLq q.val { l with en := v.getLsbD 0, err := l.err && !v.getLsbD 1 }
  | .eqbase => s.mapEvents fun e => { e with base := baseFields v }
  | .eqtail => s
  | .portstat p => let x := s.port p.val; s.setPort p.val { x with cfgerr := x.cfgerr && !v.getLsbD 37 }
  | .portturns _ => s
  | .portrply _ => s

/-- REGISTER_WRITE (R2, R14, R280). -/
def execRegisterWrite (r : Bar0Reg) (v : Word) (s : State) : Out := s.bar0 fun s => s.registerWrite r v

end Sys2Proof.Machine
end

