-- ==== Sys2Proof/Machine/Launches.lean ====
section
/-! DEFINITION. Launches: the check of a packet, dispatch, placement of squads, completion (R25 to R34). -/

namespace Sys2Proof.Machine

/-! The check (R25 to R27). -/

/-- A packet from its 128 bytes (R25). -/
def parsePacket (b : List Byte) : Packet :=
  let w := fun o n => leNat ((b.drop o).take n)
  { entrya := BitVec.ofNat 64 (w 0 8), entryc := BitVec.ofNat 64 (w 8 8), n := BitVec.ofNat 64 (w 16 8)
    ctl := BitVec.ofNat 64 (w 24 8), lid := BitVec.ofNat 32 (w 32 4), pred := BitVec.ofNat 32 (w 36 4)
    shbase := BitVec.ofNat 16 (w 40 2), shsize := BitVec.ofNat 16 (w 42 2), squads := BitVec.ofNat 32 (w 44 4)
    doneaddr := BitVec.ofNat 64 (w 48 8), doneval := BitVec.ofNat 64 (w 56 8)
    args := (List.range 8).map fun i => BitVec.ofNat 64 (w (64 + 8 * i) 8) }

/-- Code 0x01 (R27). -/
def Packet.badReserved (p : Packet) : Bool :=
  let c := p.ctl.toNat
  bits c 18 6 != 0 || bits c 48 16 != 0 || bits c 16 2 == 3 || bits p.shbase.toNat 9 7 != 0 || bits p.shsize.toNat 10 6 != 0
/-- Code 0x02. -/
def Packet.badShape (p : Packet) : Bool := 32 < p.t * p.l || 40 < p.g || p.squads == 0 || 2 ^ 48 ≤ p.n.toNat
/-- Code 0x03. -/
def Packet.badAllot (p : Packet) : Bool :=
  p.mweight == 0 || 16 < p.panels || 16 < p.accs || 512 < p.spad || 512 < p.shbase.toNat + p.shsize.toNat
/-- An entry PC that is odd or has a bit above 55. -/
def badEntryPc (a : Word) : Bool := a.getLsbD 0 || 2 ^ 56 ≤ a.toNat
/-- Code 0x04. -/
def Packet.badEntry (p : Packet) : Bool := badEntryPc p.entrya || badEntryPc p.entryc
/-- Clusters of a die in the map. -/
def State.mapped (s : State) (die : Fin 4) : Nat := ((List.range 40).filter fun c => (s.hub.present.get die).getLsbD c).length
/-- Code 0x05. -/
def State.noFit (s : State) (p : Packet) : Bool := (List.finRange 4).all fun d => s.mapped d < p.g
/-- Code 0x07. -/
def State.badLid (s : State) (p : Packet) : Bool := p.lid == 0 || s.inFlight p.lid

/-- The code of the first condition of R27 that a packet meets; none when it passes. -/
def State.packetCode (s : State) (p : Packet) : Option Nat :=
  if p.badReserved then some 1
  else if p.badShape then some 2
  else if p.badAllot then some 3
  else if p.badEntry then some 4
  else if s.noFit p then some 5
  else if s.predFails p.pred then some 6
  else if s.badLid p then some 7
  else none

/-- The hub takes launches: start-up is over and no fatal error stands (R273, R274). -/
def State.takesLaunches (s : State) : Bool := s.hub.ready && !s.hub.fatal

/-- The order of the tail write that posted the packet at the head (R31). -/
def LaunchQueue.headOrder (l : LaunchQueue) : Nat := match l.posts with | p :: _ => p.2 | [] => 0

/-- PACKET_CHECK: the packet at the head of a queue that has not been checked yet; a rejection makes waiting successors fail
(R27). -/
def execPacketCheck (q : Fin 64) (s : State) : Out :=
  let l := s.lq q.val
  if !s.takesLaunches || !l.en || l.checked.isSome || l.head = l.tail then .next s
  else
    let p := parsePacket (s.mem.read (baseKey l.base + l.head.toNat % l.entries * 128) 128)
    match s.packetCode p with
    | some c => .next ((s.reject q.val c p.lid).predFail 64)
    | none => .next (s.setLq q.val { l with checked := some ⟨p, l.headOrder⟩ })

/-! Dispatch (R31, R33). -/

/-- Is a checked packet ready (R31)? A packet whose LID has come into flight meanwhile waits (log 23). -/
def State.headReady (s : State) (p : Packet) : Bool :=
  !s.inFlight p.lid &&
    (p.pred == 0 || !s.inFlight p.pred || (p.ctl.getLsbD 15 && (s.launchOf p.pred).triggered))

/-- The ready heads: queue and head. -/
def State.readyHeads (s : State) : List (Nat × Head) :=
  s.hub.queues.filterMap fun (q, l) => match l.checked with
    | some h => if l.en && s.headReady h.pkt then some (q, h) else none
    | none => none

/-- Does one ready head come before another: higher PRIO, then the earlier tail write, then the lower queue (R31)? -/
def headBefore (a b : Nat × Head) : Bool :=
  b.2.pkt.prio < a.2.pkt.prio ||
    (a.2.pkt.prio == b.2.pkt.prio && (a.2.order < b.2.order || (a.2.order == b.2.order && a.1 < b.1)))

/-- The first ready head. -/
def bestHead : List (Nat × Head) → Option (Nat × Head)
  | [] => none
  | a :: l => match bestHead l with
    | some b => some (if headBefore b a then b else a)
    | none => some a

/-- LAUNCH_DISPATCH (R31): the launch starts, and what its strands fetch is memory as it is now; what is on its way to a far home is not
performed there yet (R198, R200). -/
def execLaunchDispatch (s : State) : Out :=
  if !s.takesLaunches then .next s
  else
    match bestHead s.readyHeads with
    | none => .next s
    | some (q, h) =>
      let far := s.l2.map fun x : L2Line =>
        CodeLine.mk x.die x.line (if x.filled then BitVec.allOnes 64 else x.dirty ||| x.flying) x.data
      let l : Launch :=
        { Launch.none with pkt := h.pkt, queue := q, ptbr := (s.lq q).ptbr, code := s.mem, codeLines := far, codeSent := s.onTheWay }
      .next { s.popHead q with launches := s.launches ++ [l] }

/-! Placement (R20 to R24, R28, R29, R32, R33). -/

/-- Part `i` of `m` of `n` elements from `b`: start and count (R28). -/
def splitPart (b n m i : Nat) : Nat × Nat :=
  let q := n / m
  let r := n % m
  (b + i * q + min i r, if i < r then q + 1 else q)

/-- The range of one strand (R28). -/
def Packet.range (p : Packet) (squad gang strand : Nat) : Nat × Nat :=
  let (b, n) := splitPart 0 p.n.toNat p.squads.toNat squad
  let (b, n) := splitPart b n p.g gang
  splitPart b n p.t strand

/-- Squads of a launch that are still to be placed. -/
def Launch.unplaced (l : Launch) : Bool := !l.parked && !l.go && (!l.saved.isEmpty || decide (l.nextSquad < l.pkt.squads.toNat))

/-- May a launch place a squad now: no other launch of higher priority, and none of equal priority dispatched before it, has one to
place (R33)? -/
def State.placesNext (s : State) (lid : BitVec 32) : Bool :=
  let l := s.launchOf lid
  let before := s.launches.takeWhile fun x => x.pkt.lid != lid
  s.inFlight lid && l.unplaced
    && !(s.launches.any fun x => x.unplaced && l.pkt.prio < x.pkt.prio)
    && !(before.any fun x => x.unplaced && x.pkt.prio == l.pkt.prio)
    && !(s.readyHeads.any fun h => l.pkt.prio < h.2.pkt.prio)

/-- Do two ranges of `n` and `m` from `a` and `b` have nothing in common? -/
def apart (a n b m : Nat) : Bool := a + n ≤ b || b + m ≤ a || n == 0 || m == 0

/-- Is a core pair with its lanes free (R21, R32)? -/
def State.seatFree (s : State) (cluster pair lane0 lanes : Nat) : Bool :=
  lane0 + lanes ≤ 32 && s.strands.all fun t =>
    t.id.cluster != cluster || (t.id.pair != pair && t.id.laneRuns.all fun r => apart r.1 r.2 lane0 lanes)

/-- Are as many panels, tiles and pages of scratchpad free as a gang needs (R32), and the names that its pages get (log 58)? -/
def State.allotFree (s : State) (p : Packet) (cluster : Nat) (g : GangPlace) : Bool :=
  let here := s.gangs.filter fun x => x.cluster == cluster
  (here.map (·.npanels)).sum + p.panels ≤ 16 && (here.map (·.naccs)).sum + p.accs ≤ 16 && (here.map (·.spadPages)).sum + p.spad ≤ 512
    && g.spadPage.val + p.spad ≤ 4096 && here.all fun x => apart x.spadPage x.spadPages g.spadPage.val p.spad

/-- Do the numbers of a list rise strictly? -/
def rising : List Nat → Bool
  | a :: b :: l => a < b && rising (b :: l)
  | _ => true

/-- Do the seats of a list not overlap each other? -/
def seatsApart (lanes : Nat → Nat) : List (Nat × Nat) → Bool
  | [] => true
  | (i, a) :: l => (l.all fun (j, b) => apart a (lanes i) b (lanes j)) && seatsApart lanes l

/-- Do the places suit a squad: G gangs on distinct present clusters of the die in ascending order, with room for each, and a free
squad-barrier set (R22, R23, R32)? -/
def State.placesFit (s : State) (p : Packet) (die : Fin 4) (gangs : List GangPlace) : Bool :=
  gangs.length == p.g && rising (gangs.map fun g => g.cluster.val)
    && decide ((s.squads.filter fun q => q.die == die.val).length < 64)
    && gangs.all fun g => (s.hub.present.get die).getLsbD g.cluster.val && s.allotFree p (die.val * 40 + g.cluster.val) g

/-- Do the strand places of a new gang suit it: T core pairs in ascending order, aligned partitions, all free (R20, R32)? -/
def State.seatsFit (s : State) (p : Packet) (cluster : Nat) (g : GangPlace) : Bool :=
  g.strands.length == p.t && rising (g.strands.map fun x => x.pair.val)
    && (g.strands.all fun x => x.lane0.val % p.l == 0 && s.seatFree cluster x.pair.val x.lane0.val p.l)
    && seatsApart (fun _ => p.l) (g.strands.zipIdx.map fun x => (x.2, x.1.lane0.val))

/-- A strand of a new gang (R28, R29). -/
def State.newStrand (s : State) (l : Launch) (squad gang cluster : Nat) (j : Nat) (x : StrandPlace) : Strand :=
  let p := l.pkt
  let (b, n) := p.range squad gang j
  let bank := startBank (BitVec.ofNat 64 b) (BitVec.ofNat 64 n) (BitVec.ofNat 64 j) (BitVec.ofNat 64 gang) (BitVec.ofNat 64 squad) p.args
  Strand.start ⟨p.lid, squad, gang, j, cluster, x.pair.val, x.lane0.val, p.l, none, [], false, []⟩ p.entrya p.entryc bank
    (s.hub.rtvec &&& 0x00FFFFFFFFFFFFFE) l.ptbr

/-- A gang's record at its place (R22, R37, R156, R188). -/
def newGang (p : Packet) (squad index cluster : Nat) (g : GangPlace) : Gang :=
  { Gang.none with
    lid := p.lid, squad := squad, index := index, cluster := cluster, spadPage := g.spadPage.val, spadPages := p.spad
    npanels := p.panels, naccs := p.accs }

/-- The scratchpad allotment of a gang and the TCMs of its core pairs read as zero (R29). -/
def State.clearGang (s : State) (x : Gang) (g : GangPlace) : State :=
  let s := { s with mem := s.mem.clearRange (spadKey x.cluster (x.spadPage * 4096)) (x.spadPages * 4096) }
  g.strands.foldl (fun u x' => u.clearTcm x.cluster x'.pair.val) s

/-- Adding strands to the machine. -/
def State.addStrands (s : State) (ts : List Strand) : State := s.setStrands (s.strands ++ ts)

/-- Placing the next new squad of a launch (R24, R32). -/
def State.placeNew (s : State) (l : Launch) (die : Fin 4) (gangs : List GangPlace) : State :=
  let p := l.pkt
  let q := l.nextSquad
  let cl := fun g : GangPlace => die.val * 40 + g.cluster.val
  if !(gangs.all fun g => s.seatsFit p (cl g) g) then s
  else
    let recs : List (Gang × GangPlace) := gangs.zipIdx.map fun (g, i) => (newGang p q i (cl g) g, g)
    let s := recs.foldl (fun u (x, g) => u.clearGang x g) s
    let ts := gangs.zipIdx.flatMap fun (g, i) => g.strands.zipIdx.map fun (x, j) => s.newStrand l q i (cl g) j x
    let s := s.addStrands ts
    let s := { s with gangs := s.gangs ++ recs.map (fun x : Gang × GangPlace => x.1), squads := s.squads ++ [Squad.mk p.lid q die.val none [] false] }
    s.mapLaunch p.lid fun l => { l with nextSquad := q + 1 }

/-! Completion (R34). -/

/-- Does a write of the launch have to get through first: a write-back in flight, or a buffered add whose line has yet to come? -/
def State.writesOnWay (s : State) (lid : BitVec 32) : Bool := (s.reqs.any fun r => r.mask != 0) || s.det.due.any fun d => d.adds.any fun a => a.lid == lid

/-- Is a request of the hub for this launch outstanding? -/
def State.launchWaits (s : State) (lid : BitVec 32) : Bool := s.reqs.any fun r => r.who == .launch lid

/-- The launch's writes become visible at SYSTEM scope: every dirty copy of a HOST or REMOTE line leaves (R34, R216). Where one fails, or
cannot be reached (R251), the completion counts as faulty: DONEVAL is not written and the fault flag is set (log 57). -/
def State.flushLaunch (s : State) (lid : BitVec 32) : State :=
  (s.l2.filter fun l => l.dirty ≠ 0).foldl (fun u l =>
    if u.unreachable l then u.mapLaunch lid fun x => { x with faulty := true }
    else u.writeBackLine (.launch lid) l 0) s

/-- The launch completes: its record, and the launch is no longer in flight (R34). -/
def State.postComplete (s : State) (lid : BitVec 32) (fault : Bool) : State :=
  let s := { s with launches := s.launches.filter fun l => l.pkt.lid ≠ lid }
  (s.post (lidRecord 0x01 0 lid [if fault then 1 else 0])).clearBusy lid

/-- The completion write, an 8-byte store at S through the translation of the launch's queue: a fault, the state with the write
performed, or a write that waits for a remote package (R34). -/
inductive DoneWrite
  | fault
  | done (s : State)
  | waits (s : State)

/-- Writing DONEVAL to DONEADDR. -/
def State.doneWrite (s : State) (l : Launch) : DoneWrite :=
  let a := l.pkt.doneaddr
  let bs := leBytes 8 l.pkt.doneval.toNat
  if a.toNat % 8 ≠ 0 then .fault
  else
    match s.translate l.ptbr true .store a with
    | .error _ => .fault
    | .ok k =>
      if isRemote k then
        let (x, pa) := remotePa k
        if s.remoteFails x then .fault
        else
          let (q, s) := s.sendFlit 0x01 0 x false fun f => { f with addr := BitVec.ofNat 64 pa, len := 8, payload := bs }
          .waits (s.addReq (.launch l.pkt.lid) k false true 0 x 0 q).2
      else if isFar k then .done { s with hostOut := s.hostOut ++ [⟨k - 2 ^ 60, bs⟩] }
      else .done { s with mem := s.mem.setAll (atKeys k bs) }

/-- The completion of a launch whose write-backs have ended. -/
def State.writeDone (s : State) (lid : BitVec 32) : State :=
  let l := s.launchOf lid
  if l.pkt.doneaddr = 0 then s.postComplete lid false
  else if l.faulty then s.postComplete lid true
  else
    match s.doneWrite l with
    | .fault => s.postComplete lid true
    | .done s => s.postComplete lid false
    | .waits s => s.mapLaunch lid fun x => { x with ending := 2 }

/-- LAUNCH_COMPLETE: the completion of a launch all of whose squads have completed goes on as far as it can (R34). -/
def execLaunchComplete (lid : BitVec 32) (s : State) : Out :=
  let l := s.launchOf lid
  if !s.inFlight lid || l.parked || l.done < l.pkt.squads.toNat || s.launchWaits lid then .next s
  else if l.ending = 0 && s.writesOnWay lid then .next (s.det.due.foldl (fun (u : State) d => u.hubLine d.die d.key) s)
  else if l.ending = 2 then .next (s.postComplete lid l.faulty)
  else if l.ending = 1 then .next (s.writeDone lid)
  else
    let s := (s.flushLaunch lid).mapLaunch lid fun x => { x with ending := 1 }
    if s.launchWaits lid then .next s else .next (s.writeDone lid)

end Sys2Proof.Machine
end

