-- ==== Sys2Proof/Machine/Preempt.lean ====
section
/-! DEFINITION. Pre-emption by the hub (R266, R267, R269, R277, R278, R349): the commands of PREEMPTCTL, saving a squad, placing it
again, the switch-in of its strands; and SQUAD_PLACE. -/

namespace Sys2Proof.Machine

/-! The commands (R278). -/

/-- Commands that a write of PREEMPTCTL sets: GO, RESUME, ABORT. -/
def ctlCommands (v : Word) : Nat := bits v.toNat 32 3

/-- A refused command sets ERR (R278). -/
def State.ctlRefuse (s : State) : State := s.mapHub fun h => { h with pctlErr := true }

/-- A write of PREEMPTCTL with the command bit of its row: one command a write, none while BUSY is 1 but as `busyOk` allows; ERR is
cleared by a 1 in bit 36 and set by a refusal. -/
def State.ctlWrite (s : State) (v : Word) (busyOk accept : BitVec 32 → Bool) (effect : BitVec 32 → State → State) : State :=
  let lid : BitVec 32 := BitVec.setWidth 32 v
  let s := if v.getLsbD 36 then s.mapHub fun h => { h with pctlErr := false } else s
  let one := ctlCommands v == 1 || ctlCommands v == 2 || ctlCommands v == 4
  if one && (s.hub.busy.isNone || busyOk lid) && accept lid then effect lid (s.mapHub fun h => { h with pctlLid := lid })
  else s.ctlRefuse

/-- PREEMPT_ERR_CLEAR: a write without a command (R278). -/
def execPreemptErrClear (v : Word) (s : State) : Out :=
  s.bar0 fun s => if v.getLsbD 36 then s.mapHub fun h => { h with pctlErr := false } else s

/-- Does a save range of 2^39 bytes from `base` overlap one that another launch has latched (R278)? -/
def State.rangeTaken (s : State) (base : Nat) : Bool :=
  s.launches.any fun l => (l.parked || l.go) && !apart base (2 ^ 39) l.saveBase.toNat (2 ^ 39)

/-- May a GO be accepted (R278)? -/
def State.goOk (s : State) (lid : BitVec 32) : Bool :=
  let l := s.launchOf lid
  s.inFlight lid && !l.parked && !l.go && !l.resume && decide ((s.launches.filter (·.parked)).length < 64)
    && !s.rangeTaken s.hub.saveBase.toNat

/-- Delivering the request to the strands of one squad, which gets its save slot (R266). -/
def State.deliver (s : State) (lid : BitVec 32) (squad slot : Nat) : State :=
  let area := fun i : StrandId => s.areaOf i slot
  let s := { s with squads := s.squads.map fun q : Squad => if q.lid == lid && q.index == squad then { q with slot := some slot } else q }
  s.mapStrands (fun t => t.id.lid == lid && t.id.squad == squad && !t.completed) fun t =>
    { t with trap := { t.trap with preempt := true, savearea := area t.id } }

/-- Inserting a number into a rising list. -/
def insertNat (n : Nat) : List Nat → List Nat
  | [] => [n]
  | m :: l => if m < n then m :: insertNat n l else n :: m :: l

/-- The resident squads of a launch, in ascending index. -/
def State.squadsOf (s : State) (lid : BitVec 32) : List Nat :=
  ((s.squads.filter fun q => q.lid == lid).map (·.index)).foldr insertNat []

/-- GO: SAVEBASE is latched, slots are given and the request delivered; without a resident squad the launch is parked at once
(R266, R278). -/
def State.goEffect (s : State) (lid : BitVec 32) : State :=
  let base := s.hub.saveBase
  let s := s.mapHub fun h => { h with busy := some ⟨lid, false, false⟩ }
  let s := s.mapLaunch lid fun l => { l with go := true, saveBase := base, savedCount := 0, nextSlot := (s.squadsOf lid).length }
  ((s.squadsOf lid).zipIdx.foldl (fun u (q, k) => u.deliver lid q k) s).goCheck lid

/-- PREEMPT_GO (R266, R278). -/
def execPreemptGo (v : Word) (s : State) : Out :=
  s.bar0 fun s => s.ctlWrite (v ||| 0x100000000) (fun _ => false) s.goOk fun lid s => s.goEffect lid

/-- A RESUME ends once every saved squad has been placed again (R278). -/
def State.resumeCheck (s : State) (lid : BitVec 32) : State :=
  let l := s.launchOf lid
  if l.resume && l.saved.isEmpty then
    let s := s.mapLaunch lid fun l => { l with resume := false }
    (s.post (lidRecord 0x06 0 lid (leBytes 4 l.savedCount))).clearBusy lid
  else s

/-- RESUME: the launch is no longer parked and its squads are to be placed again (R269, R278). -/
def State.resumeEffect (s : State) (lid : BitVec 32) : State :=
  let s := s.mapHub fun h => { h with busy := some ⟨lid, true, false⟩ }
  (s.mapLaunch lid fun l => { l with parked := false, resume := true }).resumeCheck lid

/-- PREEMPT_RESUME (R269, R278). -/
def execPreemptResume (v : Word) (s : State) : Out :=
  s.bar0 fun s => s.ctlWrite (v ||| 0x200000000) (fun _ => false) (fun lid => (s.launchOf lid).parked) fun lid s => s.resumeEffect lid

/-- LAUNCH_ABORT (R277, R278): accepted while BUSY is 1 only for a RESUME of the same launch. -/
def execLaunchAbort (v : Word) (s : State) : Out :=
  let busyOk := fun lid => match s.hub.busy with
    | some c => c.resume && c.lid == lid
    | none => false
  s.bar0 fun s => s.ctlWrite (v ||| 0x400000000) busyOk s.inFlight fun lid s => s.abort lid 1

/-! The regions (R267). -/

/-- A barrier in 8 bytes. -/
def Barrier.bytes (b : Barrier) : List Byte := leBytes 8 (b.expected % 2 ^ 16 + b.count % 2 ^ 16 * 2 ^ 16 + b.gen.toNat * 2 ^ 32)

/-- A barrier from 8 bytes. -/
def barrierOf (w : Nat) : Barrier := ⟨bits w 0 16, bits w 16 16, BitVec.ofNat 32 (bits w 32 32), []⟩

/-- A panel in 32 KiB: weights, index rows, scales, tag, SCALED, PRUNED (log 24). -/
def Panel.bytes (p : Panel) : List Byte :=
  padTo 32768 (leBytes 16384 p.weights.toNat ++ leBytes 8192 p.index.toNat ++ leBytes 512 p.scales.toNat
    ++ leBytes 1 (match p.tag with | some t => 32 + t.toNat | none => 0)
    ++ leBytes 1 (if p.scaled then 1 else 0) ++ leBytes 1 (if p.pruned then 1 else 0))

/-- A panel from its 32 KiB. -/
def panelOf (b : List Byte) : Panel :=
  let w := fun o n => leNat ((b.drop o).take n)
  { tag := if w 25088 1 < 32 then none else some (BitVec.ofNat 5 (w 25088 1))
    scaled := w 25089 1 == 1, pruned := w 25090 1 == 1, weights := BitVec.ofNat 131072 (w 0 16384)
    index := BitVec.ofNat 65536 (w 16384 8192), scales := BitVec.ofNat 4096 (w 24576 512) }

/-- The barriers of a gang or squad in numeric order. -/
def barBytes (n : Nat) (fresh : Barrier) (bars : List (Nat × Barrier)) : List Byte :=
  ((List.range n).map fun b => (assocGet fresh bars b).bytes).flatten

/-! The detector's records of SPAD and SHARED lines and the buffered adds, as bytes (R220, R223, R267; log 24). -/

/-- A record of a line in bytes: the line's number from `base`, what follows, the DETID, and the accesses. -/
def DetEntry.bytes (e : DetEntry) (base : Nat) : List Byte :=
  leBytes 4 ((e.line - base) / 64) ++ leBytes 4 (2 * e.acc.length) ++ leBytes 8 e.detid
    ++ e.acc.flatMap fun a => leBytes 8 (a.word % 8 + 8 * a.kind + (if a.side = .access then 0 else 32) + 64 * a.stamp)

/-- A line in fall-back in bytes: the line's number from `base`, what follows, and the tags. -/
def DetTags.bytes (f : DetTags) (base : Nat) : List Byte :=
  leBytes 4 ((f.line - base) / 64) ++ leBytes 4 (2 * f.tags.length + 1) ++ leBytes 8 0
    ++ f.tags.flatMap fun (w, d) => leBytes 8 (w % 8 + 8 * d)

/-- Some records, with how many bytes they are and how many they are before them. -/
def recordPart (l : List (List Byte)) : List Byte := leBytes 8 l.flatten.length ++ leBytes 8 l.length ++ l.flatten

/-- The records of a recordPart in turn. -/
def readRecords (lid : BitVec 32) (squad base : Nat) : Nat → List Byte → List DetEntry × List DetTags
  | 0, _ => ([], [])
  | n + 1, b =>
    let num := fun o k => leNat ((b.drop o).take k)
    let line := base + num 0 4 * 64
    let count := num 4 4 / 2
    let items := (List.range count).map fun i => num (16 + 8 * i) 8
    let (es, fs) := readRecords lid squad base n (b.drop (16 + 8 * count))
    if num 4 4 % 2 = 0 then
      (⟨lid, squad, line, 0, num 8 8, items.map fun x => ⟨line / 8 + x % 8, x / 8 % 4, if x / 32 % 2 = 0 then .access else .compute, x / 64⟩⟩ :: es, fs)
    else (es, ⟨lid, squad, line, 0, items.map fun x => (line / 8 + x % 8, x / 8)⟩ :: fs)

/-- The leading records that fit into a number of bytes. -/
def fitting (room : Nat) : List (List Byte) → List (List Byte)
  | [] => []
  | r :: l => if r.length ≤ room then r :: fitting (room - r.length) l else []

/-- Is a line among `n` bytes from a key? -/
def lineIn (base n line : Nat) : Bool := decide (base ≤ line) && decide (line < base + n)

/-- The records that the detector holds of a squad's lines in a range of keys, as bytes. -/
def Detector.records (d : Detector) (lid : BitVec 32) (squad base n : Nat) : List (List Byte) :=
  (d.entries.filter fun e => e.lid == lid && e.squad == squad && lineIn base n e.line).map (·.bytes base)
    ++ (d.fallback.filter fun f => f.lid == lid && f.squad == squad && lineIn base n f.line).map (·.bytes base)

/-- Key and bytes of a gang's scratchpad allotment. -/
def Gang.pad (g : Gang) : Nat × Nat := (spadKey g.cluster (g.spadPage * 4096), g.spadPages * 4096)

/-- Key and bytes of a launch's window in the shared SRAM of a die. -/
def sharedPad (p : Packet) (die : Nat) : Nat × Nat := (sharedKey die (p.shbase.toNat * 65536), p.shsize.toNat * 65536)

/-- A buffered add in 48 bytes: whose scratchpad its word lies in, 0 for none, and the word from there. -/
def DetAdd.bytes (a : DetAdd) (gangs : List Gang) : List Byte :=
  let (tag, off) := match gangs.find? fun g => lineIn g.pad.1 g.pad.2 a.addr with
    | some g => (g.index + 1, a.addr - g.pad.1)
    | none => (0, a.addr)
  leBytes 16 off ++ leBytes 4 tag ++ leBytes 4 (if a.size = .d then 1 else 0) ++ leBytes 8 a.detid ++ leBytes 8 a.seq ++ leBytes 8 a.value.toNat

/-- A buffered add from its 48 bytes, for gangs with these scratchpads. -/
def detAddOf (lid : BitVec 32) (squad : Nat) (pads : List Nat) (b : List Byte) : DetAdd :=
  let num := fun o k => leNat ((b.drop o).take k)
  let tag := num 16 4
  { lid := lid, squad := squad, addr := if tag = 0 then num 0 16 else pads.getD (tag - 1) 0 + num 0 16
    size := if num 20 4 = 1 then .d else .w, detid := num 24 8, seq := num 32 8, value := BitVec.ofNat 64 (num 40 8) }

/-- Room for the records in a gang region: up to its TCMs. -/
def recordRoom : Nat := 0x400000 - 0x303000 - 16

/-- What a gang region holds (R267); records of its SPAD lines that do not fit there stay with the hub (log 24). -/
def State.gangRegion (s : State) (g : Gang) (parked : List Strand) : List (Nat × List Byte) :=
  let t := (s.launchOf g.lid).pkt.t
  [ (0, s.mem.bytes (spadKey g.cluster (g.spadPage * 4096)) (g.spadPages * 4096)),
    (0x200000, ((List.range 16).map fun n => (assocGet Panel.empty g.panels n).bytes).flatten),
    (0x280000, ((List.range 16).map fun n => leBytes 32768 (assocGet Tile.start g.tiles n).data.toNat).flatten),
    (0x300000, ((List.range 16).map fun n => leBytes 1 (if (assocGet Tile.start g.tiles n).isInt then 1 else 0)).flatten),
    (0x301000, barBytes 512 ⟨2 * t, 0, 0, []⟩ g.bars),
    (0x302000, padTo 1024 g.records.flatten ++ leBytes 8 g.records.length),
    (0x303000, recordPart (fitting recordRoom (s.det.records g.lid g.squad g.pad.1 g.pad.2))) ]
    ++ parked.map fun x => (0x400000 + x.id.name * 0x20000, s.mem.bytes (tcmKey x.id.cluster x.id.pair .access 0) 131072)

/-- What a squad region holds: its barriers, the detector's records of its SHARED lines, and its buffered adds (R267). -/
def State.squadRegion (s : State) (q : Squad) : List (Nat × List Byte) :=
  let p := (s.launchOf q.lid).pkt
  let pad := sharedPad p q.die
  let gangs := s.gangs.filter fun g => g.lid == q.lid && g.squad == q.index
  let adds := (s.det.adds.filter fun a => a.lid == q.lid && a.squad == q.index).map (·.bytes gangs)
  [(0, barBytes 64 ⟨2 * p.t * p.g, 0, 0, []⟩ q.bars ++ recordPart (s.det.records q.lid q.index pad.1 pad.2) ++ recordPart adds)]

/-- The detector without what a squad's regions hold. -/
def State.detSaved (s : State) (q : Squad) : Detector :=
  let mine := fun (lid : BitVec 32) (squad : Nat) => lid == q.lid && squad == q.index
  let gangs := s.gangs.filter fun g => mine g.lid g.squad
  let pads := sharedPad (s.launchOf q.lid).pkt q.die ::
    ((gangs.filter fun g => let r := s.det.records g.lid g.squad g.pad.1 g.pad.2; (fitting recordRoom r).length == r.length).map Gang.pad)
  let held := fun line => pads.any fun p => lineIn p.1 p.2 line
  { s.det with
    entries := s.det.entries.filter fun e => !(mine e.lid e.squad && held e.line)
    fallback := s.det.fallback.filter fun f => !(mine f.lid f.squad && held f.line)
    adds := s.det.adds.filter fun a => !mine a.lid a.squad }

/-- The base of a gang's region and of a squad's (R266). -/
def gangBase (base : Word) (slot gang : Nat) : Nat := base.toNat + slot * 2 ^ 31 + gang * 2 ^ 25 + 0x1400000
/-- The base of a squad's region. -/
def squadBase (base : Word) (slot : Nat) : Nat := base.toNat + slot * 2 ^ 31 + 0x50000000

/-! Saving (R266, R267). -/

/-- The strands of a squad. -/
def State.membersOf (s : State) (lid : BitVec 32) (squad : Nat) : List Strand :=
  s.strands.filter fun t => t.id.lid == lid && t.id.squad == squad

/-- The first ancestor of a strand in its gang. -/
def rootOf (ts : List Strand) : Nat → Strand → Strand
  | 0, t => t
  | n + 1, t =>
    match t.id.parent with
    | none => t
    | some p =>
      match ts.find? fun u => u.id.gang == t.id.gang && u.id.name == p with
      | some u => rootOf ts n u
      | none => t

/-- A child as the hub remembers it: one that has completed and is not joined is neither saved nor resumed, and its parent keeps its lanes for
the JOIN (R47, R266). Lanes count from the parent's. -/
def savedChild (ts : List Strand) (t : Strand) (c : Child) : Child :=
  let off := fun r : Nat × Nat => (r.1 - t.id.lane0, r.2)
  match ts.find? fun u => u.id.sameGang t.id && u.id.name == 8 + c.name with
  | some u => { c with kept := if c.completed then u.id.laneRuns.map off else [] }
  | none => { c with kept := c.kept.map off }

/-- Inserting a strand into a list by gang and name. -/
def insertNamed (t : Strand) : List Strand → List Strand
  | [] => [t]
  | u :: l => if u.id.gang * 16 + u.id.name < t.id.gang * 16 + t.id.name then u :: insertNamed t l else t :: u :: l

/-- What the hub remembers of a parked strand. -/
def savedStrand (ts : List Strand) (t : Strand) : SavedStrand :=
  { gang := t.id.gang, name := t.id.name, lanes := t.id.lanes, laneOff := t.id.lane0 - (rootOf ts 16 t).id.lane0
    parent := t.id.parent, children := t.id.children.map (savedChild ts t), trigger := t.id.trigger
    back := t.id.back.map fun b => (b.1 - t.id.lane0, b.2) }

/-- Arrivals of barriers' generations. -/
def arrivalsOf (bars : List (Nat × Barrier)) : List (Nat × List BarArrival) := bars.map fun b => (b.1, b.2.arrivals)

/-- The gangs of a squad, in gang order. -/
def State.gangsOf (s : State) (lid : BitVec 32) (squad : Nat) : List Gang :=
  s.gangs.filter fun g => g.lid == lid && g.squad == squad

/-- May a squad be saved: a GO is under way, every strand has parked or completed for good, and no engine command of it runs (R189, R266)? A
strand at S has not completed yet, and one that halted there outside parking ends by an abort alone (R317; log 32). -/
def State.savable (s : State) (lid : BitVec 32) (squad : Nat) : Bool :=
  (s.launchOf lid).go && (s.squads.any fun q => q.lid == lid && q.index == squad)
    && ((s.membersOf lid squad).all fun t => t.trap.parked || t.ended)
    && !(s.engines.any fun e => e.cmds.any fun c => c.owner.lid == lid && c.owner.squad == squad)

/-- Does the scratchpad of a gang or a TCM of its parked strands hold an uncorrectable error, which the hub finds as it saves them (R272;
log 49)? -/
def State.gangLost (s : State) (g : Gang) (parked : List Strand) : Bool :=
  s.bad.any fun line => lineIn g.pad.1 g.pad.2 line
    || parked.any fun x => lineIn (tcmKey x.id.cluster x.id.pair .access 0) 131072 line

/-- Writing all regions of a squad; none when an access fails, or when what is to be saved is lost. -/
def State.writeRegions (s : State) (l : Launch) (q : Squad) (slot : Nat) : Option State :=
  let parked := (s.membersOf q.lid q.index).filter fun t => t.trap.parked
  let put := fun (u : Option State) (base : Nat) (r : List (Nat × List Byte)) => match u with
    | none => none
    | some u => match u.writeArea q.die l.ptbr base (areaPieces base r) with
      | .ok u => some u
      | .error _ => none
  let u := (s.gangsOf q.lid q.index).foldl (fun u g =>
    let mine := parked.filter fun t => t.id.gang == g.index
    if s.gangLost g mine then none else put u (gangBase l.saveBase slot g.index) (s.gangRegion g mine)) (some s)
  put u (squadBase l.saveBase slot) (s.squadRegion q)

/-- The resources of a saved squad are free. -/
def State.freeSquad (s : State) (lid : BitVec 32) (squad : Nat) : State :=
  let s := s.setStrands (s.strands.filter fun t => !(t.id.lid == lid && t.id.squad == squad))
  { s with
    gangs := s.gangs.filter fun g => !(g.lid == lid && g.squad == squad)
    squads := s.squads.filter fun q => !(q.lid == lid && q.index == squad) }

/-- Saved squads stand in ascending index, in which they are placed again (R32, R269). -/
def insertSaved (q : SavedSquad) : List SavedSquad → List SavedSquad
  | [] => [q]
  | r :: l => if r.index < q.index then r :: insertSaved q l else q :: r :: l

/-- SQUAD_SAVE: the hub writes the squad's regions and frees it; a failing access aborts the launch with reason SAVE (R266, R267), and so does
an uncorrectable error in what it saves, since state lost in this way cannot be resumed (R272; log 49). -/
def execSquadSave (lid : BitVec 32) (squad : Nat) (s : State) : Out :=
  if !s.savable lid squad then .next s
  else
    let l := s.launchOf lid
    let q := (s.squads.find? fun q => q.lid == lid && q.index == squad).getD Squad.none
    let slot := q.slot.getD 0
    match s.writeRegions l q slot with
    | none => .next (s.abort lid 3)
    | some u =>
      let ts := s.membersOf lid squad
      let saved : SavedSquad :=
        { index := squad, die := q.die, slot := slot
          strands := ((ts.filter fun t => t.trap.parked).foldr insertNamed []).map (savedStrand ts)
          gangs := (s.gangsOf lid squad).map fun g => ⟨g.cluster, g.spadPage, g.maxSeq, (s.engine g.cluster).sysFirst, arrivalsOf g.bars⟩
          arrivals := arrivalsOf q.bars }
      let u := ({ u with det := s.detSaved q }.freeSquad lid squad).mapLaunch lid fun l =>
        { l with saved := insertSaved saved l.saved, savedCount := l.savedCount + 1 }
      .next (u.goCheck lid)

/-! Placing again (R24, R32, R267, R269). -/

/-- The saved strands of a gang. -/
def SavedSquad.of (q : SavedSquad) (gang : Nat) : List SavedStrand := q.strands.filter fun t => t.gang == gang

/-- The first ancestor of a saved strand, as its name. -/
def savedRoot (ts : List SavedStrand) : Nat → SavedStrand → Nat
  | 0, t => t.name
  | n + 1, t =>
    match t.parent with
    | none => t.name
    | some p => match ts.find? fun u => u.name == p with
      | some u => savedRoot ts n u
      | none => t.name

/-- Do the strand places of a gang suit its saved strands: distinct free core pairs, those of the gang's own strands in ascending
order, and for each member an aligned free partition in which its children keep their places? A strand that has completed needs no seat again,
which R269 leaves open (log 78). -/
def State.seatsAgain (s : State) (p : Packet) (cluster : Nat) (ts : List SavedStrand) (g : GangPlace) : Bool :=
  let seats := ts.zip g.strands
  g.strands.length == ts.length && (g.strands.map fun x => x.pair.val).eraseDups.length == ts.length
    && rising ((seats.filter fun x => x.1.parent.isNone).map fun x => x.2.pair.val)
    && (seats.all fun x => x.1.laneOff ≤ x.2.lane0.val && (x.2.lane0.val - x.1.laneOff) % p.l == 0
        && s.seatFree cluster x.2.pair.val (x.2.lane0.val - x.1.laneOff) p.l)
    && seats.all fun x => seats.all fun y =>
      if savedRoot ts 16 x.1 = savedRoot ts 16 y.1 then x.2.lane0.val - x.1.laneOff == y.2.lane0.val - y.1.laneOff
      else apart (x.2.lane0.val - x.1.laneOff) p.l (y.2.lane0.val - y.1.laneOff) p.l

/-- A saved strand in its new place, whose context is yet to be loaded from the area that it was saved in (R269, R278). -/
def State.strandAgain (s : State) (l : Launch) (squad slot cluster : Nat) (t : SavedStrand) (x : StrandPlace) : Strand :=
  let u := Strand.start ⟨l.pkt.lid, squad, t.gang, t.name, cluster, x.pair.val, x.lane0.val, t.lanes, t.parent,
      t.children.map fun c => { c with kept := c.kept.map fun b => (x.lane0.val + b.1, b.2) }, t.trigger,
      t.back.map fun b => (x.lane0.val + b.1, b.2)⟩ 0 0
    (Vector.replicate 32 0) (s.hub.rtvec &&& 0x00FFFFFFFFFFFFFE) l.ptbr
  { u with trap := { u.trap with loading := true, restaddr := s.areaOf u.id slot } }

/-- Reading the ranges of a region. -/
def State.readRegion (s : State) (die : Nat) (ptbr : Word) (base : Nat) : List (Nat × Nat) → Except AreaStop (List (List Byte))
  | [] => .ok []
  | (o, n) :: rest =>
    match s.readArea die ptbr (base + o) n with
    | .error e => .error e
    | .ok b => match s.readRegion die ptbr base rest with
      | .error e => .error e
      | .ok l => .ok (b :: l)

/-- The ranges of a gang region (R267). -/
def gangRanges (spad : Nat) (ts : List SavedStrand) : List (Nat × Nat) :=
  [(0, spad * 4096), (0x200000, 0x80000), (0x280000, 0x80000), (0x300000, 16), (0x301000, 4096), (0x302000, 1032)]
    ++ ts.map fun t => (0x400000 + t.name * 0x20000, 131072)

/-- Barriers from their bytes, those that differ from the start state. -/
def barsOf (fresh : Barrier) (arr : List (Nat × List BarArrival)) (n : Nat) (b : List Byte) : List (Nat × Barrier) :=
  (List.range n).filterMap fun i =>
    let x := { barrierOf (leNat ((b.drop (8 * i)).take 8)) with arrivals := assocGet [] arr i }
    if x = fresh then none else some (i, x)

/-- A gang's record from its region's ranges (R267, R349). -/
def gangAgain (p : Packet) (squad index cluster : Nat) (g : GangPlace) (h : SavedGang) (rs : List (List Byte)) : Gang :=
  let at_ := fun k => rs.getD k []
  let count := leNat ((at_ 5).drop 1024)
  { newGang p squad index cluster g with
    bars := barsOf ⟨2 * p.t, 0, 0, []⟩ h.arrivals 512 (at_ 4)
    panels := (List.range 16).filterMap fun n =>
      let x := panelOf (((at_ 1).drop (32768 * n)).take 32768)
      if x = Panel.empty then none else some (n, x)
    tiles := (List.range 16).filterMap fun n =>
      let x : Tile := ⟨leNat (((at_ 3).drop n).take 1) == 1, BitVec.ofNat 262144 (leNat (((at_ 2).drop (32768 * n)).take 32768))⟩
      if x = Tile.start then none else some (n, x)
    records := (List.range (min count 32)).map fun i => ((at_ 5).drop (32 * i)).take 32
    outstanding := min count 32
    maxSeq := h.maxSeq }

/-- The lower of two numbers that may be absent. -/
def lowerOf (a b : Option Nat) : Option Nat := match a, b with | some x, some y => some (min x y) | some x, none => some x | none, o => o

/-- The engine of a cluster skips numbers up to `n`, which count as ended (R349). The gang's commands that ended OK at SYSTEM scope elsewhere
are among those that an ESEQ acquires from (R212). -/
def Engine.skipTo (e : Engine) (n : Nat) (sys : Option Nat) : Engine :=
  let e := { e with sysFirst := lowerOf e.sysFirst sys }
  if e.issued < n then
    { e with issued := n, ended := e.ended ++ ((List.range (n - e.issued)).map fun k => e.issued + 1 + k) }.settle
  else e

/-- A range of keys that moves: where it was, where it comes to, and its size. -/
structure Move where
  old : Nat
  new : Nat
  size : Nat
  deriving DecidableEq, Repr

/-- A key after some ranges have moved, all at once. -/
def movedKey (ms : List Move) (k : Nat) : Nat :=
  match ms.find? fun m => lineIn m.old m.size k with
  | some m => k - m.old + m.new
  | none => k

/-- The detector's records of a squad's scratchpads move with them (R220). -/
def Detector.move (d : Detector) (lid : BitVec 32) (squad : Nat) (ms : List Move) : Detector :=
  let m := movedKey ms
  let w := movedKey (ms.map fun x => ⟨x.old / 8, x.new / 8, x.size / 8⟩)
  let mine := fun (l : BitVec 32) (q : Nat) => l == lid && q == squad
  { d with
    entries := d.entries.map fun e =>
      if mine e.lid e.squad then { e with line := m e.line, acc := e.acc.map fun a => { a with word := w a.word } } else e
    fallback := d.fallback.map fun f =>
      if mine f.lid f.squad then { f with line := m f.line, tags := f.tags.map fun t => (w t.1, t.2) } else f
    adds := d.adds.map fun a => if mine a.lid a.squad then { a with addr := m a.addr } else a }

/-- The detector with the records of a recordPart's bytes, for lines from `base`. -/
def Detector.withRecords (d : Detector) (lid : BitVec 32) (squad base : Nat) (part : List Byte) : Detector :=
  let (es, fs) := readRecords lid squad base (leNat ((part.drop 8).take 8)) (part.drop 16)
  { d with entries := es ++ d.entries, fallback := fs ++ d.fallback }

/-- Where the scratchpads of a saved squad's gangs were and where they come to. -/
def SavedSquad.moves (q : SavedSquad) (size : Nat) (pads : List Nat) : List Move :=
  (q.gangs.zip pads).map fun (h, new) => ⟨spadKey h.cluster (h.spadPage * 4096), new, size⟩

/-- A gang of a saved squad comes back: its record, scratchpad and TCMs, its engine's numbers, the detector records of its region. -/
def State.restoreGang (s : State) (p : Packet) (q : SavedSquad) (index cluster : Nat) (g : GangPlace) (rs : List (List Byte))
    (part : List Byte) : State :=
  let h := q.gangs.getD index ⟨0, 0, 0, none, []⟩
  let new := spadKey cluster (g.spadPage.val * 4096)
  let s := { s with
    mem := s.mem.write new (rs.getD 0 [])
    gangs := s.gangs ++ [gangAgain p q.index index cluster g h rs]
    det := s.det.withRecords p.lid q.index new part }
  let s := (g.strands.zip (rs.drop 6)).foldl (fun (u : State) x =>
    { u with mem := u.mem.write (tcmKey cluster x.1.pair.val .access 0) x.2 }) s
  s.setEngine ((s.engine cluster).skipTo h.maxSeq h.sysFirst)

/-- The hub asks for far lines of a save area, each once. -/
def State.hubAsk (s : State) (lid : BitVec 32) (die : Nat) (lines : List Nat) : State :=
  lines.foldl (fun u l =>
    if u.reqs.any fun r => r.who == .launch lid && r.addr == l then u else (u.askLine (.launch lid) l die 1 true).2) s

/-- A read of a save area by the hub that stops: a fault or MEMERR aborts the launch (R267); a far line is waited for. -/
def State.hubStop (s : State) (lid : BitVec 32) (die : Nat) (e : AreaStop) : State :=
  match e with
  | .cause _ _ => s.abort lid 3
  | .miss lines => s.hubAsk lid die (lines.map (·.1)).eraseDups

/-- Reading a recordPart of an area: its head tells how long it is. -/
def State.readPart (s : State) (die : Nat) (ptbr : Word) (a : Nat) : Except AreaStop (List Byte) :=
  match s.readArea die ptbr a 16 with
  | .error e => .error e
  | .ok b => s.readArea die ptbr a (16 + leNat (b.take 8))

/-- What the regions of a saved squad hold: of each gang its ranges and its records, then the squad's barriers, records and adds. -/
structure RegionData where
  gangs : List (List (List Byte) × List Byte)
  bars : List Byte
  shared : List Byte
  adds : List Byte
  deriving DecidableEq, Repr

/-- Reading the regions of a saved squad with `n` gangs. -/
def State.readRegions (s : State) (l : Launch) (q : SavedSquad) (n : Nat) : Except AreaStop RegionData := do
  let gangs ← (List.range n).foldr (fun g (r : Except AreaStop (List (List (List Byte) × List Byte))) => do
    let base := gangBase l.saveBase q.slot g
    let b ← s.readRegion q.die l.ptbr base (gangRanges l.pkt.spad (q.of g))
    let part ← s.readPart q.die l.ptbr (base + 0x303000)
    let bs ← r
    .ok ((b, part) :: bs)) (.ok [])
  let base := squadBase l.saveBase q.slot
  let bars ← s.readArea q.die l.ptbr base 512
  let shared ← s.readPart q.die l.ptbr (base + 512)
  let adds ← s.readPart q.die l.ptbr (base + 512 + shared.length)
  .ok ⟨gangs, bars, shared, adds⟩

/-- The squad's own part of the detector comes back: its SHARED lines and its buffered adds (R220, R223, R267). -/
def State.restoreDet (s : State) (p : Packet) (q : SavedSquad) (pads : List Nat) (r : RegionData) : State :=
  let n := leNat ((r.adds.drop 8).take 8)
  let adds := (List.range n).map fun i => detAddOf p.lid q.index pads ((r.adds.drop (16 + 48 * i)).take 48)
  let d := s.det.withRecords p.lid q.index (sharedPad p q.die).1 r.shared
  { s with det := { d with adds := adds ++ d.adds } }

/-- Placing the first saved squad of a launch again, on the die it left (R24, R269). -/
def State.placeAgain (s : State) (l : Launch) (q : SavedSquad) (die : Fin 4) (gangs : List GangPlace) : State :=
  let p := l.pkt
  let cl := fun g : GangPlace => die.val * 40 + g.cluster.val
  if die.val ≠ q.die || !(gangs.zipIdx.all fun (g, i) => s.seatsAgain p (cl g) (q.of i) g) then s
  else
    match s.readRegions l q gangs.length with
    | .error e => s.hubStop p.lid q.die e
    | .ok r =>
      let pads := gangs.map fun g => spadKey (cl g) (g.spadPage.val * 4096)
      let s := { s with det := s.det.move p.lid q.index (q.moves (p.spad * 4096) pads) }
      let s := (gangs.zipIdx.zip r.gangs).foldl (fun (u : State) x => u.restoreGang p q x.1.2 (cl x.1.1) x.1.1 x.2.1 x.2.2) s
      let s := s.restoreDet p q pads r
      let ts := gangs.zipIdx.flatMap fun (g, i) => ((q.of i).zip g.strands).map fun (t, x) => s.strandAgain l q.index q.slot (cl g) t x
      let s := s.addStrands ts
      let sq : Squad := ⟨p.lid, q.index, q.die, some q.slot, barsOf ⟨2 * p.t * p.g, 0, 0, []⟩ q.arrivals 64 r.bars, false⟩
      let s := { s with squads := s.squads ++ [sq] }
      (s.mapLaunch p.lid fun l => { l with saved := l.saved.drop 1 }).resumeCheck p.lid

/-- SQUAD_PLACE: the next squad of a launch, a saved one first, goes to the places that the front end has chosen, when they are free
(R32, R33). -/
def execSquadPlace (lid : BitVec 32) (die : Fin 4) (gangs : List GangPlace) (s : State) : Out :=
  let l := s.launchOf lid
  if !s.takesLaunches || !s.placesNext lid || !s.placesFit l.pkt die gangs then .next s
  else
    match l.saved with
    | q :: _ => .next (s.placeAgain l q die gangs)
    | [] => .next (s.placeNew l die gangs)

/-! The switch-in (R269). -/

/-- The strand in focus takes its context from the area that it was saved in. -/
def State.switchIn (s : State) : State :=
  let t := s.strand
  let l := s.launchOf t.id.lid
  let area := t.trap.restaddr
  match s.readArea t.die l.ptbr area.toNat 4096, s.readArea t.die l.ptbr (area.toNat + 0x2000) 0x8000 with
  | .error e, _ => s.hubStop t.id.lid t.die e
  | .ok _, .error e => s.hubStop t.id.lid t.die e
  | .ok low, .ok pay =>
    let u := t.switchIn area low pay s.stamp
    { s with strand := ({ u with trap := { u.trap with loading := false } } : Strand).resumeTrap area }

/-- SWITCH_IN (R269). -/
def execSwitchIn (strand : Nat) (s : State) : Out :=
  .next (s.onStrand strand fun s => if s.strand.trap.loading then s.switchIn else s)

end Sys2Proof.Machine
end

