-- ==== Sys2Proof/Machine/Ports.lean ====
section
/-! DEFINITION. The ports of the fabric: configuration, calendar, turns, lock, sending in priority order, windows, loss of light
(R226 to R244, R252 to R257). -/

namespace Sys2Proof.Machine

/-! Wavelengths (R231, R237). -/

/-- The numbers of the set bits of a mask. -/
def lanesOf (m : BitVec 16) : List Nat := (List.range 16).filter fun w => m.getLsbD w

/-- A mask from numbers. -/
def laneMask (l : List Nat) : BitVec 16 := l.foldl (fun m w => m ||| BitVec.ofNat 16 (2 ^ w)) 0

/-- The wavelengths that the monitor sees lit and that are outside LOSTMASK. -/
def Port.usable (x : Port) : BitVec 16 := x.lit &&& ~~~x.lost

/-- The width for a count of usable wavelengths: 16, 12, 8, 4, or 0 for DOWN (R237). -/
def widthFor (n : Nat) : Nat := if 16 ≤ n then 16 else n / 4 * 4

/-- The usable wavelengths that no re-arm still holds back (R254). -/
def Port.ready (x : Port) : BitVec 16 := x.usable &&& ~~~x.held

/-- The new width of a port. -/
def Port.width (x : Port) : Nat := widthFor (lanesOf x.ready).length

/-- The lowest-numbered wavelengths ready for use, in the largest width (R237). -/
def Port.stripe (x : Port) : BitVec 16 := laneMask ((lanesOf x.ready).take x.width)

/-- What a turn start after a re-arm does: every wavelength that the monitor then sees lit is readmitted, and the dark ones stand in
LOSTMASK (R231, R254). -/
def Port.readmit (x : Port) : Port := if x.rearm then { x with lost := ~~~x.lit, held := 0, rearm := false } else x

/-- DOWN (R231). -/
def Port.down (x : Port) : Bool := (lanesOf x.usable).length < 4

/-- Data slots of a window of `w` wavelengths (R227). -/
def slotsFor (w : Nat) : Nat := 128 * w

/-! The bytes of a flit, its CRC and its stripes (R234, R236, R237). -/

/-- One bit of CRC-32 of IEEE 802.3, reflected. -/
def crcBit (c : Nat) : Nat := if c % 2 = 1 then (c / 2) ^^^ 0xEDB88320 else c / 2
/-- One byte of it. -/
def crcByte (c : Nat) (b : Byte) : Nat := (List.range 8).foldl (fun c _ => crcBit c) (c ^^^ b.toNat)
/-- CRC-32 of a byte string. -/
def crc32 (bs : List Byte) : BitVec 32 := BitVec.ofNat 32 (bs.foldl crcByte 0xFFFFFFFF ^^^ 0xFFFFFFFF)

/-- The whole payload of a flit, zero beyond the bytes given. -/
def payload256 (bs : List Byte) : List Byte := (bs ++ List.replicate 256 0).take 256

/-- Bytes 0 to 27 of a flit (R234). -/
def Flit.header (f : Flit) : List Byte :=
  leBytes 1 f.typ.toNat ++ leBytes 1 f.flags.toNat ++ leBytes 2 f.src.toNat ++ leBytes 2 f.dst.toNat ++ leBytes 2 f.len.toNat
    ++ leBytes 4 f.seq.toNat ++ leBytes 4 f.mark.toNat ++ leBytes 8 f.addr.toNat ++ leBytes 4 f.opx.toNat

/-- The CRC that a flit has to carry (R234). -/
def Flit.crcOf (f : Flit) : BitVec 32 := crc32 (Flit.header f ++ payload256 f.payload)

/-- A flit with its CRC, as it is sent. -/
def Flit.sealed (f : Flit) : Flit := { f with crc := Flit.crcOf f }

/-- The 288 bytes of a flit. -/
def Flit.bytes (f : Flit) : List Byte := Flit.header f ++ leBytes 4 f.crc.toNat ++ payload256 f.payload

/-- The part of the 288 bytes of a flit that each wavelength of a stripe carries, in ascending wavelength number (R237, R257). -/
def striped (act : BitVec 16) (bs : List Byte) : List (Nat × List Byte) :=
  let n := 288 / (lanesOf act).length
  (lanesOf act).zipIdx.map fun (w, j) => (w, (bs.drop (j * n)).take n)

/-- A data flit over its stripe (R237). -/
def Flit.striped (act : BitVec 16) (f : Flit) : List (Nat × List Byte) := Sys2Proof.Machine.striped act (Flit.bytes f)

/-- The payload of a turn-start flit: 1,024 classes of two bits (R236). -/
def packClasses (l : List (BitVec 2)) : List Byte :=
  (List.range 256).map fun i => BitVec.ofNat 8 ((List.range 4).foldl (fun v j => v + (l.getD (4 * i + j) 0).toNat * 4 ^ j) 0)

/-- Bytes 0 to 27 of a turn-start flit (R236). -/
def TurnFlit.header (f : TurnFlit) : List Byte :=
  [0x0F, if f.locked then 1 else 0] ++ leBytes 2 f.sender.toNat ++ leBytes 1 f.turn.toNat ++ leBytes 1 f.port.toNat
    ++ leBytes 2 f.actmask.toNat ++ List.replicate 20 0

/-- The CRC that a turn-start flit has to carry (R236). -/
def TurnFlit.crcOf (f : TurnFlit) : BitVec 32 := crc32 (TurnFlit.header f ++ packClasses f.classes)

/-- The 288 bytes of a turn-start flit. -/
def TurnFlit.bytes (f : TurnFlit) : List Byte := TurnFlit.header f ++ leBytes 4 f.crc.toNat ++ packClasses f.classes

/-- A turn-start flit is striped like a data flit, over the ACTMASK of its window, which it names (R257). -/
def TurnFlit.striped (f : TurnFlit) : List (Nat × List Byte) := Sys2Proof.Machine.striped f.actmask (TurnFlit.bytes f)

/-- A turn-start flit with its CRC, as it is sent. -/
def TurnFlit.sealed (f : TurnFlit) : TurnFlit := { f with crc := TurnFlit.crcOf f }

/-- PORTSTAT as the host reads it (R231). -/
def Port.stat (x : Port) : Word :=
  BitVec.ofNat 64 (x.actmask.toNat + x.lost.toNat * 2 ^ 16 + x.turn % 8 * 2 ^ 32 + (if x.lock then 2 ^ 35 else 0)
    + (if x.down then 2 ^ 36 else 0) + (if x.cfgerr then 2 ^ 37 else 0))

/-! Configuration (R229, R230). -/

/-- FABCFG.D as it stores a written value. -/
def storedD (v : Word) : Nat := let d := bits v.toNat 10 11; if d = 0 || 1024 < d then 1 else d
/-- FABCFG.TIMEOUT as it stores a written value. -/
def storedTimeout (v : Word) : BitVec 16 := let t := v.extractLsb' 40 16; if t = 0 then 1 else t

/-- Setting CFGERR on every port. -/
def State.cfgErrAll (s : State) : State :=
  (List.range 128).foldl (fun u p => u.setPort p { u.port p with cfgerr := true }) s

/-- An item in its place in a list with the oldest first. -/
def insertAged (g : GateFlit) : List GateFlit → List GateFlit
  | [] => [g]
  | h :: t => if g.age ≤ h.age then g :: h :: t else h :: insertAged g t

/-- Flits that were sent and are not acknowledged become retries; flits held as relay return to custody (R239, R240). Each keeps the port that
first sent it, whose PORTRPLY counts it once (log 27), its bytes (R320), and its place among the older and the younger ones (R244). -/
def State.resend (s : State) (p : Nat) (items : List SentFlit) : State :=
  let kept := items.map fun i => { i.item with port := some (i.item.port.getD p) }
  let relay := kept.filter fun g => g.cls = 0
  let own := (kept.filter fun g => g.cls ≠ 0).map fun g => { g with cls := 1 }
  let fresh := (items.filter fun i => i.item.port.isNone).length
  let s := s.setPort p { s.port p with rply := (s.port p).rply + BitVec.ofNat 48 fresh }
  { s with fab := { s.fab with custody := relay.foldr insertAged s.fab.custody, gate := own.foldr insertAged s.fab.gate } }

/-- A port that sends nothing any more and has to acquire anew (R231, R232). -/
def Port.halted (x : Port) : Port :=
  { x with lock := false, started := false, actmask := 0, window := false, stopped := true, partner := none, partnerLocked := false
           classes := [], idle := 0, seen := none, sent := [], out := none, acks := [] }

/-- A port stops sending: what it had sent becomes retries, and it acquires anew when it is enabled again (R231, R257). -/
def State.stopPort (s : State) (p : Nat) : State :=
  let x := s.port p
  let s := s.setPort p (Port.halted x)
  if x.sent.isEmpty then s else s.resend p x.sent

/-- The valid partners of a port's column, by turn. -/
def Fabric.column (f : Fabric) (p : Nat) : List (Nat × Nat) :=
  (List.range f.turns).filterMap fun t => let e := f.entry t p; if e.getLsbD 15 then some (t, e.toNat % 1024) else none

/-- A column is legal: its valid entries name different packages of the domain, none this one (R230). A SELF at or above D names no package of
the domain; the column is then judged by its entries alone, which R228 and R229 leave open (log 80). -/
def Fabric.columnOk (f : Fabric) (p : Nat) : Bool :=
  let c := (f.column p).map (·.2)
  (c.all fun x => x < f.d && x != f.self.toNat) && c.eraseDups.length == c.length

/-- CFGERR of every enabled port whose column is illegal (R230). -/
def State.cfgErrColumns (s : State) : State :=
  { s with fab := { s.fab with ports := s.fab.ports.map fun (p, x) =>
      (p, if x.en && !s.fab.columnOk p then { x with cfgerr := true } else x) } }

/-- The sequence spaces count from 0 when the fabric is enabled to lock anew with no flit queued, unacknowledged or awaited (R245;
log 65). -/
def State.freshSpaces (s : State) : State :=
  if s.fab.gate.isEmpty && (s.fab.ports.all fun p => p.2.sent.isEmpty) && !(s.reqs.any fun r => r.remote)
  then { s with fab := { s.fab with peers := [] } } else s

/-- A write of FABCFG (R229): while EN is 1, a write that would change SELF, D or TIMEOUT leaves the three and sets CFGERR on every port;
RTHRESH and EN take their values always. A port whose column the new values make illegal gets CFGERR (R230). -/
def State.fabcfgWrite (s : State) (v : Word) : State :=
  let self : BitVec 10 := v.extractLsb' 0 10
  let clash := s.fab.en && (self ≠ s.fab.self || storedD v ≠ s.fab.d || storedTimeout v ≠ s.fab.timeout)
  let s := if clash then s.cfgErrAll
    else { s with fab := { s.fab with self := self, d := storedD v, timeout := storedTimeout v } }
  let s := if v.getLsbD 32 && !s.fab.en then s.freshSpaces else s
  let s := { s with fab := { s.fab with rthresh := v.extractLsb' 28 4, en := v.getLsbD 32 } }
  let s := if clash then s else s.cfgErrColumns
  if v.getLsbD 32 then s else (List.range 128).foldl (fun u p => if (u.port p).en then u.stopPort p else u) s

/-- FABCFG_WRITE (R14, R229). -/
def execFabcfgWrite (v : Word) (s : State) : Out := s.bar0 fun s => s.fabcfgWrite v

/-- FABCFG as the host reads it (R229). -/
def Fabric.cfg (f : Fabric) : Word :=
  BitVec.ofNat 64 (f.self.toNat + f.d * 2 ^ 10 + (f.turns - 1) * 2 ^ 24 + f.rthresh.toNat * 2 ^ 28 + (if f.en then 2 ^ 32 else 0)
    + f.timeout.toNat * 2 ^ 40)

/-- Writing the bytes of `mask` of one calendar entry, unless its port is enabled (R230). -/
def State.calEntry (s : State) (e : Nat) (mask : BitVec 16) (v : Nat) : State :=
  let x := s.port (e % 128)
  if mask = 0 then s
  else if x.en then s.setPort (e % 128) { x with cfgerr := true }
  else
    let w : BitVec 16 := ((BitVec.ofNat 16 v &&& mask) ||| (assocGet 0 s.fab.cal e &&& ~~~mask)) &&& 0x83FF
    let rest := s.fab.cal.filter fun c => c.1 != e
    { s with fab := { s.fab with cal := if w = 0 then rest else (e, w) :: rest } }

/-- The bits of two bytes that byte enables 0 and 1 let through. -/
def enableMask (b : Nat) : BitVec 16 := BitVec.ofNat 16 ((if b % 2 = 1 then 0xFF else 0) + (if b / 2 % 2 = 1 then 0xFF00 else 0))

/-- A write of the calendar: an access of 2, 4 or 8 bytes, aligned to its size, each entry taking the bytes that the write enables
within it (R230). -/
def State.calWrite (s : State) (offset n : Nat) (enables : BitVec 8) (v : Word) : State :=
  if (n = 2 || n = 4 || n = 8) && offset % n = 0 then
    (List.range (n / 2)).foldl (fun u k =>
      u.calEntry (offset / 2 + k) (enableMask (enables.toNat / 4 ^ k)) (bits v.toNat (16 * k) 16)) s
  else s

/-- CAL_WRITE (R14, R230). -/
def execCalWrite (offset : Fin 2048) (bytes : WriteBytes) (v : Word) (s : State) : Out :=
  s.bar0 fun s => s.calWrite offset.val bytes.size.val bytes.enables v

/-- A write of PORTCTL.EN (R231, R232, R257): a port with an illegal column gets CFGERR and does not lock. -/
def State.portEnable (s : State) (p : Nat) (en : Bool) : State :=
  let x := s.port p
  if en then
    if x.en then s
    else s.setPort p { x with en := true, cfgerr := x.cfgerr || !s.fab.columnOk p, seen := none, stopped := true }
  else
    let s := s.stopPort p
    s.setPort p { s.port p with en := false }

/-- PORTCTL_EN (R14, R231). -/
def execPortctlEn (p : Fin 128) (en : Bool) (s : State) : Out := s.bar0 fun s => s.portEnable p.val en

/-- PORTCTL_REARM: LOSTMASK is cleared, and lit wavelengths are readmitted at the next turn start, until which those that it named stay
out of use (R14, R231, R254). -/
def execPortctlRearm (p : Fin 128) (s : State) : Out :=
  s.bar0 fun s => let x := s.port p.val; s.setPort p.val { x with held := x.held ||| x.lost, lost := 0, rearm := true }

/-! Turns and lock (R232, R233, R236, R242). -/

/-- Relay space: 32 MiB of hub SRAM and 4 GiB of HBM (R242). -/
def relaySpace : Nat := 32 * 2 ^ 20 + 4 * 2 ^ 30

/-- The relay class that this package advertises for a destination (R242): each flit in custody takes its 288 bytes of relay space and counts
with them for its destination (log 27). -/
def Fabric.relayClass (f : Fabric) (x : Nat) : BitVec 2 :=
  let free := relaySpace - f.custody.length * 288
  let held := (f.custody.filter fun c => c.flit.dst.toNat == x).length * 288
  if 2 ^ 30 ≤ free && held < 16 * 2 ^ 20 then 3
  else if 256 * 2 ^ 20 ≤ free && held < 64 * 2 ^ 20 then 2
  else if 8 * 2 ^ 20 ≤ free && held < 256 * 2 ^ 20 then 1
  else 0

/-- The partner that the calendar names for the current turn of a locked port. -/
def State.calPartner (s : State) (p : Nat) : Option Nat :=
  let e := s.fab.entry (s.port p).turn p
  if e.getLsbD 15 then some (e.toNat % 1024) else none

/-- The turn-start flit that a port sends in its window (R236). -/
def State.turnFlit (s : State) (p : Nat) : TurnFlit :=
  let x := s.port p
  let zero := fun d : Nat => s.fab.d ≤ d || d == s.fab.self.toNat || (x.lock && s.calPartner p == some d)
  TurnFlit.sealed
    { locked := x.lock, sender := BitVec.setWidth 16 s.fab.self, turn := if x.lock then BitVec.ofNat 8 x.turn else 0xFF
      port := BitVec.ofNat 8 p, actmask := x.actmask
      classes := (List.range 1024).map fun d => if zero d then 0 else s.fab.relayClass d, crc := 0 }

/-- The port in its turn with the turn-start flit it sends; a port with no wavelength in use sends none (R231, R236). -/
def State.withTurnFlit (s : State) (p : Nat) : State :=
  let x := s.port p
  s.setPort p { x with out := if x.actmask = 0 then none else some (s.turnFlit p) }

/-- Does a port send, locked or acquiring (R231)? A package that a device-fatal error has stopped does not (R256; log 66). -/
def State.sends (s : State) (p : Nat) : Bool := (s.port p).en && s.fab.en && !s.hub.fatal

/-- TURN_START: the turn before has ended without a word from its calendar's partner or not; the guard begins, TURN advances and
PORTTURNS counts, wavelengths change, and the turn-start flit is built (R232 to R234, R236, R254). -/
def execTurnStart (p : Fin 128) (s : State) : Out :=
  if !s.sends p.val then .next s
  else
    let x := s.port p.val
    let s := if x.sent.isEmpty then s else (s.setPort p.val { x with sent := [] }).resend p.val x.sent
    let x := s.port p.val
    let missed := x.partner.isNone
    let idle := if x.lock && missed && (s.calPartner p.val).isSome then x.idle + 1 else x.idle
    let turn := if x.lock then (x.turn + 1) % s.fab.turns else x.turn
    let x := Port.readmit x
    let x := { x with
      idle := idle, turn := turn, turns := if x.counts then x.turns + 1 else x.turns
      seen := if missed then none else x.seen, started := x.started || (x.lock && turn == 0)
      window := false, stopped := false, slot := 0, partner := none, partnerLocked := false, classes := [], relayed := 0
      partnerAct := 0, report := 0, acks := [], actmask := x.stripe }
    .next ((s.setPort p.val x).withTurnFlit p.val)

/-- The window of a turn is open (R227). -/
def Port.opened (x : Port) : Port := { x with window := true }

/-- The turn-start flit of a partner reaches an acquiring port: two successive turns of consecutive indices lock it, a second flit in one turn
does not (R232). -/
def State.acquire (s : State) (p : Nat) (f : TurnFlit) : State :=
  let x := (s.port p).opened
  match (s.fab.column p).find? fun c => c.2 == f.sender.toNat with
  | none => s.setPort p { x with seen := none }
  | some (t, _) =>
    let y := { x with partner := some f.sender, partnerLocked := f.locked, classes := f.classes, partnerAct := f.actmask, seen := some t }
    let two := match (s.port p).seen with
      | some u => (u + 1) % s.fab.turns == t
      | none => false
    if two && x.partner.isNone && s.fab.columnOk p then
      s.setPort p { y with lock := true, counts := true, turns := 0, turn := t, idle := 0, started := false }
    else s.setPort p y

/-- TURNSTART: received on a port. A bad CRC makes the turn idle for relaying, with every class 0: a locked port takes the flit as its
calendar's partner's, and data go on (R232, R236; log 38). -/
def execTurnstart (p : Fin 128) (f : TurnFlit) (s : State) : Out :=
  let x := s.port p.val
  if !s.sends p.val then .next s
  else if f.crc ≠ TurnFlit.crcOf f then
    .next (s.setPort p.val (match x.lock, s.calPartner p.val with
      | true, some z => { x.opened with partner := some (BitVec.ofNat 16 z), partnerLocked := f.locked, classes := [], idle := 0 }
      | _, _ => x.opened))
  else
    if !x.lock then .next (s.acquire p.val f)
    else if s.calPartner p.val = some f.sender.toNat then
      .next (s.setPort p.val { x.opened with
        partner := some f.sender, partnerLocked := f.locked, classes := f.classes, partnerAct := f.actmask, idle := 0 })
    else .next (s.setPort p.val x.opened)

/-- LOCK_LOSS: four idle turns in a row clear LOCK and the port acquires again (R232). In the guard the turn-start flit of the coming window is
built anew, as an acquiring port's. -/
def execLockLoss (p : Fin 128) (s : State) : Out :=
  let x := s.port p.val
  if x.lock && 4 ≤ x.idle then
    let s := s.setPort p.val { x with lock := false, started := false, idle := 0, seen := none }
    .next (if x.window || !s.sends p.val then s else s.withTurnFlit p.val)
  else .next s

/-! Sending (R240 to R245). -/

/-- Turn starts of one port until a turn whose entry names a package (R241). -/
def State.portDistance (s : State) (p x : Nat) : Option Nat :=
  let t := s.port p
  let names := fun k => let e := s.fab.entry ((t.turn + k) % s.fab.turns) p; e.getLsbD 15 && e.toNat % 1024 == x
  let now := !t.stopped && decide (t.slot < slotsFor (lanesOf t.actmask).length)
  (List.range (s.fab.turns + 1)).find? fun k => names k && (k != 0 || now)

/-- d(x): the least over the locked ports that are not DOWN; none when it is unbounded (R241). -/
def State.distance (s : State) (x : Nat) : Option Nat :=
  (s.fab.ports.filterMap fun (p, t) => if t.lock && !t.down && s.sends p then s.portDistance p x else none).foldl
    (fun m k => match m with | some j => some (min j k) | none => some k) none

/-- Bits of a flit's FLAGS (R234). -/
def Flit.cls (f : Flit) : Nat := f.flags.toNat % 4
/-- RELAYED. -/
def Flit.relayed (f : Flit) : Bool := f.flags.getLsbD 2
/-- DIRECT_ONLY. -/
def Flit.direct (f : Flit) : Bool := f.flags.getLsbD 3

/-- Is a new flit within the limit of its sequence space (R245)? -/
def State.withinLimit (s : State) (f : Flit) : Bool :=
  let q := s.peer f.dst
  if Flit.cls f = 0 then decide ((f.seq - q.ordAcked).toNat < 4096) else decide ((f.seq - q.freeAcked).toNat < 16384)

/-- Bytes in the retry buffer of the gateway of a die: flits sent and not acknowledged, and retries (R240). -/
def State.retryBytes (s : State) (die : Nat) : Nat :=
  let sent := (s.fab.ports.filter fun p => p.1 / 32 == die).map fun p => p.2.sent.length
  let wait := (s.fab.gate.filter fun g => g.cls == 1 && (g.port.getD 0) / 32 == die).length
  (sent.sum + wait) * 256

/-- May a queued item be sent on a port now, its destination apart (R240, R245)? -/
def State.mayLeave (s : State) (p : Nat) (g : GateFlit) : Bool :=
  g.cls ≠ 3 || (s.withinLimit g.flit && decide (s.retryBytes (p / 32) < 8 * 2 ^ 20))

/-- Relayed flits that a class allows in one turn (R242). -/
def allowance (c : BitVec 2) (w : Nat) : Nat := if c = 0 then 0 else if c = 1 then 256 else if c = 2 then 1024 else slotsFor w

/-- May a flit be relayed through the current partner of a port (R242, R243)? Every flit relayed on the port in the turn counts towards the
allowance of each destination, which R242 leaves open (log 27). -/
def State.mayRelay (s : State) (p : Nat) (f : Flit) : Bool :=
  let x := s.port p
  !Flit.direct f && (match s.distance f.dst.toNat with | some d => decide (s.fab.rthresh.toNat < d) | none => true)
    && decide (x.relayed < allowance (x.classes.getD f.dst.toNat 0) (lanesOf x.actmask).length)

/-- The PACK that is due to a peer (R246). -/
def Peer.pack (q : Peer) (self : BitVec 10) : Flit :=
  { typ := 0x09, flags := 2, src := BitVec.setWidth 16 self, dst := q.id, len := 8, seq := 0, mark := 0, addr := 0, opx := 0
    payload := leBytes 4 q.nexto.toNat ++ leBytes 4 q.lowf.toNat, crc := 0 }

/-- Pending PACKs as queued items, each with its place from when it became due. -/
def State.duePacks (s : State) : List GateFlit :=
  (s.fab.peers.filter fun q => q.packDue).map fun q => ⟨q.pack s.fab.self, 2, none, q.packAge⟩

/-- The oldest of some items. -/
def oldestOf : List GateFlit → Option GateFlit
  | [] => none
  | g :: l => match oldestOf l with
    | some h => some (if h.age < g.age then h else g)
    | none => some g

/-- Where the next flit of a port comes from. -/
inductive Pick
  | custody (i : Nat) (g : GateFlit)
  | gate (i : Nat) (g : GateFlit) (relay : Bool)
  | pack (g : GateFlit) (relay : Bool)
  | nothing
  deriving DecidableEq, Repr

/-- The first queued item of a class for a package. -/
def State.gateFor (s : State) (p cls z : Nat) : Option Nat :=
  s.fab.gate.findIdx? fun g => g.cls == cls && g.flit.dst.toNat == z && s.mayLeave p g

/-- An item of the gateway as a choice. -/
def State.pickGate (s : State) (i : Nat) (relay : Bool) : Pick :=
  match s.fab.gate[i]? with
  | some g => .gate i g relay
  | none => .nothing

/-- The next flit for the partner `z` of a port, in the order of R244. That gives no order among the CONTROL flits for one partner: the model
sends a queued NOTICE before a PACK (log 27). -/
def State.pick (s : State) (p z : Nat) : Pick :=
  match s.fab.custody.findIdx? fun g => g.flit.dst.toNat == z with
  | some i => (match s.fab.custody[i]? with | some g => .custody i g | none => .nothing)
  | none =>
    match s.gateFor p 1 z with
    | some i => s.pickGate i false
    | none =>
      match s.gateFor p 2 z, s.duePacks.find? fun g => g.flit.dst.toNat == z with
      | some i, _ => s.pickGate i false
      | none, some g => .pack g false
      | none, none =>
        match s.gateFor p 3 z with
        | some i => s.pickGate i false
        | none =>
          let relays := fun g : GateFlit => g.flit.dst.toNat != z && s.mayLeave p g && s.mayRelay p g.flit
          match s.fab.gate.findIdx? relays, oldestOf (s.duePacks.filter relays) with
          | some i, none => s.pickGate i true
          | none, some g => .pack g true
          | some i, some g => if (s.fab.gate[i]?.map (·.age)).getD 0 < g.age then s.pickGate i true else .pack g true
          | none, none => .nothing

/-- A flit leaves in the slot of a port, with its CRC (R234): on a relay path with RELAYED = 1, a retry that first went direct too (R242, R243).
One that has once left on a relay path stays marked RELAYED, and so does not change when it is sent again (R320; log 27). -/
def State.sent (s : State) (p : Nat) (g : GateFlit) (relay : Bool) : State :=
  let x := s.port p
  let f := if relay then { g.flit with flags := g.flit.flags ||| 4 } else g.flit
  s.setPort p { x with sent := x.sent ++ [⟨x.slot, { g with flit := Flit.sealed f }, false⟩], relayed := if relay then x.relayed + 1 else x.relayed }

/-- The slot of a port carries the flit chosen, or passes empty. -/
def State.fillSlot (s : State) (p z : Nat) : State :=
  match s.pick p z with
  | .nothing => s
  | .custody i g => ({ s with fab := { s.fab with custody := s.fab.custody.eraseIdx i } }).sent p g false
  | .gate i g relay => ({ s with fab := { s.fab with gate := s.fab.gate.eraseIdx i } }).sent p g relay
  | .pack g relay =>
    (s.setPeer { s.peer g.flit.dst with packDue := false }).sent p g relay

/-- May a port send data now (R231 to R233, R252)? -/
def State.maySend (s : State) (p : Nat) : Bool :=
  let x := s.port p
  s.sends p && x.lock && x.started && x.partnerLocked && !x.stopped && decide (x.slot < slotsFor (lanesOf x.actmask).length)

/-- FLIT_SEND: one data slot of a port's window begins, and carries the next flit in priority order where the port may send (R227,
R244). -/
def execFlitSend (p : Fin 128) (s : State) : Out :=
  let x := s.port p.val
  if !s.sends p.val || slotsFor (lanesOf x.actmask).length ≤ x.slot then .next s
  else
    let may := s.maySend p.val
    let s := s.setPort p.val x.opened
    let s := match x.partner with
      | some z => if may then s.fillSlot p.val z.toNat else s
      | none => s
    let y := s.port p.val
    .next (s.setPort p.val { y with slot := y.slot + 1 })

/-- WINDOW_END: acknowledged flits leave the retry buffer, the others are resent (R238 to R240). -/
def execWindowEnd (p : Fin 128) (acked : List Bool) (s : State) : Out :=
  let x := s.port p.val
  let lost := x.sent.filter fun i => i.failed || !(acked.getD i.slot false)
  .next ((s.setPort p.val { x with sent := [], stopped := true }).resend p.val lost)

/-! Loss of light (R252 to R255, R257). -/

/-- The laser module when every lost wavelength is one module's (R231, R255). -/
def laserModule (m : BitVec 16) : Nat :=
  match (List.range 4).find? fun k => m &&& ~~~(BitVec.ofNat 16 (0xF * 2 ^ (4 * k))) == 0 with
  | some k => k
  | none => 0xFF

/-- The record of a loss (R255). -/
def lossRecord (detect p : Nat) (lost act : BitVec 16) (turns replayed lmod width turn partner slot : Nat) : List Byte :=
  record 0x20 detect p (leBytes 2 lost.toNat ++ leBytes 2 act.toNat ++ leBytes 8 turns ++ leBytes 4 replayed ++ leBytes 1 lmod
    ++ leBytes 1 (p / 32) ++ leBytes 1 width ++ leBytes 1 turn ++ leBytes 2 partner ++ leBytes 2 slot)

/-- Turn index and partner of the window of a port: the calendar's, or on a port that acquires those that the turn-start flit received in this
turn has fixed (R232, R255; log 28). -/
def State.windowOf (s : State) (p : Nat) : Nat × Nat :=
  let x := s.port p
  match x.lock, x.partner with
  | false, some z => (x.seen.getD x.turn, z.toNat)
  | _, _ => (x.turn, (s.calPartner p).getD 0)

/-- A loss acts on the sending port: in a data window it ends the sending and strikes the latest flits, `back` slots beyond the one in
progress; in a guard it changes the stripe of the coming window (R252, R254, R257). The window has begun with the FLIT_SEND of its slot 0, or with the
partner's turn-start flit; a receiver's report comes in one (`began`). -/
def State.lightLoss (s : State) (p detect back : Nat) (began : Bool) (new : BitVec 16) (lit : BitVec 16) : State :=
  let x := s.port p
  if new = 0 then s.setPort p { x with lit := lit }
  else
    let inWindow := (x.window || began) && s.sends p
    let y := { x with lit := lit, lost := x.lost ||| new, window := inWindow }
    let struck := fun i : SentFlit => inWindow && x.slot ≤ i.slot + 1 + back
    let n := (x.sent.filter struck).length
    let y := if inWindow then { y with stopped := true, sent := x.sent.map fun i => if struck i then { i with failed := true } else i }
      else { y with actmask := if s.sends p then y.stripe else 0 }
    let after := Port.readmit y
    let (turn, partner) := s.windowOf p
    let rec_ := lossRecord detect p new after.stripe x.turns.toNat n (if detect = 0 then laserModule new else 0xFF) after.width turn
      partner (if inWindow then x.slot - 1 else 0xFFFF)
    let s := s.setPort p y
    let s := if inWindow || !s.sends p then s else s.withTurnFlit p
    s.post rec_

/-- LASER_LOSS: the monitor reports within a flit time, so the slot before may have been struck too (R252; log 28). -/
def execLaserLoss (p : Fin 128) (mask : BitVec 16) (s : State) : Out :=
  let x := s.port p.val
  let back := if Config.freeChoice s.fresh 0 then 1 else 0
  .next (({ s with fresh := s.fresh + 1 }).lightLoss p.val 0 back false (mask &&& ~~~x.lost) (x.lit &&& ~~~mask))

/-- LOSS_REPORT_RECEIVE: the receiver's report acts as the monitor's; the flits whose slots began since the loss are struck (R253;
log 28). -/
def execLossReportReceive (p : Fin 128) (mask : BitVec 16) (s : State) : Out :=
  let x := s.port p.val
  let back := (Config.freeValue s.fresh).toNat
  .next (({ s with fresh := s.fresh + 1 }).lightLoss p.val 1 back true (mask &&& ~~~x.lost) x.lit)

/-- RX_LOSS_DETECT: a wavelength that the sender's ACTMASK shows active is dark; it is reported for the rest of the window (R253). -/
def execRxLossDetect (p : Fin 128) (mask : BitVec 16) (s : State) : Out :=
  let x := s.port p.val
  .next (s.setPort p.val { x with report := x.report ||| (mask &&& x.partnerAct) })

/-- LIGHT_RETURN: the monitor sees a wavelength lit again; it stays out of use until a re-arm (R254). -/
def execLightReturn (p : Fin 128) (mask : BitVec 16) (s : State) : Out :=
  let x := s.port p.val
  .next (s.setPort p.val { x with lit := x.lit ||| mask })

end Sys2Proof.Machine
end

