-- ==== Sys2Proof/Machine/Power.lean ====
section
/-! DEFINITION. Power, temperature and grants, device-fatal errors, start-up, management, attestation, host accesses through BAR2,
and the background activities (R13 to R19, R89, R90, R169, R213, R272 to R276, R279). -/

namespace Sys2Proof.Machine

/-! Grants (R16, R18, R89, R169). -/

/-- A lane grant lies between 4 and 32 (R89). -/
def clampLanes (n : Fin 33) : Nat := max 4 n.val
/-- A rate lies between 1 and 16 (R169). -/
def clampRate (n : Fin 17) : Nat := max 1 n.val

/-- Changing power and temperature state. -/
def State.mapPower (s : State) (f : Power → Power) : State := { s with power := f s.power }

/-- Lowering a pair of grants: to the values asked for where one of them is lower, otherwise by one step (R16). -/
def lowerGrants (now asked : Nat × Nat) : Nat × Nat :=
  let l := min now.1 asked.1
  let r := min now.2 asked.2
  if l < now.1 || r < now.2 then (l, r) else (max 4 (now.1 - 1), max 1 (now.2 - 1))

/-- POWER_SAMPLE: the measured power, which never passes 3,300 W, and the grants that the power limit then calls for: above 3,000 W they
are lowered (R15, R16; log 64). -/
def execPowerSample (milliwatt : Nat) (lanes : Fin 33) (rate : Fin 17) (s : State) : Out :=
  let drawn := min milliwatt 3300000
  .next (s.mapPower fun p =>
    let asked := (clampLanes lanes, clampRate rate)
    let g := if 3000000 < drawn then lowerGrants (p.powerLanes, p.powerRate) asked else asked
    { p with milliwatt := drawn, powerLanes := g.1, powerRate := g.2 })

/-- A grant list with one cluster set; clusters at the full grant are not listed. -/
def setGrant (full : Nat) (l : List (Nat × Nat)) (c v : Nat) : List (Nat × Nat) :=
  let rest := l.filter fun x => x.1 != c
  if v = full then rest else (c, v) :: rest

/-- GRANT_UPDATE: the hub's write reaches a cluster, each grant the lower of the two (R16, R89, R169). -/
def execGrantUpdate (cluster : Fin 160) (s : State) : Out :=
  .next (s.mapPower fun p =>
    { p with
      lgrant := setGrant 32 p.lgrant cluster.val (min p.powerLanes p.thermalLanes)
      mgrant := setGrant 16 p.mgrant cluster.val (min p.powerRate p.thermalRate) })

/-! Device-fatal errors (R273). -/

/-- The number of a cause, in the order of R273 (log 25). -/
def FatalCause.number : FatalCause → Nat
  | .thermal => 0
  | .ucie => 1
  | .internalState => 2
  | .watchdog => 3

/-- Every packet in the launch queues is discarded. -/
def LaunchQueue.discard (l : LaunchQueue) : LaunchQueue := { l with head := l.tail, checked := none, posts := [] }

/-- Every launch in flight is aborted with reason FATAL (R277). -/
def State.abortAll (s : State) : Nat → State
  | 0 => s
  | n + 1 =>
    match s.launches with
    | [] => s
    | l :: _ => (s.abort l.pkt.lid 4).abortAll n

/-- The fabric of a package that has stopped: no port sends, and the flits in custody and at the gateways are lost (R256; log 66). -/
def Fabric.stopped (f : Fabric) : Fabric :=
  { f with ports := f.ports.map fun (p, x) => (p, Port.halted x), gate := [], custody := [] }

/-- A device-fatal error (R256, R273, R275, R277). -/
def State.fatalError (s : State) (c : Nat) : State :=
  let s := s.mapHub fun h => { h with queues := h.queues.map fun q => (q.1, q.2.discard) }
  let s := (s.abortAll s.launches.length).post (record 0x08 c 0 [])
  let s := { s with fab := s.fab.stopped }
  s.mapHub fun h => { h with fatal := true, busy := none, warm := h.warm || h.auto }

/-- DEVICE_FATAL (R273). -/
def execDeviceFatal (cause : FatalCause) (s : State) : Out := .next (s.fatalError (FatalCause.number cause))

/-- HUB_WATCHDOG_EXPIRY (R273). -/
def execHubWatchdogExpiry (s : State) : Out := .next (s.fatalError (FatalCause.number .watchdog))

/-- Is a die at or above a temperature? -/
def State.hotAt (s : State) (c : Nat) : Bool := s.power.celsius.toList.any fun x => decide (c ≤ x)

/-- What R18 does about the temperatures: from 105 °C on grants are lowered until every die is below 100 °C, and a device-fatal error comes at
115 °C (log 64). -/
def State.thermalAct (s : State) (asked : Nat × Nat) : State :=
  let lowering := s.power.thermalLanes != 32 || s.power.thermalRate != 16
  let s :=
    if s.hotAt 105 || (s.hotAt 100 && lowering) then s.mapPower fun p =>
      let g := lowerGrants (p.thermalLanes, p.thermalRate) asked
      { p with thermalLanes := g.1, thermalRate := g.2 }
    else if s.hotAt 100 then s
    else s.mapPower fun p => { p with thermalLanes := 32, thermalRate := 16 }
  if s.hotAt 115 then s.fatalError (FatalCause.number .thermal) else s

/-- THERMAL_LIMIT: a die's temperature, and what R18 does about it; at 125 °C the module has no power. -/
def execThermalLimit (die : Fin 5) (celsius : Nat) (lanes : Fin 33) (rate : Fin 17) (s : State) : Out :=
  let s := s.mapPower fun p => { p with celsius := p.celsius.set die.val celsius die.isLt }
  .next (if s.hotAt 125 then s.mapPower fun p => { p with on := false } else s.thermalAct (clampLanes lanes, clampRate rate))

/-- COOLANT_FLOW_CHANGE (R17). -/
def execCoolantFlowChange (flowing : Bool) (s : State) : Out := .next (s.mapPower fun p => { p with coolant := flowing })

/-! Start-up (R8, R14, R17, R19, R274, R275). -/

/-- Does a firmware image verify by its hash and signature (R19)? -/
def StartInputs.verifies (i : StartInputs) (image : BitVec 256) : Bool := !i.badImages.contains image

/-- Firmware verification (R19, R274): the newest image, otherwise the one that verified last; none when neither verifies. The model's
choice: then the image that was taken in stays pending, and the rejection reported before stays as it was (log 67). -/
def Hub.verify (h : Hub) (i : StartInputs) : Option Hub :=
  let newest := h.pending.getD h.image
  if StartInputs.verifies i newest then some { h with image := newest, goodImage := newest, pending := none, imageRejected := false }
  else if StartInputs.verifies i h.goodImage then some { h with image := h.goodImage, pending := none, imageRejected := true }
  else none

/-- Does a vector unit with these faults leave its cluster in the map (R8)? -/
def LaneFuses.usable (l : LaneFuses) : Bool := l.allRegs && decide ((List.range 34).countP (fun k => l.faulty.getLsbD k) ≤ 2)

/-- Fuse read: the map loses every cluster with a vector unit that two spare lanes cannot repair, for good; the other faulty lanes are
mapped onto spare lanes (R8). -/
def Hub.fuseRead (h : Hub) (fuses : List LaneFuses) : Hub :=
  let off := fun c : Nat => fuses.any fun l => l.cluster.val == c && !LaneFuses.usable l
  { h with
    present := Vector.ofFn fun d =>
      (List.range 40).foldl (fun m k => if off (d.val * 40 + k) then m &&& ~~~BitVec.twoPow 40 k else m) (h.present.get d)
    spared := (fuses.filter LaneFuses.usable).map fun l => (l.cluster.val, l.faulty) }

/-- The trims of a training are saved with their digest and the temperatures (R275). -/
def State.saveTrims (s : State) (trims : BitVec 256) : State :=
  s.mapHub fun h => { h with trims := some ⟨Config.sm3 (leBytes 32 trims.toNat), s.power.celsius⟩ }

/-- Do the saved trims validate: does their digest match, and is every die within 10 °C of its temperature when they were saved (R275)? -/
def State.trimsValid (s : State) (read : BitVec 256) : Bool :=
  match s.hub.trims with
  | none => false
  | some t => Config.sm3 (leBytes 32 read.toNat) == t.digest
    && (List.finRange 5).all fun d => s.power.celsius.get d ≤ t.celsius.get d + 10 && t.celsius.get d ≤ s.power.celsius.get d + 10

/-- Phase 6: the stored fabric image gives FABCFG, the calendar and the enabled ports, which then acquire their spinners (R232, R274;
log 38). -/
def State.loadFabric (s : State) (i : Option FabricImage) : State :=
  match i with
  | none => s
  | some f =>
    let s := f.cal.foldl (fun u e => u.calEntry e.1.val 0xFFFF e.2.toNat) s
    let s := s.fabcfgWrite f.cfg
    (List.range 128).foldl (fun u p => if f.ports.getLsbD p then u.portEnable p true else u) s

/-- The ports with the wavelengths that locked and calibrated: the others are left out of use (R274), and one that was lost before stays so until
a re-arm (R254). -/
def Fabric.calibrated (f : Fabric) (lit : Vector (BitVec 16) 128) : Fabric :=
  { f with ports := (List.finRange 128).filterMap fun p =>
      let x := assocGet Port.reset f.ports p.val
      let x := { x with lit := lit.get p, lost := x.lost ||| ~~~(lit.get p) }
      if x = Port.reset then none else some (p.val, x) }

/-- The machine as power-on finds it: what survives is outside the package's volatile state: temperatures with the thermal limit that
still holds (R18), the cluster map that fuses keep (R8), firmware images with the rejection reported last (log 67), and trims. -/
def State.powered (s : State) (celsius : Vector Nat 5) : State :=
  { State.reset with
    agenda := s.agenda, delays := s.delays, stops := s.stops, fresh := s.fresh, stamp := s.stamp, hostOut := s.hostOut
    power := { Power.reset with celsius := celsius, coolant := s.power.coolant, thermalLanes := s.power.thermalLanes
                                thermalRate := s.power.thermalRate }
    hub := { Hub.reset with image := s.hub.image, goodImage := s.hub.goodImage, pending := s.hub.pending, present := s.hub.present
                            spared := s.hub.spared, trims := s.hub.trims, imageRejected := s.hub.imageRejected } }

/-- A start that stops in a phase (R274). -/
def State.stopIn (s : State) (phase : BitVec 4) : State := s.mapHub fun h => { h with phase := phase, ready := false }

/-- The phases of a cold start, in order (R274). Without coolant the compute dies stay in reset (R17); the model's choice is that DEVSTAT
then shows phase 1, FAIL 0 and the map of before (log 68). -/
def State.coldStart (s : State) (i : StartInputs) : State :=
  if !s.power.coolant || !i.fuseOk then s
  else
    let s := s.mapHub fun h => h.fuseRead i.fuses
    match s.hub.verify i with
    | none => s.stopIn 2
    | some h =>
      let s := { s with hub := { h with link0 := i.link0, link1 := i.link1 } }
      if !linkUp i.link0 then s.stopIn 3
      else
        match i.memFail with
        | some f => (s.stopIn 4).mapHub fun h => { h with fail := f }
        | none =>
          let s := ({ s with fab := s.fab.calibrated i.lit }).saveTrims i.trims
          let s := s.loadFabric i.fabric
          if i.clearOk then s.mapHub fun h => { h with phase := 7, ready := true } else s.stopIn 7

/-- COLD_START: power comes, the phases run, and the temperatures found act as ever (R18, R274); at 125 °C the module has no power. -/
def execColdStart (i : StartInputs) (s : State) : Out :=
  let s := s.powered i.celsius
  .next (if s.hotAt 125 then s.mapPower fun p => { p with on := false } else (s.coldStart i).thermalAct (32, 16))

/-- A launch queue after a warm start (R275). -/
def LaunchQueue.warmed (l : LaunchQueue) : LaunchQueue := { l with head := 0, tail := 0, en := false, checked := none, posts := [] }

/-- A port that has to join the fabric again; a re-arm still waits for the next turn start (R254), and PORTTURNS counts on from its last lock until it locks again (R231 to R233, R275). -/
def Port.rejoin (x : Port) : Port :=
  { Port.reset with en := x.en, lost := x.lost, lit := x.lit, cfgerr := x.cfgerr, turns := x.turns, counts := x.counts
                    rply := x.rply, rearm := x.rearm, held := x.held }

/-- What a warm start discards: launches, queues, everything in flight; the fabric starts anew (R275). The model keeps the event queue with its
held records, which tell the host what was lost (log 71). -/
def State.discarded (s : State) : State :=
  { s with
    strand := Strand.vacant, others := [], gangs := [], squads := [], launches := [], tlb := [], reqs := [], engines := []
    det := ⟨[], [], [], [], []⟩
    hub := { s.hub with queues := s.hub.queues.map (fun q => (q.1, q.2.warmed)), busy := none, fatal := false, warm := false,
                        ready := false }
    fab := { s.fab with ports := s.fab.ports.map (fun p => (p.1, p.2.rejoin)), gate := [], custody := [], peers := [] } }

/-- Memory, its copies and the seal table are cleared (R274, R275). -/
def State.cleared (s : State) : State := { (s.mapHub fun h => { h with seals := [] }) with mem := [], bad := [], l2 := [] }

/-- WARM_START (R19, R274, R275): it runs when one is due. -/
def execWarmStart (i : StartInputs) (s : State) : Out :=
  if !s.hub.warm then .next s
  else
    let valid := s.trimsValid i.trimsRead
    let s := s.discarded
    match s.hub.verify i with
    | none => .next (s.stopIn 2)
    | some h =>
      let s := { s with hub := { h with link0 := if linkUp h.link0 then h.link0 else i.link0
                                        link1 := if linkUp h.link1 then h.link1 else i.link1 } }
      if !linkUp s.hub.link0 then .next (s.stopIn 3)
      else
        match (if valid then none else i.memFail) with
        | some f => .next ((s.stopIn 4).mapHub fun h => { h with fail := f })
        | none =>
          let s := if valid then s else ({ s with fab := s.fab.calibrated i.lit }).saveTrims i.trims
          let keep := s.hub.keep && valid
          .next (if keep then s.mapHub fun h => { h with phase := 7, fail := 0, ready := true }
            else if i.clearOk then s.cleared.mapHub fun h => { h with phase := 7, fail := 0, ready := true }
            else s.cleared.stopIn 7)

/-! Management (R14, R19). -/

/-- FIRMWARE_UPDATE: an image is taken in for the next start (R19). -/
def execFirmwareUpdate (image : BitVec 256) (s : State) : Out := .next (s.mapHub fun h => { h with pending := some image })

/-- PLDM_MONITOR: power, temperatures, coolant state, link states, the cluster map, the phase with its failure, and whether an image
was rejected (R14, R17, R19, R274; log 26 for their order). -/
def execPldmMonitor (s : State) : Out :=
  let h := s.hub
  let b := fun x : Bool => if x then 1 else 0
  let map := h.present.toList.map fun x : BitVec 40 => x.toNat
  let answer := [s.power.milliwatt] ++ s.power.celsius.toList ++ [b s.power.coolant, h.link0.toNat, h.link1.toNat] ++ map
    ++ [h.phase.toNat, h.fail.toNat, b h.ready, b h.fatal, b h.imageRejected]
  .next (s.mapHub fun h => { h with monitor := answer })

/-! Attestation (R279). -/

/-- A sealed region in the report. -/
def Seal.bytes (r : Seal) : List Byte := leBytes 8 r.base.toNat ++ leBytes 8 r.length.toNat ++ leBytes 32 r.digest.toNat

/-- The signed part of the report: firmware digest, fuse identity, nonce, sealed regions (log 26 for their order). -/
def Hub.reportBody (h : Hub) (nonce : BitVec 256) : List Byte :=
  leBytes 32 (Config.sm3 (leBytes 32 h.image.toNat)).toNat ++ leBytes 32 Config.fuseIdentity.toNat ++ leBytes 32 nonce.toNat
    ++ (h.seals.map Seal.bytes).flatten

/-- ATTESTATION_REPORT (R279), a read of BAR0 with the host's nonce, which only link 0 brings (R14). -/
def execAttestationReport (nonce : BitVec 256) (s : State) : Out :=
  s.bar0 fun s =>
    let body := s.hub.reportBody nonce
    s.mapHub fun h => { h with report := body ++ leBytes 64 (Config.sm2Sign body).toNat }

/-! BAR2 (R13, R213, R279). -/

/-- The keys that a host access of `n` bytes touches, when it lies in device memory. -/
def bar2Key (t : Tier) (pa n : Nat) : Option Nat :=
  match localKey t pa, localKey t (pa + (n - 1)) with
  | some k, some _ => some k
  | _, _ => none

/-- Does a host write touch a sealed page? A write with no byte enabled counts as one byte at its address (R213). -/
def State.bar2Sealed (s : State) (k : Nat) (bs : List (Option Byte)) : Bool :=
  s.sealedKey k && bs.all Option.isNone || (bs.zipIdx.any fun (b, i) => b.isSome && s.sealedKey (k + i))

/-- The bytes that a host write enables, at their keys. -/
def enabledBytes (k : Nat) (bs : List (Option Byte)) : List (Nat × Byte) :=
  bs.zipIdx.filterMap fun (b, i) => b.map fun x => (k + i, x)

/-- HOST_BAR2_ACCESS: a read answers with the bytes of device memory, a write writes those that it enables (R13, R213). The model's choice:
a trained link reaches the memory whatever phase the start-up has stopped in (log 69). -/
def execHostBar2Access (a : Bar2Access) (s : State) : Out :=
  let up := if a.link.val = 0 then linkUp s.hub.link0 else linkUp s.hub.link1
  let n := match a.write with | some bs => bs.length | none => a.len
  match bar2Key a.tier a.pa n with
  | none => .next s
  | some k =>
    if !up then .next s
    else
      match a.write with
      | none => .next { s with hostOut := s.hostOut ++ [⟨k, s.mem.bytes k n⟩] }
      | some bs =>
        if s.bar2Sealed k bs then .next (s.sealWrite a.pa)
        else .next { s with mem := s.mem.setAll (enabledBytes k bs) }

/-! Background activities (R276). -/

/-- SCRUB: correctable errors are corrected and nothing is seen; an uncorrectable one stays in its line and is reported (R272,
R276). -/
def execScrub (tier : Tier) (pa : Nat) (ok : Bool) (s : State) : Out :=
  match localKey tier pa with
  | none => .next s
  | some k =>
    if ok && !s.isBad k then .next s
    else
      let s := if s.isBad k then s else { s with bad := lineOf k :: s.bad }
      .next (s.postMemErr 0 (if tier = .hbm then 0 else 1) pa)

/-- DRAM_REFRESH changes no result that programs can see (R276). -/
def execDramRefresh (s : State) : Out := .next s
/-- OPTICAL_CALIBRATION runs inside guard intervals and changes no result (R276). -/
def execOpticalCalibration (s : State) : Out := .next s
/-- TELEMETRY changes no result (R276). -/
def execTelemetry (s : State) : Out := .next s

end Sys2Proof.Machine
end

