-- ==== Sys2Proof/Machine/Flits.lean ====
section
/-! DEFINITION. Flits that a package receives: custody, the two sequence spaces, performing a flit, replies, performed
acknowledgements and notices, and the ends of time that fail an operation (R234, R235, R239, R245 to R251, R256). -/

namespace Sys2Proof.Machine

/-- Types of flits with the classes that R235 gives them. -/
def typeFits (typ cls : Nat) : Bool :=
  match typ with
  | 0x01 | 0x02 | 0x03 => cls = 0 || cls = 1
  | 0x04 | 0x05 | 0x06 | 0x07 | 0x08 => cls = 0
  | 0x09 | 0x0A => cls = 2
  | _ => false

/-- A flit that the receiver takes (R234): its CRC holds and every field has a listed value. -/
def Flit.fits (f : Flit) : Bool :=
  f.crc == Flit.crcOf f && f.flags.toNat / 16 == 0 && f.src.toNat < 1024 && f.dst.toNat < 1024 && f.len.toNat ≤ 256 && f.addr.toNat < 2 ^ 52
    && typeFits f.typ.toNat (Flit.cls f) && (Flit.cls f != 2 || f.seq == 0)
    && (f.typ != 0x02 || f.opx == 64 || f.opx == 256)

/-- The valid payload bytes. -/
def Flit.body (f : Flit) : List Byte := (f.payload ++ List.replicate 256 0).take f.len.toNat

/-- `a < b` in a sequence space, with `b` at most half the space on. -/
def seqPast (a b : BitVec 32) : Bool := (b - a).toNat < 2 ^ 31

/-! The target of a flit (R178, R234). -/

/-- The key of `n` bytes at a PA[51:0] of this package, when they lie in its HBM or LPDDR. -/
def homeKey (pa n : Nat) : Option Nat :=
  match pa / 2 ^ 50 with
  | 0 => bar2Key .hbm (pa % 2 ^ 50) n
  | 1 => bar2Key .lpddr (pa % 2 ^ 50) n
  | _ => none

/-- Does a sealed page hold the first or the last of `n` bytes? -/
def State.sealedAt (s : State) (k n : Nat) : Bool := s.sealedKey k || s.sealedKey (k + (n - 1))

/-- Does a read of `n` bytes meet an uncorrectable error (R272)? -/
def State.badRead (s : State) (k n : Nat) : Bool := (List.range n).any fun i => s.isBad (k + i)

/-- Does a write of `n` bytes merge with a word that holds an uncorrectable error (log 15)? A zero-length store is checked as one byte
(R213). -/
def State.badMerge (s : State) (k n : Nat) : Bool :=
  (List.range n).any fun i => s.isBad (k + i) && ((k + i) / 8 * 8 < k || k + n < (k + i) / 8 * 8 + 8)

/-- Ending the requests that rest on a flit, badly (R251). -/
def State.failFlit (s : State) (dst : BitVec 16) (cls : BitVec 2) (seq : BitVec 32) : State :=
  (s.reqs.filter fun r => r.remote && r.dst == dst && r.flits.any fun (c, q, n) => c == cls && (seq - q).toNat < n).foldl
    (fun u r => u.complete r false []) s

/-- The request that a reply from a package answers. -/
def State.answered (s : State) (src : BitVec 16) (cls : Nat) (mark : BitVec 32) : Option Request :=
  s.reqs.find? fun r => r.remote && r.dst == src && r.cls.toNat == cls && r.seq == mark && r.mask == 0

/-- A reply ends its request well; one that nothing waits for is dropped. -/
def State.answer (s : State) (src : BitVec 16) (cls : Nat) (mark : BitVec 32) (data : List Byte) : State :=
  match s.answered src cls mark with
  | some r => s.complete r true data
  | none => s

/-- A NOTICE to a package: SEQ, CLASS and DST of the flit that was not delivered or that failed (R235, R251, R272; log 29). -/
def State.sendNotice (s : State) (f : Flit) : State :=
  let n := s.fab.flit 0x0A 2 f.src.toNat 0
  s.enqueue { n with len := 8, payload := leBytes 4 f.seq.toNat ++ leBytes 1 (Flit.cls f) ++ [0] ++ leBytes 2 f.dst.toNat } 2

/-! Performing one flit; none where it fails at its target. -/

/-- WRITE: LEN bytes, or the checks of a one-byte store for a zero-length store (R213, R235). -/
def State.doWrite (s : State) (f : Flit) : Option State :=
  let n := f.len.toNat
  match homeKey f.addr.toNat (max 1 n) with
  | none => none
  | some k => if s.sealedAt k n || s.badMerge k (max 1 n) then none else some { s with mem := s.mem.setAll (atKeys k (Flit.body f)) }

/-- RELMARK: the address is checked as for a store of one byte, and nothing is written (R213, R248). -/
def State.doRelmark (s : State) (f : Flit) : Option State :=
  match homeKey f.addr.toNat 1 with
  | none => none
  | some k => if s.sealedAt k 1 || s.badMerge k 1 then none else some s

/-- RDREQ: the RDREPLY travels as its request, with its SEQ as MARK (R235, R243). -/
def State.doRdreq (s : State) (f : Flit) : Option State :=
  let n := f.opx.toNat
  match homeKey f.addr.toNat n with
  | none => none
  | some k =>
    if s.badRead k n then none
    else
      some (s.sendFlit 0x03 (Flit.cls f) f.src.toNat (Flit.direct f) fun g =>
        { g with mark := f.seq, len := BitVec.ofNat 16 n, payload := s.mem.bytes k n }).2

/-- Operation, size and rounding of an ATOMIC (log 14). -/
def Flit.atomicOp (f : Flit) : Option (AtOp × AtSize × Rnd) :=
  match AtOp.ofCode (f.opx.toNat % 16), Rnd.ofCode (bits f.opx.toNat 6 3) with
  | some op, some r => some (op, if bits f.opx.toNat 4 1 = 0 then .w else .d, r)
  | _, _ => none

/-- ATOMIC: executed at its home slice; the ATREPLY is kept in the reply cache and sent (R250). -/
def State.doAtomic (s : State) (f : Flit) : Option State :=
  match Flit.atomicOp f with
  | none => none
  | some (op, sz, rnd) =>
    let n := atBytes sz
    match homeKey f.addr.toNat n with
    | none => none
    | some k =>
      if k % n ≠ 0 || s.sealedAt k n || s.badRead k n then none
      else
        let old := s.mem.readNat k n
        let v := leNat ((Flit.body f).take n)
        let e := leNat (((Flit.body f).drop n).take n)
        let s := match (op.new sz rnd old v e).1 with
          | some x => { s with mem := s.mem.setAll (atKeys k (leBytes n x)) }
          | none => s
        let s := (s.sendFlit 0x05 0 f.src.toNat false fun g =>
          { g with mark := f.seq, len := BitVec.ofNat 16 n, payload := leBytes n old }).2
        let q := s.peer f.src
        match s.fab.gate.getLast? with
        | some g => some (s.setPeer { q with replies := ((f.seq, g.flit) :: q.replies).take 64 })
        | none => some s

/-! Vector request packets (R249, R185; log 18). -/

/-- One element of a packet: the key of its bytes, whether it is the high nibble, and its data. -/
structure PackEl where
  key : Nat
  hi : Bool
  data : Nat
  deriving DecidableEq, Repr

/-- The active elements of a packet of `w`-bit elements, of those from `i` to the last: their addresses follow from the base and the stride or the
index as they do where the instruction stands (R184); none when one lies outside memory. -/
def packetEls (w : Nat) (form : VForm) (base : Word) (on : Nat → Bool) (idx data : Nat → Nat) : Nat → Nat → Option (List PackEl)
  | _, 0 => some []
  | i, n + 1 =>
    match packetEls w form base on idx data (i + 1) n with
    | none => none
    | some l =>
      if on i then
        let nib := vNib form base w 1 idx i
        (homeKey (nib / 2) (max 1 (w / 8))).map fun k => ⟨k, nib % 2 == 1, data i⟩ :: l
      else some l

/-- The elements that a packet holds (R249). -/
def packetOf (w : Nat) (bs : List Byte) : Option (List PackEl) :=
  let num := fun o n => leNat ((bs.drop o).take n)
  let c := num 0 1
  let n := num 4 4 % 2 ^ 16
  let indexed := num 2 2 == 1
  let mask := 24
  let idx := mask + (n + 63) / 64 * 8
  let data := idx + if indexed then 8 * n else 0
  packetEls w (if indexed then .index else .stride (BitVec.ofNat 64 (num 16 8))) (BitVec.ofNat 64 (num 8 8))
    (fun i => (num (mask + i / 8) 1).testBit (i % 8)) (fun i => num (idx + 8 * i) 8)
    (fun i => if c = 0 then 0 else num (data + 8 * i) 8) 0 n

/-- The operation of a packet's code: none is a load, some none a store. -/
def packetOp (c : Nat) : Option (Option AtOp) := if c = 0 then none else if c = 1 then some none else some (AtOp.ofCode (c - 2))

/-- Does an element fail its checks at the target? -/
def State.elFails (s : State) (w c : Nat) (e : PackEl) : Bool :=
  let n := max 1 (w / 8)
  (c ≠ 0 && s.sealedAt e.key n) || (if c = 1 then s.badMerge e.key n else s.badRead e.key n)

/-- One element access: its old value, and the state after it. -/
def State.packetEl (s : State) (w c : Nat) (e : PackEl) : Nat × State :=
  let n := max 1 (w / 8)
  let here := s.mem.bytes e.key n
  let old := elementOf w e.hi here
  match packetOp c with
  | none => (old, s)
  | some none => (old, { s with mem := s.mem.setAll (atKeys e.key (if w = 4 then [nibbleIn e.hi (here.getD 0 0) e.data] else leBytes n e.data)) })
  | some (some op) =>
    match (op.new (if w = 32 then .w else .d) .rne old e.data 0).1 with
    | some x => (old, { s with mem := s.mem.setAll (atKeys e.key (leBytes n x)) })
    | none => (old, s)

/-- The element accesses of a packet, in order, with the old values as bytes. -/
def State.packetRun (s : State) (w c : Nat) : List PackEl → List Byte × State
  | [] => ([], s)
  | e :: es =>
    let (v, s) := s.packetEl w c e
    let (bs, s) := State.packetRun s w c es
    (leBytes 8 v ++ bs, s)

/-- A whole packet: its elements are checked, then performed, and the reply is sent; `first` is the SEQ of its first flit. -/
def State.doPacket (s : State) (src : BitVec 16) (first : BitVec 32) (bs : List Byte) : Option State :=
  let c := leNat (bs.take 1)
  let w := 4 * 2 ^ (leNat ((bs.drop 1).take 1) % 8)
  match packetOf w bs with
  | none => none
  | some es =>
    if 12 < c || es.any (s.elFails w c) then none
    else
      let (data, s) := s.packetRun w c es
      let reply := if c = 1 then [] else data
      some (s.sendPacket 0x07 src.toNat first.toNat reply.length reply 300 none).2

/-- A VECREQ or VECREPLY adds its part to the packet in progress; `k` takes the packet once it is whole. -/
def State.gather (s : State) (f : Flit) (k : State → List Byte → Option State) : Option State × State :=
  let q := s.peer f.src
  let bs := q.vec ++ Flit.body f
  if bs.length < f.opx.toNat then (some (s.setPeer { q with vec := bs }), s)
  else let s := s.setPeer { q with vec := [] }; (k s bs, s)

/-- The first flit's SEQ of a packet that ends with this flit. -/
def Flit.firstSeq (f : Flit) : BitVec 32 := f.seq + 1 - BitVec.ofNat 32 (max 1 ((f.opx.toNat + 255) / 256))

/-- Performing an ORDERED or FREE flit: the state after it, and a NOTICE to its source where it fails. -/
def State.performFlit (s : State) (f : Flit) : State :=
  let (o, s) : Option State × State :=
    match f.typ.toNat with
    | 0x01 => (s.doWrite f, s)
    | 0x02 => (s.doRdreq f, s)
    | 0x03 => (some (s.answer f.src (Flit.cls f) f.mark (Flit.body f)), s)
    | 0x04 => (s.doAtomic f, s)
    | 0x05 => (some (s.answer f.src 0 f.mark (Flit.body f)), s)
    | 0x06 => s.gather f fun s bs => s.doPacket f.src (Flit.firstSeq f) bs
    | 0x07 => s.gather f fun s bs => some (s.answer f.src 0 f.mark bs)
    | 0x08 => (s.doRelmark f, s)
    | _ => (some s, s)
  match o with
  | some t => t
  | none => s.sendNotice f

/-! The two sequence spaces (R245, R246, R248). -/

/-- A RELMARK is performed once LOWF has reached its MARK (R248). -/
def Flit.due (f : Flit) (q : Peer) : Bool := f.typ != 0x08 || seqPast f.mark q.lowf

/-- A PACK to a peer is due; its place is that of the first change it covers (R244, R246). -/
def Peer.owesPack (q : Peer) (order : Nat) : Peer := if q.packDue then q else { q with packDue := true, packAge := order }

/-- Performing the ORDERED flits of a source that are due, in ascending SEQ (R245). -/
def State.drainOrdered (s : State) (src : BitVec 16) : Nat → State
  | 0 => s
  | n + 1 =>
    let q := s.peer src
    match q.window.find? fun f => f.seq == q.nexto with
    | none => s
    | some f =>
      if Flit.due f q then
        let s := s.performFlit f
        let q := s.peer src
        (s.setPeer (Peer.owesPack { q with nexto := q.nexto + 1, window := q.window.filter fun g => g.seq != f.seq } s.fab.order)).drainOrdered src n
      else s

/-- An ORDERED flit arrives: it is held in the reorder window, or it is a duplicate; the reply to an ATOMIC that was performed is sent
again while it is cached (R245, R250). -/
def State.arriveOrdered (s : State) (f : Flit) : State :=
  let q := s.peer f.src
  if (f.seq - q.nexto).toNat < 4096 then
    let s := if q.window.any fun g => g.seq == f.seq then s else s.setPeer { q with window := q.window ++ [f] }
    s.drainOrdered f.src 4097
  else if f.typ = 0x04 then
    match q.replies.find? fun r => r.1 == f.seq with
    | some (_, g) => s.enqueue g 1
    | none => s
  else s

/-- LOWF moves past the FREE flits that have been performed (R245). -/
def Peer.advance (q : Peer) (order : Nat) : Nat → Peer
  | 0 => q
  | n + 1 =>
    if q.freeDone.contains q.lowf then
      (Peer.owesPack { q with lowf := q.lowf + 1, freeDone := q.freeDone.filter fun x => x != q.lowf } order).advance order n
    else q

/-- A FREE flit arrives: it is performed, unless its SEQ has been (R245); ORDERED flits that waited for LOWF follow (R248). -/
def State.arriveFree (s : State) (f : Flit) : State :=
  let q := s.peer f.src
  if q.freeDone.contains f.seq || !seqPast q.lowf f.seq then s
  else
    let s := s.performFlit f
    let q := s.peer f.src
    (s.setPeer (Peer.advance { q with freeDone := f.seq :: q.freeDone } s.fab.order (q.freeDone.length + 1))).drainOrdered f.src 4097

/-! CONTROL flits (R246, R250, R251). -/

/-- The larger of two values in a sequence space (R246). -/
def seqMax (a b : BitVec 32) : BitVec 32 := if seqPast a b then b else a

/-- Is a request done once its flits have been performed: a write-back, a RELMARK, a completion write? -/
def Request.awaitsPack (r : Request) : Bool :=
  r.mask ≠ 0 || (!r.fill && match r.who with
    | .slice .. | .queue _ | .hub => false
    | .engine .. | .engineLines | .launch _ => true)

/-- Do performed acknowledgements cover the flits of a request? -/
def Request.covered (r : Request) (q : Peer) : Bool :=
  r.flits.all fun (c, f, n) => seqPast (f + BitVec.ofNat 32 n) (if c = 0 then q.ordAcked else q.freeAcked)

/-- PACK: the larger values are kept, entries of the reply cache are freed, and what waited for performance ends (R246, R248, R250). -/
def State.doPack (s : State) (f : Flit) : State :=
  let q := s.peer f.src
  let bs := Flit.body f
  let q := { q with ordAcked := seqMax q.ordAcked (BitVec.ofNat 32 (leNat (bs.take 4)))
                    freeAcked := seqMax q.freeAcked (BitVec.ofNat 32 (leNat ((bs.drop 4).take 4))) }
  let q := { q with replies := q.replies.filter fun r => !seqPast (r.2.seq + 1) q.ordAcked }
  let s := s.setPeer q
  (s.reqs.filter fun r => r.remote && r.dst == f.src && r.awaitsPack && r.covered q).foldl (fun u r => u.complete r true []) s

/-- NOTICE: the operation of the flit that it names fails (R251). -/
def State.doNotice (s : State) (f : Flit) : State :=
  let bs := Flit.body f
  s.failFlit (BitVec.ofNat 16 (leNat ((bs.drop 6).take 2))) (BitVec.ofNat 2 (leNat ((bs.drop 4).take 1))) (BitVec.ofNat 32 (leNat (bs.take 4)))

/-! Receipt (R234, R239, R242, R256). -/

/-- Does a port receive data? It does whenever its LOCK is 1, also in a turn that is idle for want of its partner's turn-start flit: R232 says of
such a turn only that it counts toward the loss of LOCK (log 38). -/
def State.receives (s : State) (p : Nat) : Bool := s.sends p && (s.port p).lock

/-- The acknowledgement bit of a slot of the partner's window, for duplicates too (R238, R245). -/
def State.acknowledge (s : State) (p slot : Nat) : State :=
  let x := s.port p
  s.setPort p { x with acks := x.acks ++ [slot] }

/-- A flit that has arrived is taken into custody for another package when it is relayed, and handled by its class when it is for this
one. -/
def State.takeIn (s : State) (f : Flit) : State :=
  if f.dst.toNat ≠ s.fab.self.toNat then
    { s with fab := { s.fab with custody := s.fab.custody ++ [⟨f, 0, none, s.fab.order⟩], order := s.fab.order + 1 } }
  else
    match Flit.cls f with
    | 0 => s.arriveOrdered f
    | 1 => s.arriveFree f
    | _ => if f.typ = 0x09 then s.doPack f else s.doNotice f

/-- A data flit of a type arrives in a slot of a port: dropped unacknowledged when it does not fit (R234, R256), or when it is for another
package and not relayed (log 48); otherwise acknowledged and taken in (R238, R239). -/
def State.receive (s : State) (p : Nat) (typ : BitVec 8) (a : Arrival) : State :=
  let f := a.flit
  if !s.receives p || !(Flit.fits f) || f.typ ≠ typ || (f.dst.toNat ≠ s.fab.self.toNat && !Flit.relayed f) then s
  else (s.acknowledge p a.slot.val).takeIn f

/-- WRITE received on a port (R235). -/
def execWrite (p : Fin 128) (f : Arrival) (s : State) : Out := .next (s.receive p.val 0x01 f)
/-- RDREQ received on a port (R235). -/
def execRdreq (p : Fin 128) (f : Arrival) (s : State) : Out := .next (s.receive p.val 0x02 f)
/-- RDREPLY received on a port (R235). -/
def execRdreply (p : Fin 128) (f : Arrival) (s : State) : Out := .next (s.receive p.val 0x03 f)
/-- ATOMIC received on a port (R235, R250). -/
def execAtomic (p : Fin 128) (f : Arrival) (s : State) : Out := .next (s.receive p.val 0x04 f)
/-- ATREPLY received on a port (R235, R250). -/
def execAtreply (p : Fin 128) (f : Arrival) (s : State) : Out := .next (s.receive p.val 0x05 f)
/-- VECREQ received on a port (R235, R249). -/
def execVecreq (p : Fin 128) (f : Arrival) (s : State) : Out := .next (s.receive p.val 0x06 f)
/-- VECREPLY received on a port (R235, R249). -/
def execVecreply (p : Fin 128) (f : Arrival) (s : State) : Out := .next (s.receive p.val 0x07 f)
/-- RELMARK received on a port (R235, R248). -/
def execRelmark (p : Fin 128) (f : Arrival) (s : State) : Out := .next (s.receive p.val 0x08 f)
/-- PACK received on a port (R235, R246). -/
def execPack (p : Fin 128) (f : Arrival) (s : State) : Out := .next (s.receive p.val 0x09 f)
/-- NOTICE received on a port (R235, R251). -/
def execNotice (p : Fin 128) (f : Arrival) (s : State) : Out := .next (s.receive p.val 0x0A f)

/-- DELIVERY_TIMEOUT: FABCFG.TIMEOUT has passed for a flit, and its operation fails (R251). -/
def execDeliveryTimeout (dst : BitVec 16) (cls : BitVec 2) (seq : BitVec 32) (s : State) : Out := .next (s.failFlit dst cls seq)

/-- RELAY_TIMEOUT: a flit in custody for TIMEOUT is discarded and a NOTICE returns to its source (R251). -/
def execRelayTimeout (i : Nat) (s : State) : Out :=
  match s.fab.custody[i]? with
  | none => .next s
  | some g => .next (({ s with fab := { s.fab with custody := s.fab.custody.eraseIdx i } }).sendNotice g.flit)

end Sys2Proof.Machine
end

