-- ==== Sys2Proof/Machine/Dispatch.lean ====
section
/-! DEFINITION. One arm per instruction and event of the opcode table, each one direct call of its meaning. -/

namespace Sys2Proof.Machine

/-- The meaning of an instruction or event in a state. -/
def exec (i : Instr) (s : State) : Host.Outcome State Fault Refusal :=
  match i with
  | .add a => Sys2Proof.Machine.execAdd a s
  | .sub a => Sys2Proof.Machine.execSub a s
  | .mul a => Sys2Proof.Machine.execMul a s
  | .mulh a => Sys2Proof.Machine.execMulh a s
  | .mulhn a => Sys2Proof.Machine.execMulhn a s
  | .div a => Sys2Proof.Machine.execDiv a s
  | .divn a => Sys2Proof.Machine.execDivn a s
  | .rem a => Sys2Proof.Machine.execRem a s
  | .remn a => Sys2Proof.Machine.execRemn a s
  | .and a => Sys2Proof.Machine.execAnd a s
  | .or a => Sys2Proof.Machine.execOr a s
  | .xor a => Sys2Proof.Machine.execXor a s
  | .sll a => Sys2Proof.Machine.execSll a s
  | .srl a => Sys2Proof.Machine.execSrl a s
  | .sra a => Sys2Proof.Machine.execSra a s
  | .slt a => Sys2Proof.Machine.execSlt a s
  | .sltn a => Sys2Proof.Machine.execSltn a s
  | .min a => Sys2Proof.Machine.execMin a s
  | .max a => Sys2Proof.Machine.execMax a s
  | .minn a => Sys2Proof.Machine.execMinn a s
  | .maxn a => Sys2Proof.Machine.execMaxn a s
  | .clz a => Sys2Proof.Machine.execClz a s
  | .ctz a => Sys2Proof.Machine.execCtz a s
  | .popc a => Sys2Proof.Machine.execPopc a s
  | .bext a => Sys2Proof.Machine.execBext a s
  | .bins a => Sys2Proof.Machine.execBins a s
  | .addi a => Sys2Proof.Machine.execAddi a s
  | .andi a => Sys2Proof.Machine.execAndi a s
  | .ori a => Sys2Proof.Machine.execOri a s
  | .xori a => Sys2Proof.Machine.execXori a s
  | .slti a => Sys2Proof.Machine.execSlti a s
  | .sltin a => Sys2Proof.Machine.execSltin a s
  | .jalr a => Sys2Proof.Machine.execJalr a s
  | .slli a => Sys2Proof.Machine.execSlli a s
  | .srli a => Sys2Proof.Machine.execSrli a s
  | .srai a => Sys2Proof.Machine.execSrai a s
  | .lui a => Sys2Proof.Machine.execLui a s
  | .auipc a => Sys2Proof.Machine.execAuipc a s
  | .jal a => Sys2Proof.Machine.execJal a s
  | .beq a => Sys2Proof.Machine.execBeq a s
  | .bne a => Sys2Proof.Machine.execBne a s
  | .blt a => Sys2Proof.Machine.execBlt a s
  | .bge a => Sys2Proof.Machine.execBge a s
  | .bltn a => Sys2Proof.Machine.execBltn a s
  | .bgen a => Sys2Proof.Machine.execBgen a s
  | .bany a => Sys2Proof.Machine.execBany a s
  | .ball a => Sys2Proof.Machine.execBall a s
  | .bnone a => Sys2Proof.Machine.execBnone a s
  | .bqz off => Sys2Proof.Machine.execBqz off s
  | .bqnz off => Sys2Proof.Machine.execBqnz off s
  | .ld a => Sys2Proof.Machine.execLd a s
  | .st a => Sys2Proof.Machine.execSt a s
  | .ldAcq a => Sys2Proof.Machine.execLdAcq a s
  | .stRel a => Sys2Proof.Machine.execStRel a s
  | .amoadd a => Sys2Proof.Machine.execAmoadd a s
  | .amoand a => Sys2Proof.Machine.execAmoand a s
  | .amoor a => Sys2Proof.Machine.execAmoor a s
  | .amoxor a => Sys2Proof.Machine.execAmoxor a s
  | .amomin a => Sys2Proof.Machine.execAmomin a s
  | .amomax a => Sys2Proof.Machine.execAmomax a s
  | .amoswp a => Sys2Proof.Machine.execAmoswp a s
  | .cas a => Sys2Proof.Machine.execCas a s
  | .amofadd a => Sys2Proof.Machine.execAmofadd a s
  | .amofaddDet a => Sys2Proof.Machine.execAmofaddDet a s
  | .fadd a => Sys2Proof.Machine.execFadd a s
  | .fsub a => Sys2Proof.Machine.execFsub a s
  | .fmul a => Sys2Proof.Machine.execFmul a s
  | .fdiv a => Sys2Proof.Machine.execFdiv a s
  | .fsqrt a => Sys2Proof.Machine.execFsqrt a s
  | .ffma a => Sys2Proof.Machine.execFfma a s
  | .fmin a => Sys2Proof.Machine.execFmin a s
  | .fmax a => Sys2Proof.Machine.execFmax a s
  | .fcmpEq a => Sys2Proof.Machine.execFcmpEq a s
  | .fcmpLt a => Sys2Proof.Machine.execFcmpLt a s
  | .fcmpLe a => Sys2Proof.Machine.execFcmpLe a s
  | .fclass a => Sys2Proof.Machine.execFclass a s
  | .fcvt code a => Sys2Proof.Machine.execFcvt code a s
  | .mfs rd reg => Sys2Proof.Machine.execMfs rd reg s
  | .mts reg rs1 => Sys2Proof.Machine.execMts reg rs1 s
  | .trap imm => Sys2Proof.Machine.execTrap imm s
  | .nop => Sys2Proof.Machine.execNop s
  | .halt => Sys2Proof.Machine.execHalt s
  | .tack => Sys2Proof.Machine.execTack s
  | .tret => Sys2Proof.Machine.execTret s
  | .convoy => Sys2Proof.Machine.execConvoy s
  | .svfence => Sys2Proof.Machine.execSvfence s
  | .vlsync => Sys2Proof.Machine.execVlsync s
  | .fence scope pred succ => Sys2Proof.Machine.execFence scope pred succ s
  | .ltrig scope => Sys2Proof.Machine.execLtrig scope s
  | .vfork a => Sys2Proof.Machine.execVfork a s
  | .join xs => Sys2Proof.Machine.execJoin xs s
  | .seal a => Sys2Proof.Machine.execSeal a s
  | .vsave xs => Sys2Proof.Machine.execVsave xs s
  | .vrestore xs => Sys2Proof.Machine.execVrestore xs s
  | .apush xs => Sys2Proof.Machine.execApush xs s
  | .apop rd => Sys2Proof.Machine.execApop rd s
  | .cpush xs => Sys2Proof.Machine.execCpush xs s
  | .cpop rd => Sys2Proof.Machine.execCpop rd s
  | .vpush vs => Sys2Proof.Machine.execVpush vs s
  | .vpop vd => Sys2Proof.Machine.execVpop vd s
  | .slipReg xs => Sys2Proof.Machine.execSlipReg xs s
  | .slipImm imm => Sys2Proof.Machine.execSlipImm imm s
  | .vsetlQ rd => Sys2Proof.Machine.execVsetlQ rd s
  | .vsetl w rd xs => Sys2Proof.Machine.execVsetl w rd xs s
  | .mtsetGlobal => Sys2Proof.Machine.execMtsetGlobal s
  | .mtsetSpad => Sys2Proof.Machine.execMtsetSpad s
  | .mtsetShared => Sys2Proof.Machine.execMtsetShared s
  | .mtsetTcm => Sys2Proof.Machine.execMtsetTcm s
  | .barinit a => Sys2Proof.Machine.execBarinit a s
  | .barArrive b => Sys2Proof.Machine.execBarArrive b s
  | .barSync b => Sys2Proof.Machine.execBarSync b s
  | .barinitSq a => Sys2Proof.Machine.execBarinitSq a s
  | .barArriveSq b => Sys2Proof.Machine.execBarArriveSq b s
  | .barSyncSq b => Sys2Proof.Machine.execBarSyncSq b s
  | .vle rs1 => Sys2Proof.Machine.execVle rs1 s
  | .vls rs1 rs2 => Sys2Proof.Machine.execVls rs1 rs2 s
  | .vlx rs1 => Sys2Proof.Machine.execVlx rs1 s
  | .vlff rs1 => Sys2Proof.Machine.execVlff rs1 s
  | .vlb rs1 rs2 => Sys2Proof.Machine.execVlb rs1 rs2 s
  | .vse rs1 => Sys2Proof.Machine.execVse rs1 s
  | .vss rs1 rs2 => Sys2Proof.Machine.execVss rs1 rs2 s
  | .vsx rs1 => Sys2Proof.Machine.execVsx rs1 s
  | .vsb rs1 rs2 => Sys2Proof.Machine.execVsb rs1 rs2 s
  | .vamo op rs1 => Sys2Proof.Machine.execVamo op rs1 s
  | .vadd a => Sys2Proof.Machine.execVadd a s
  | .vsub a => Sys2Proof.Machine.execVsub a s
  | .vmul a => Sys2Proof.Machine.execVmul a s
  | .vmulh a => Sys2Proof.Machine.execVmulh a s
  | .vdiv a => Sys2Proof.Machine.execVdiv a s
  | .vrem a => Sys2Proof.Machine.execVrem a s
  | .vmin a => Sys2Proof.Machine.execVmin a s
  | .vmax a => Sys2Proof.Machine.execVmax a s
  | .vand a => Sys2Proof.Machine.execVand a s
  | .vor a => Sys2Proof.Machine.execVor a s
  | .vxor a => Sys2Proof.Machine.execVxor a s
  | .vsll a => Sys2Proof.Machine.execVsll a s
  | .vsrl a => Sys2Proof.Machine.execVsrl a s
  | .vsra a => Sys2Proof.Machine.execVsra a s
  | .vfadd a => Sys2Proof.Machine.execVfadd a s
  | .vfsub a => Sys2Proof.Machine.execVfsub a s
  | .vfmul a => Sys2Proof.Machine.execVfmul a s
  | .vfdiv a => Sys2Proof.Machine.execVfdiv a s
  | .vfma a => Sys2Proof.Machine.execVfma a s
  | .vfms a => Sys2Proof.Machine.execVfms a s
  | .vfnma a => Sys2Proof.Machine.execVfnma a s
  | .vfsqrt a => Sys2Proof.Machine.execVfsqrt a s
  | .vfmin a => Sys2Proof.Machine.execVfmin a s
  | .vfmax a => Sys2Proof.Machine.execVfmax a s
  | .vfcvt a => Sys2Proof.Machine.execVfcvt a s
  | .vwma a => Sys2Proof.Machine.execVwma a s
  | .vwait a => Sys2Proof.Machine.execVwait a s
  | .pmov fd fs1 => Sys2Proof.Machine.execPmov fd fs1 s
  | .pzero fd => Sys2Proof.Machine.execPzero fd s
  | .padd a => Sys2Proof.Machine.execPadd a s
  | .psub a => Sys2Proof.Machine.execPsub a s
  | .pmul mode a => Sys2Proof.Machine.execPmul mode a s
  | .pdiff dir fd fs1 => Sys2Proof.Machine.execPdiff dir fd fs1 s
  | .pproj fd fs1 q => Sys2Proof.Machine.execPproj fd fs1 q s
  | .ptrace fd fs1 face => Sys2Proof.Machine.execPtrace fd fs1 face s
  | .pscl a => Sys2Proof.Machine.execPscl a s
  | .paxpy a => Sys2Proof.Machine.execPaxpy a s
  | .pint a => Sys2Proof.Machine.execPint a s
  | .peval a => Sys2Proof.Machine.execPeval a s
  | .pjump a => Sys2Proof.Machine.execPjump a s
  | .pavg a => Sys2Proof.Machine.execPavg a s
  | .ppop fd xs => Sys2Proof.Machine.execPpop fd xs s
  | .ppush fs1 xs => Sys2Proof.Machine.execPpush fs1 xs s
  | .pset fd xs => Sys2Proof.Machine.execPset fd xs s
  | .psetDg fd xs => Sys2Proof.Machine.execPsetDg fd xs s
  | .pget rd fs1 => Sys2Proof.Machine.execPget rd fs1 s
  | .pgetDg rd fs1 => Sys2Proof.Machine.execPgetDg rd fs1 s
  | .vcmp a => Sys2Proof.Machine.execVcmp a s
  | .vfcmp a => Sys2Proof.Machine.execVfcmp a s
  | .vmerge a => Sys2Proof.Machine.execVmerge a s
  | .vmv a => Sys2Proof.Machine.execVmv a s
  | .vslideup a => Sys2Proof.Machine.execVslideup a s
  | .vslidedn a => Sys2Proof.Machine.execVslidedn a s
  | .vperm a => Sys2Proof.Machine.execVperm a s
  | .vcompress a => Sys2Proof.Machine.execVcompress a s
  | .vexpand a => Sys2Proof.Machine.execVexpand a s
  | .viota a => Sys2Proof.Machine.execViota a s
  | .vpruneN4M8 a => Sys2Proof.Machine.execVpruneN4M8 a s
  | .vredsum a => Sys2Proof.Machine.execVredsum a s
  | .vredmin a => Sys2Proof.Machine.execVredmin a s
  | .vredmax a => Sys2Proof.Machine.execVredmax a s
  | .vscan a => Sys2Proof.Machine.execVscan a s
  | .vfredsum a => Sys2Proof.Machine.execVfredsum a s
  | .vfredmin a => Sys2Proof.Machine.execVfredmin a s
  | .vfredmax a => Sys2Proof.Machine.execVfredmax a s
  | .vfscan a => Sys2Proof.Machine.execVfscan a s
  | .vmand a => Sys2Proof.Machine.execVmand a s
  | .vmor a => Sys2Proof.Machine.execVmor a s
  | .vmxor a => Sys2Proof.Machine.execVmxor a s
  | .vmandn a => Sys2Proof.Machine.execVmandn a s
  | .vmnot md ms => Sys2Proof.Machine.execVmnot md ms s
  | .vpopc a => Sys2Proof.Machine.execVpopc a s
  | .vfirst a => Sys2Proof.Machine.execVfirst a s
  | .vbrkb a => Sys2Proof.Machine.execVbrkb a s
  | .vbrka a => Sys2Proof.Machine.execVbrka a s
  | .vbmand a => Sys2Proof.Machine.execVbmand a s
  | .vbprefix a => Sys2Proof.Machine.execVbprefix a s
  | .visect a => Sys2Proof.Machine.execVisect a s
  | .vhacc a => Sys2Proof.Machine.execVhacc a s
  | .vpruneN1M4 a => Sys2Proof.Machine.execVpruneN1M4 a s
  | .vpruneN2M4 a => Sys2Proof.Machine.execVpruneN2M4 a s
  | .vpruneN1M8 a => Sys2Proof.Machine.execVpruneN1M8 a s
  | .vpruneN2M8 a => Sys2Proof.Machine.execVpruneN2M8 a s
  | .hAddi rd imm => Sys2Proof.Machine.execHAddi rd imm s
  | .hSeti rd imm => Sys2Proof.Machine.execHSeti rd imm s
  | .hCopy rd xs => Sys2Proof.Machine.execHCopy rd xs s
  | .hAdd rd xs => Sys2Proof.Machine.execHAdd rd xs s
  | .hBz rs1 off => Sys2Proof.Machine.execHBz rs1 off s
  | .hBnz rs1 off => Sys2Proof.Machine.execHBnz rs1 off s
  | .mldb a => Sys2Proof.Machine.execMldb a s
  | .mldbP a => Sys2Proof.Machine.execMldbP a s
  | .mma a => Sys2Proof.Machine.execMma a s
  | .mzero acc fmt => Sys2Proof.Machine.execMzero acc fmt s
  | .mst a => Sys2Proof.Machine.execMst a s
  | .mldacc a => Sys2Proof.Machine.execMldacc a s
  | .ecopy rd xs1 => Sys2Proof.Machine.execEcopy rd xs1 s
  | .equant rd xs1 => Sys2Proof.Machine.execEquant rd xs1 s
  | .epack rd xs1 => Sys2Proof.Machine.execEpack rd xs1 s
  | .eunpack rd xs1 => Sys2Proof.Machine.execEunpack rd xs1 s
  | .eseq rd => Sys2Proof.Machine.execEseq rd s
  | .evpop rd xs1 => Sys2Proof.Machine.execEvpop rd xs1 s
  | .lqtailWrite q v => Sys2Proof.Machine.execLqtailWrite q v s
  | .lqsizeWrite q v => Sys2Proof.Machine.execLqsizeWrite q v s
  | .eqsizeWrite v => Sys2Proof.Machine.execEqsizeWrite v s
  | .eqheadWrite v => Sys2Proof.Machine.execEqheadWrite v s
  | .eqctlWrite v => Sys2Proof.Machine.execEqctlWrite v s
  | .registerWrite r v => Sys2Proof.Machine.execRegisterWrite r v s
  | .packetCheck q => Sys2Proof.Machine.execPacketCheck q s
  | .launchDispatch => Sys2Proof.Machine.execLaunchDispatch s
  | .squadPlace lid die gangs => Sys2Proof.Machine.execSquadPlace lid die gangs s
  | .launchComplete lid => Sys2Proof.Machine.execLaunchComplete lid s
  | .arbiterGrant strand matrixUnit => Sys2Proof.Machine.execArbiterGrant strand matrixUnit s
  | .arrivalMarkerFire strand => Sys2Proof.Machine.execArrivalMarkerFire strand s
  | .convoyMarkerFire strand => Sys2Proof.Machine.execConvoyMarkerFire strand s
  | .queueDeadlockTimeout strand => Sys2Proof.Machine.execQueueDeadlockTimeout strand s
  | .computeStopTimeout strand => Sys2Proof.Machine.execComputeStopTimeout strand s
  | .ldqSlotFull strand => Sys2Proof.Machine.execLdqSlotFull strand s
  | .vwaitRecheck strand => Sys2Proof.Machine.execVwaitRecheck strand s
  | .vwaitTimeout strand => Sys2Proof.Machine.execVwaitTimeout strand s
  | .detAddWaitTimeout strand => Sys2Proof.Machine.execDetAddWaitTimeout strand s
  | .trapEntry e => Sys2Proof.Machine.execTrapEntry e s
  | .preemptGo v => Sys2Proof.Machine.execPreemptGo v s
  | .preemptResume v => Sys2Proof.Machine.execPreemptResume v s
  | .launchAbort v => Sys2Proof.Machine.execLaunchAbort v s
  | .preemptErrClear v => Sys2Proof.Machine.execPreemptErrClear v s
  | .squadSave lid squad => Sys2Proof.Machine.execSquadSave lid squad s
  | .switchIn strand => Sys2Proof.Machine.execSwitchIn strand s
  | .deviceFatal cause => Sys2Proof.Machine.execDeviceFatal cause s
  | .hubWatchdogExpiry => Sys2Proof.Machine.execHubWatchdogExpiry s
  | .thermalLimit die celsius lanes rate => Sys2Proof.Machine.execThermalLimit die celsius lanes rate s
  | .powerSample milliwatt lanes rate => Sys2Proof.Machine.execPowerSample milliwatt lanes rate s
  | .grantUpdate cluster => Sys2Proof.Machine.execGrantUpdate cluster s
  | .grantOverrunThrottle strand => Sys2Proof.Machine.execGrantOverrunThrottle strand s
  | .coldStart a => Sys2Proof.Machine.execColdStart a s
  | .warmStart a => Sys2Proof.Machine.execWarmStart a s
  | .firmwareUpdate image => Sys2Proof.Machine.execFirmwareUpdate image s
  | .pldmMonitor => Sys2Proof.Machine.execPldmMonitor s
  | .attestationReport nonce => Sys2Proof.Machine.execAttestationReport nonce s
  | .hostBar2Access a => Sys2Proof.Machine.execHostBar2Access a s
  | .engineCommandEnd cluster seq memErr => Sys2Proof.Machine.execEngineCommandEnd cluster seq memErr s
  | .scrub tier pa ok => Sys2Proof.Machine.execScrub tier pa ok s
  | .dramRefresh => Sys2Proof.Machine.execDramRefresh s
  | .opticalCalibration => Sys2Proof.Machine.execOpticalCalibration s
  | .telemetry => Sys2Proof.Machine.execTelemetry s
  | .fabcfgWrite v => Sys2Proof.Machine.execFabcfgWrite v s
  | .calWrite offset bytes v => Sys2Proof.Machine.execCalWrite offset bytes v s
  | .portctlEn p en => Sys2Proof.Machine.execPortctlEn p en s
  | .portctlRearm p => Sys2Proof.Machine.execPortctlRearm p s
  | .turnStart p => Sys2Proof.Machine.execTurnStart p s
  | .turnstart p f => Sys2Proof.Machine.execTurnstart p f s
  | .lockLoss p => Sys2Proof.Machine.execLockLoss p s
  | .flitSend p => Sys2Proof.Machine.execFlitSend p s
  | .windowEnd p acked => Sys2Proof.Machine.execWindowEnd p acked s
  | .write p f => Sys2Proof.Machine.execWrite p f s
  | .rdreq p f => Sys2Proof.Machine.execRdreq p f s
  | .rdreply p f => Sys2Proof.Machine.execRdreply p f s
  | .atomic p f => Sys2Proof.Machine.execAtomic p f s
  | .atreply p f => Sys2Proof.Machine.execAtreply p f s
  | .vecreq p f => Sys2Proof.Machine.execVecreq p f s
  | .vecreply p f => Sys2Proof.Machine.execVecreply p f s
  | .relmark p f => Sys2Proof.Machine.execRelmark p f s
  | .pack p f => Sys2Proof.Machine.execPack p f s
  | .notice p f => Sys2Proof.Machine.execNotice p f s
  | .deliveryTimeout dst cls seq => Sys2Proof.Machine.execDeliveryTimeout dst cls seq s
  | .relayTimeout k => Sys2Proof.Machine.execRelayTimeout k s
  | .laserLoss p mask => Sys2Proof.Machine.execLaserLoss p mask s
  | .rxLossDetect p mask => Sys2Proof.Machine.execRxLossDetect p mask s
  | .lossReportReceive p mask => Sys2Proof.Machine.execLossReportReceive p mask s
  | .accessPerformed strand k => Sys2Proof.Machine.execAccessPerformed strand k s
  | .writeBack k ok => Sys2Proof.Machine.execWriteBack k ok s
  | .matrixInstructionEnd strand => Sys2Proof.Machine.execMatrixInstructionEnd strand s
  | .lightReturn p mask => Sys2Proof.Machine.execLightReturn p mask s
  | .coolantFlowChange flowing => Sys2Proof.Machine.execCoolantFlowChange flowing s
  | .pcieCompletion r => Sys2Proof.Machine.execPcieCompletion r s

end Sys2Proof.Machine
end

