-- ==== Sys2Proof/Machine/Load.lean ====
section
/-! DEFINITION. Loading one instruction from outside, so that the next step fetches and runs it (log 1): a resident strand
as R29 starts it, a page table that maps the first GiB of HBM onto itself, and the instruction's bytes. -/

namespace Sys2Proof.Machine

/-- Where the loaded instruction stands. -/
def loadPc : Word := 0x4000

/-- The page table of the load: level 4 at 0x800, level 3 at 0x1000, level 2 at 0x2000 with one 1 GiB leaf of all rights. -/
def loadTable : Memory := [(0x800, 0x01), (0x801, 0x10), (0x1000, 0x01), (0x1001, 0x20), (0x2000, 0x3F)]

/-- The packet of the load: one strand of 32 lanes, a gang with all panels, tiles and the whole scratchpad. -/
def loadPacket : Packet :=
  { entrya := loadPc, entryc := loadPc, n := 0, ctl := 0x0000802121000018 ||| (16 <<< 28) ||| (16 <<< 33), lid := 1, pred := 0,
    shbase := 0, shsize := 512, squads := 1, doneaddr := 0, doneval := 0, args := List.replicate 8 0 }

/-- The strand of the load. -/
def loadStrand : Strand :=
  { Strand.vacant with
    id := ⟨1, 0, 0, 0, 0, 0, 0, 32, none, [], false, []⟩
    acc := Slice.start loadPc
    cmp := Slice.start loadPc
    trap := TrapRegs.start 0 0x800 }

/-- The gang of the load. -/
def loadGang : Gang := { Gang.none with lid := 1, spadPages := 512, npanels := 16, naccs := 16 }

/-- The squad of the load. -/
def loadSquad : Squad := { Squad.none with lid := 1 }

/-- Memory with the table and the instruction's bytes. -/
def loadMem (bs : List Byte) : Memory := (loadTable : Memory).setAll (atKeys loadPc.toNat bs)

/-- The launch of the load, whose code is that memory. -/
def loadLaunch (bs : List Byte) : Launch := { Launch.none with pkt := loadPacket, ptbr := 0x800, nextSquad := 1, code := loadMem bs }

/-- The machine with those bytes as its next instruction, on a slice that may execute it. -/
def loadBytes (s : State) (bs : List Byte) : State :=
  let compute := match decodeBytes bs with
    | .ok (i, _) => computeOnly i
    | .error _ => false
  { s with
    strand := loadStrand
    others := []
    gangs := [loadGang]
    squads := [loadSquad]
    launches := [loadLaunch bs]
    mem := loadMem bs
    bad := []
    tlb := []
    power := { s.power with on := true }
    agenda := []
    side := if compute then .compute else .access }

end Sys2Proof.Machine
end

