-- ==== Sys2Proof/Machine/Settle.lean ====
section
/-! DEFINITION. What follows the meaning of an instruction or event in its step: the vector instruction queue of the strand in focus
runs as far as it can, in order (R85, R98, R101, R211, R261). -/

namespace Sys2Proof.Machine

/-- A vector instruction of an entry, by its run function (R98). -/
def runVector (e : ViqEntry) (s : State) : Option VOut :=
  let fm := fun run => some (withFmt e run s)
  match e.ins with
  | .vadd a => fm (runVadd a) | .vsub a => fm (runVsub a) | .vmul a => fm (runVmul a) | .vmulh a => fm (runVmulh a)
  | .vdiv a => fm (runVdiv a) | .vrem a => fm (runVrem a) | .vmin a => fm (runVmin a) | .vmax a => fm (runVmax a)
  | .vand a => fm (runVand a) | .vor a => fm (runVor a) | .vxor a => fm (runVxor a)
  | .vsll a => fm (runVsll a) | .vsrl a => fm (runVsrl a) | .vsra a => fm (runVsra a)
  | .vfadd a => fm (runVfadd a) | .vfsub a => fm (runVfsub a) | .vfmul a => fm (runVfmul a) | .vfdiv a => fm (runVfdiv a)
  | .vfma a => fm (runVfma a) | .vfms a => fm (runVfms a) | .vfnma a => fm (runVfnma a) | .vfsqrt a => fm (runVfsqrt a)
  | .vfmin a => fm (runVfmin a) | .vfmax a => fm (runVfmax a) | .vfcvt a => fm (runVfcvt a) | .vwma a => fm (runVwma a)
  | .vcmp a => fm (runVcmp a) | .vfcmp a => fm (runVfcmp a) | .vmerge a => fm (runVmerge a) | .vmv a => fm (runVmv a)
  | .vslideup a => fm (runVslideup a) | .vslidedn a => fm (runVslidedn a) | .vperm a => fm (runVperm a)
  | .vcompress a => fm (runVcompress a) | .vexpand a => fm (runVexpand a) | .viota a => fm (runViota a)
  | .vredsum a => fm (runVredsum a) | .vredmin a => fm (runVredmin a) | .vredmax a => fm (runVredmax a) | .vscan a => fm (runVscan a)
  | .vfredsum a => fm (runVfredsum a) | .vfredmin a => fm (runVfredmin a) | .vfredmax a => fm (runVfredmax a)
  | .vfscan a => fm (runVfscan a)
  | .vbmand a => fm (runVbmand a) | .vbprefix a => fm (runVbprefix a) | .visect a => fm (runVisect a)
  | .vpruneN1M4 a => fm (runVpruneN1M4 a) | .vpruneN2M4 a => fm (runVpruneN2M4 a) | .vpruneN1M8 a => fm (runVpruneN1M8 a)
  | .vpruneN2M8 a => fm (runVpruneN2M8 a) | .vpruneN4M8 a => fm (runVpruneN4M8 a)
  | .vmand a => some (runVmand a s) | .vmor a => some (runVmor a s) | .vmxor a => some (runVmxor a s)
  | .vmandn a => some (runVmandn a s) | .vmnot md ms => some (runVmnot md ms s)
  | .vpopc a => some (runVpopc a s) | .vfirst a => some (runVfirst a s) | .vbrkb a => some (runVbrkb a s) | .vbrka a => some (runVbrka a s)
  | .pmov d x => some (runPmov d x s) | .pzero d => some (runPzero d s) | .padd a => some (runPadd a s) | .psub a => some (runPsub a s)
  | .pmul m a => some (runPmul m a s) | .pdiff k d x => some (runPdiff k d x s) | .pproj d x q => some (runPproj d x q s)
  | .ptrace d x k => some (runPtrace d x k s) | .pscl a => some (runPscl a e.scalar s) | .paxpy a => some (runPaxpy a e.scalar s)
  | .pint a => some (runPint a e.scalar s) | .peval a => some (runPeval a e.scalar s) | .pjump a => some (runPjump a e.scalar s)
  | .pavg a => some (runPavg a e.scalar s) | .pset d _ => some (runPset d e.scalar s) | .psetDg d _ => some (runPsetDg d e.scalar s)
  | .pget r x => some (runPget r x s) | .pgetDg r x => some (runPgetDg r x s)
  | _ => none

/-- Is the oldest slot of LDQ FULL? -/
def Queues.ldqReady (q : Queues) : Bool := match q.ldq with | e :: _ => e.full | [] => false

/-- The arrival of a barrier marker that fires, once every access of the slice before it, and what its pops order before those, is performed
(R38, R61, R211). -/
def State.fireArrival (s : State) (squad : Bool) (b : Nat) (sync : Bool) (e : ViqEntry) : State :=
  if sync then s.arriveAndWait squad b e.stamp
  else
    let s := s.drain fun a => (a.side == Side.compute && a.num < e.mark) || (a.side == Side.access && a.num < s.strand.cmp.popMark)
    s.arrive s.strand.id squad b e.stamp

/-- The head of the queue, on the compute slice. A VWAIT that waits for its next check is left to VWAIT_RECHECK and VWAIT_TIMEOUT (R43), and a
FENCE to State.fenceStep. A marker waits for the older entries of the matrix queue alone (R172). -/
def headStep (e : ViqEntry) (s : State) : HeadStep :=
  let idle := s.strand.q.mq.all fun m => decide (0 < m.behind)
  let fire := fun squad b sync => headWhen (!e.waiting && idle) s fun s => .done (s.fireArrival squad b sync e)
  match e.ins with
  | .barArrive b => fire false b.toNat false
  | .barSync b => fire false b.toNat true
  | .barArriveSq b => fire true b.toNat false
  | .barSyncSq b => fire true b.toNat true
  | .convoy => headWhen (!e.waiting && idle) s fun s => .done (s.drain fun st => st.side == Side.compute && st.path == Path.vector)
  | .vpop vd => headWhen s.strand.q.ldqReady s (runVpop vd)
  | .ppop fd _ => headWhen s.strand.q.ldqReady s (runPpop fd e.scalar)
  | .vpush vs => headWhen (s.strand.q.sdq.length < 8) s (runVpush vs e.mark)
  | .ppush fs _ => headWhen (s.strand.q.sdq.length < 8) s (runPpush fs e.scalar e.mark)
  | .mma a => s.mmaHead a e.fmtWord
  | .fence .. => .blocked s
  | .mzero n fmt => headWhen (s.strand.q.mq.length < 64) s (runMzero n fmt e.fmtWord)
  | .mldb _ | .mldbP _ | .mldacc _ | .mst _ => s.matHead e
  | .vwait a => if s.strand.q.headStall = some .vwait then .blocked s else s.vwait a e.scalar false
  | .vhacc a =>
    match fmtParse e.fmtWord with
    | some f => s.hacc a f e.scalar
    | none => .out (.done s)
  | _ =>
    match runVector e s with
    | some o => .out o
    | none => .out (.done s)

/-- The queue of the strand in focus, in order, on the compute slice; an entry that reads storage with an uncorrectable error traps (R272). -/
def State.viqRun (s : State) : Nat → State
  | 0 => s
  | n + 1 =>
    match s.strand.q.viq with
    | [] => s
    | e :: rest =>
      match if s.entryLost e then .out (.trap s ⟨0x8B, 0⟩) else headStep e { s with stamp := e.stamp } with
      | .blocked t => { t with stamp := s.stamp }
      | .out (.done t) =>
        let t := ({ t with stamp := s.stamp }.mapQ fun q => { q with viq := rest }).mqMoved
        (if isMarker e.ins then t else t.ranVector).viqRun n
      | .out (.trap t c) => s.entryTrap e { t with stamp := s.stamp } c

/-- The oldest FENCE of the vector instruction queue that no memory instruction stands before, by its place (R357). -/
def Queues.nextFence (q : Queues) : Option (Nat × ViqEntry) :=
  if q.matrixSync then none
  else (q.viq.zipIdx.find? fun (e, k) => isFence e.ins && !(q.viq.take k).any fun o => isQueuedMemory o.ins).map fun (e, k) => (k, e)

/-- An entry leaves the vector instruction queue from place `k`: the matrix queue counts one fewer in front. -/
def Queues.dropAt (q : Queues) (k : Nat) : Queues :=
  { q with
    viq := q.viq.eraseIdx k
    mq := q.mq.map fun m => { m with behind := if k < m.behind then m.behind - 1 else m.behind, wait := if k < m.wait then m.wait - 1 else m.wait } }

/-- A FENCE that waits in the vector instruction queue goes on: none when it still waits. A failure traps at it when nothing younger has executed;
otherwise the compute slice stops where it stands, and the FENCE executes again (R357; log 77). -/
def State.fenceStep (s : State) : State × Bool :=
  match s.strand.q.nextFence with
  | none => (s, false)
  | some (k, e) =>
    match e.ins with
    | .fence scope pred succ =>
      match s.fenceRun scope pred succ with
      | .blocked t => (t, false)
      | .out (.done t) => (t.mapQ fun q => q.dropAt k, true)
      | .out (.trap t c) =>
        if s.strand.cmp.waitReq.isSome then (s, false)
        else
          match s.strand.trap.accStop with
          | some a => (s.enterTrap a false, false)
          | none => ((if e.passed then t else (t.mapQ fun q => q.dropAt k).goto e.addr).raise c, false)
    | _ => (s, false)

/-- The vector instruction queue and the FENCEs in it run as far as they can. -/
def State.queueRun (s : State) : Nat → State
  | 0 => s
  | n + 1 =>
    let t := s.viqRun s.strand.q.viq.length
    if t.viqFrozen then t
    else
      let (u, more) := t.fenceStep
      if more then u.queueRun n else u

/-- Copies of a die beyond what its L2 holds leave, the oldest first, clean ones before dirty ones, which are written back (R4, R214; log 40).
What is on its way to its home stays, and what cannot be reached. -/
def State.fitL2 (s : State) (die : Nat) : State :=
  let here := (s.l2.filter fun l => l.die == die).reverse
  let clean := here.filter fun l => l.dirty == 0 && l.flying == 0
  let dirty := here.filter fun l => l.dirty != 0 && !s.backInFlight die l.line && !s.unreachable l
  ((clean ++ dirty).take (here.length - Config.l2Lines)).foldl (fun (u : State) l => u.flushLine die l.line 1) s

/-- What follows a step's instruction or event: the queues of the strand in focus run as far as they can, matrix instructions pass what waits
in them, and a synchronous one at the head of the matrix queue completes; every die's copies fit its L2. -/
def State.settle (s : State) : State :=
  let s := if s.l2.length ≤ Config.l2Lines then s else (List.range Config.dies).foldl State.fitL2 s
  if s.viqFrozen || (s.strand.q.viq.isEmpty && s.strand.q.mq.isEmpty) then s
  else
    let t := ({ s with side := .compute }).queueRun (s.strand.q.viq.length + 1)
    let t := if t.viqFrozen then t else (t.matPass t.strand.q.viq.length).matSettle
    { t with side := s.side }

end Sys2Proof.Machine
end

