-- ==== Sys2Proof/Machine/Step.lean ====
section
/-! DEFINITION. One step: the turn on the agenda, or a turn of the slice that is next; and the loading of one instruction
from outside. -/

namespace Sys2Proof.Machine

/-- Going on after an outcome. -/
def andThen (o : Host.Outcome State Fault Refusal) (f : State → State) : Host.Outcome State Fault Refusal :=
  match o with
  | .next s => .next (f s)
  | .fault r => .fault r
  | .refused r => .refused r

/-- A turn of the slice in turn: it fetches, decodes and executes one instruction; the vector instruction queue follows. -/
def sliceTurn (s : State) : Host.Outcome State Fault Refusal :=
  match s.begin with
  | .run i t =>
    if t.lostNow i then .next (t.lostTrap i).settle
    else andThen (exec i t) fun u => (u.overtake t.strand.q.viq.length i).settle
  | .over t => .next t.settle

/-- One step. A package without power waits for a cold start (R18, R274). -/
def step (s : State) : Host.Outcome State Fault Refusal :=
  if s.power.on then
    match s.agenda with
    | .event e :: rest =>
      if e.isEncoded then .next { s with agenda := rest }
      else andThen (exec e { s with agenda := rest }) State.settle
    | .slice k side :: rest =>
      if s.isResident k then sliceTurn ({ s with agenda := rest }.turnTo k side) else .next { s with agenda := rest }
    | [] => andThen (sliceTurn s) State.passTurn
  else
    match s.agenda with
    | .event (.coldStart i) :: rest => andThen (exec (.coldStart i) { s with agenda := rest }) State.settle
    | _ => .fault .powerOff

/-- `s` with the instruction whose bits are `w`, numbered as the opcode table numbers them, where the next step fetches. -/
def State.withFetchWord (s : State) (nbits w : Nat) : State := loadBytes s (leBytes 8 (w % 2 ^ nbits))

end Sys2Proof.Machine
end

