-- ==== Sys2Proof/Safety.lean ====
section
/-! DEFINITION. What a sound state is: the invariants that every step keeps; and the frames, which say what an instruction
leaves as it was, in the terms the statements use. -/

namespace Sys2Proof.Machine

/-- The memory is in its canonical form, so that equal memories are equal data (log 8). -/
def State.MemoryCanonical (s : State) : Prop := s.mem.wf = true

/-- The hub keeps at most 1,024 LIDs of rejected and aborted launches (R27) and at most 4,096 records that wait for the event
queue (R280). -/
def State.HubBounded (s : State) : Prop := s.hub.rejected.length ≤ 1024 ∧ s.hub.events.held.length ≤ 4096

/-- What every step keeps. -/
structure State.Sound (s : State) : Prop where
  memory : s.MemoryCanonical
  hub : s.HubBounded

/-- The outcome is a next state, and that state satisfies `p`. -/
def Completes (o : Out) (p : State → Prop) : Prop := ∃ t, o = .next t ∧ p t

/-- The slice of the strand in focus whose turn it is not. -/
def State.partner (s : State) : Slice := if s.side = .access then s.strand.cmp else s.strand.acc

/-- A scalar register of a bank: the compute bank, or the access slice's supervisor or user bank (R29, R259). -/
def State.bankX (s : State) (side : Side) (priv : Bool) (r : Reg) : Word :=
  if r = 0 then 0
  else if side = .compute then s.strand.regs.comp.get r
  else if priv then s.strand.regs.super.get r else s.strand.regs.user.get r

/-- Is this the bank of the slice in turn? -/
def State.bankInTurn (s : State) (side : Side) (priv : Bool) : Prop :=
  side = s.side ∧ (side = .access → priv = s.strand.trap.priv)

/-- Every byte that any die's agent reads is as it was. -/
def SameBytes (s t : State) : Prop := ∀ die key, t.byteAt die key = s.byteAt die key

/-- Every byte but those of the `n` keys from `k` is as it was, on every die. -/
def SameBytesBut (s t : State) (k n : Nat) : Prop :=
  ∀ die key, (key < k ∨ k + n ≤ key) → t.byteAt die key = s.byteAt die key

/-- Everything outside the strand in focus is as it was, but for memory. -/
structure SameRest (s t : State) : Prop where
  others : t.others = s.others
  gangs : t.gangs = s.gangs
  squads : t.squads = s.squads
  launches : t.launches = s.launches
  bad : t.bad = s.bad
  tlb : t.tlb = s.tlb
  reqs : t.reqs = s.reqs
  reqNext : t.reqNext = s.reqNext
  hostOut : t.hostOut = s.hostOut
  engines : t.engines = s.engines
  det : t.det = s.det
  power : t.power = s.power
  hub : t.hub = s.hub
  fab : t.fab = s.fab
  side : t.side = s.side
  agenda : t.agenda = s.agenda
  delays : t.delays = s.delays
  stops : t.stops = s.stops
  fresh : t.fresh = s.fresh
  stamp : t.stamp = s.stamp

/-- The scalar register `rd` of the slice in turn holds `v`, or nothing is written for x0; every other register of every bank is
as it was. -/
structure WroteX (s t : State) (rd : Reg) (v : Word) : Prop where
  own : ∀ r, t.x r = if r = rd ∧ r ≠ 0 then v else s.x r
  other : ∀ side priv r, ¬ s.bankInTurn side priv → t.bankX side priv r = s.bankX side priv r

/-- The slice in turn goes on at `pc` with `fcsr`; the rest of it, its partner, the identity, the vector state, the queues, the
special registers, the trap registers and the storage known to hold errors are as they were. -/
structure KeepsStrand (s t : State) (pc : Word) (fcsr : BitVec 13) : Prop where
  slice : t.cur = { s.cur with pc := pc, stall := none, fcsr := fcsr }
  partner : t.partner = s.partner
  identity : t.strand.id = s.strand.id
  vec : t.strand.vec = s.strand.vec
  queues : t.strand.q = s.strand.q
  special : t.strand.sys = s.strand.sys
  trap : t.strand.trap = s.strand.trap
  issued : t.strand.issued = s.strand.issued
  lost : t.strand.lost = s.strand.lost

/-- The frame of an instruction of scalar registers: `rd` takes `v`, the slice in turn goes on at `pc` with `fcsr`, and nothing
else changes: no other register, no vector state, no queue, no special register, no trap register, no byte of memory. -/
structure Wrote (s t : State) (rd : Reg) (v pc : Word) (fcsr : BitVec 13) : Prop where
  regs : WroteX s t rd v
  strand : KeepsStrand s t pc fcsr
  stores : t.strand.stores = s.strand.stores
  memory : SameBytes s t
  rest : SameRest s t

/-- An instruction of `n` bytes writes `v` to `rd` and changes nothing else. -/
def Gives (o : Out) (s : State) (rd : Reg) (v : Word) (n : Nat) : Prop :=
  Completes o fun t => Wrote s t rd v (s.pc + BitVec.ofNat 64 n) s.cur.fcsr

/-- An instruction goes on at `pc` and changes nothing else. -/
def GoesTo (o : Out) (s : State) (pc : Word) : Prop := Completes o fun t => Wrote s t 0 0 pc s.cur.fcsr

/-- An instruction of `n` bytes stores the bytes `bs` at the keys from `key` on, as the strand's die reads them; every byte outside
them reads as in `u`, whose pending stores stay; `rd` takes `v`. Adds that wait for a far line note which of its bytes are written (R223). -/
structure Stored (u t : State) (key : Nat) (bs : List Byte) (rd : Reg) (v : Word) (n : Nat) (fcsr : BitVec 13) : Prop where
  bytes : ∀ i, i < bs.length → t.byteAt u.strand.die (key + i) = bs[i]?
  memory : SameBytesBut u t key bs.length
  regs : WroteX u t rd v
  strand : KeepsStrand u t (u.pc + BitVec.ofNat 64 n) fcsr
  stores : t.strand.stores = u.strand.stores
  rest : SameRest u { t with delays := u.delays, det := { t.det with due := u.det.due } }
  due : isFar (key + bs.length) = false → t.det = u.det

/-- A scalar floating-point result (R118, R352): an enabled flag traps FPX with the flags in TADDR and no effect, otherwise the
value goes to xd and the flags into the slice's FCSR. -/
def FGives (o : Out) (s : State) (rd : Reg) (v : Word) (fl : Flags) : Prop :=
  (fcsrTraps s.cur.fcsr fl = true → o = .next (s.trap 0x15 (BitVec.setWidth 64 fl.toBits))) ∧
  (fcsrTraps s.cur.fcsr fl = false →
    Completes o fun t => Wrote s t rd v (s.pc + 4) (s.cur.fcsr ||| BitVec.setWidth 13 fl.toBits))

/-- The same for an exact value, rounded once to the precision (R102, R352). -/
def FDelivers (o : Out) (s : State) (p : Prec) (rd : Reg) (r : Val × Flags) : Prop :=
  let d := (Prec.fmt p).deliver s.frm false r.1
  FGives o s rd (BitVec.ofNat 64 d.1) (r.2.or d.2)

/-- A finite value as an integer in units of 2^-k, for `k` at least the negated exponent. -/
def Val.inUnits (v : Val) (k : Int) : Int :=
  match v with
  | .fin n m e => (if n then -(m : Int) else m) * 2 ^ (e + k).toNat
  | _ => 0

/-- Is the value finite with an exponent of at least -k? -/
def Val.finiteFrom (v : Val) (k : Int) : Prop :=
  match v with
  | .fin _ _ e => -k ≤ e
  | _ => False

end Sys2Proof.Machine
end

