-- ==== Sys2Proof/Certificates/Slice0/Obligations.lean ====
section
/-! DEFINITION. The statements for the provers: what the rules of the specification say that instructions, events and the machine
do. -/

open Sys2Proof Sys2Proof.Machine

/-- ADD, SUB, MUL, MULH, MULHN, ADDI and the 16-bit H.ADDI, H.SETI, H.COPY and H.ADD complete with their results and frame
(R326, R374, R407, R291, 19_ref_a_e.md). In every state each of them completes, writes its sum, difference or half of the
product to xd (nothing when xd is x0), goes on behind itself, and changes nothing else. -/
def Obligations.IntegerArithmeticResults : Prop :=
  ∀ (s : State),
    (∀ a : R3, let x := s.x a.rs1; let y := s.x a.rs2
      Gives (exec (.add a) s) s a.rd (BitVec.ofNat 64 (x.toNat + y.toNat)) 4 ∧
      Gives (exec (.sub a) s) s a.rd (BitVec.ofInt 64 (x.toInt - y.toInt)) 4 ∧
      Gives (exec (.mul a) s) s a.rd (BitVec.ofNat 64 (x.toNat * y.toNat)) 4 ∧
      Gives (exec (.mulh a) s) s a.rd ((BitVec.ofInt 128 (x.toInt * y.toInt)).extractLsb' 64 64) 4 ∧
      Gives (exec (.mulhn a) s) s a.rd ((BitVec.ofNat 128 (x.toNat * y.toNat)).extractLsb' 64 64) 4) ∧
    (∀ a : IArgs, Gives (exec (.addi a) s) s a.rd (BitVec.ofInt 64 ((s.x a.rs1).toInt + a.imm.toInt)) 4) ∧
    (∀ (rd : Reg) (imm : BitVec 7),
      Gives (exec (.hAddi rd imm) s) s rd (BitVec.ofInt 64 ((s.x rd).toInt + imm.toInt)) 2 ∧
      Gives (exec (.hSeti rd imm) s) s rd (BitVec.ofInt 64 imm.toInt) 2) ∧
    (∀ rd xs : Reg,
      Gives (exec (.hCopy rd xs) s) s rd (s.x xs) 2 ∧
      Gives (exec (.hAdd rd xs) s) s rd (BitVec.ofNat 64 ((s.x rd).toNat + (s.x xs).toNat)) 2)

/-- DIV, DIVN, REM and REMN complete with their results and frame (R326, R396, 19_ref_a_e.md, 21_ref_p_u.md). Each completes in
every state. With xs2 = 0 the quotient is all ones and the remainder xs1; otherwise the signed quotient is truncated towards
zero, the signed remainder has the sign of xs1, and the unsigned ones are those of the natural numbers. -/
def Obligations.DivisionResults : Prop :=
  ∀ (s : State) (a : R3), let x := s.x a.rs1; let y := s.x a.rs2
    Gives (exec (.div a) s) s a.rd (if y = 0 then BitVec.allOnes 64 else BitVec.ofInt 64 (x.toInt.tdiv y.toInt)) 4 ∧
    Gives (exec (.divn a) s) s a.rd (if y = 0 then BitVec.allOnes 64 else BitVec.ofNat 64 (x.toNat / y.toNat)) 4 ∧
    Gives (exec (.rem a) s) s a.rd (if y = 0 then x else BitVec.ofInt 64 (x.toInt.tmod y.toInt)) 4 ∧
    Gives (exec (.remn a) s) s a.rd (if y = 0 then x else BitVec.ofNat 64 (x.toNat % y.toNat)) 4

/-- Division never traps, and its borderline results are those of the table of R327 (R327). DIV and DIVN complete in every state
(they never trap); 7 / 2, −7 / 2, anything / 0 and −2^63 / −1 give the listed results. -/
def Obligations.DivisionTable : Prop :=
  ∀ (s : State) (a : R3),
    (∃ d n : Word, Gives (exec (.div a) s) s a.rd d 4 ∧ Gives (exec (.divn a) s) s a.rd n 4) ∧
    (∀ d n : Word,
      ((s.x a.rs1 = 7 ∧ s.x a.rs2 = 2 ∧ d = 3 ∧ n = 3) ∨
       (s.x a.rs1 = 0xFFFFFFFFFFFFFFF9 ∧ s.x a.rs2 = 2 ∧ d = 0xFFFFFFFFFFFFFFFD ∧ n = 0x7FFFFFFFFFFFFFFC) ∨
       (s.x a.rs2 = 0 ∧ d = 0xFFFFFFFFFFFFFFFF ∧ n = 0xFFFFFFFFFFFFFFFF) ∨
       (s.x a.rs1 = 0x8000000000000000 ∧ s.x a.rs2 = 0xFFFFFFFFFFFFFFFF ∧ d = 0x8000000000000000 ∧ n = 0)) →
      Gives (exec (.div a) s) s a.rd d 4 ∧ Gives (exec (.divn a) s) s a.rd n 4)

/-- AND, OR, XOR, ANDI, ORI, XORI, BEXT and BINS complete with their results, bit by bit, and their frame (R326, R376, R449,
R328, 19_ref_a_e.md). Each completes in every state and writes a value whose every bit is the one the rule gives: BEXT and
BINS take position xs2[5:0] and length xs2[12:6], of which 65 to 127 act as 64. -/
def Obligations.LogicalAndFieldResults : Prop :=
  ∀ (s : State),
    (∀ a : R3, let x := s.x a.rs1; let y := s.x a.rs2
      let pos := y.toNat % 64; let len := min 64 (y.toNat / 64 % 128)
      (∃ v : Word, Gives (exec (.and a) s) s a.rd v 4 ∧ ∀ i, v.getLsbD i = (x.getLsbD i && y.getLsbD i)) ∧
      (∃ v : Word, Gives (exec (.or a) s) s a.rd v 4 ∧ ∀ i, v.getLsbD i = (x.getLsbD i || y.getLsbD i)) ∧
      (∃ v : Word, Gives (exec (.xor a) s) s a.rd v 4 ∧ ∀ i, v.getLsbD i = (x.getLsbD i != y.getLsbD i)) ∧
      (∃ v : Word, Gives (exec (.bext a) s) s a.rd v 4 ∧
        ∀ i, i < 64 → v.getLsbD i = (decide (i < len) && x.getLsbD (pos + i))) ∧
      (∃ v : Word, Gives (exec (.bins a) s) s a.rd v 4 ∧
        ∀ i, i < 64 → v.getLsbD i = if pos ≤ i ∧ i < pos + len then x.getLsbD (i - pos) else (s.x a.rd).getLsbD i)) ∧
    (∀ a : IArgs, let x := s.x a.rs1; let y := BitVec.ofInt 64 a.imm.toInt
      (∃ v : Word, Gives (exec (.andi a) s) s a.rd v 4 ∧ ∀ i, v.getLsbD i = (x.getLsbD i && y.getLsbD i)) ∧
      (∃ v : Word, Gives (exec (.ori a) s) s a.rd v 4 ∧ ∀ i, v.getLsbD i = (x.getLsbD i || y.getLsbD i)) ∧
      (∃ v : Word, Gives (exec (.xori a) s) s a.rd v 4 ∧ ∀ i, v.getLsbD i = (x.getLsbD i != y.getLsbD i)))

/-- SLL, SRL, SRA, SLLI, SRLI and SRAI complete with their results and frame (R400, 21_ref_p_u.md). Each completes in every
state; the count is xs2[5:0] or the immediate, zeros enter from the right and, for SRL, from the left, and for SRA copies of
bit 63 enter. -/
def Obligations.ShiftResults : Prop :=
  ∀ (s : State),
    (∀ a : R3, let x := s.x a.rs1; let k := (s.x a.rs2).toNat % 64
      Gives (exec (.sll a) s) s a.rd (BitVec.ofNat 64 (x.toNat * 2 ^ k)) 4 ∧
      Gives (exec (.srl a) s) s a.rd (BitVec.ofNat 64 (x.toNat / 2 ^ k)) 4 ∧
      Gives (exec (.sra a) s) s a.rd (BitVec.ofInt 64 (x.toInt / 2 ^ k)) 4) ∧
    (∀ a : ShArgs, let x := s.x a.rs1; let k := a.count.toNat
      Gives (exec (.slli a) s) s a.rd (BitVec.ofNat 64 (x.toNat * 2 ^ k)) 4 ∧
      Gives (exec (.srli a) s) s a.rd (BitVec.ofNat 64 (x.toNat / 2 ^ k)) 4 ∧
      Gives (exec (.srai a) s) s a.rd (BitVec.ofInt 64 (x.toInt / 2 ^ k)) 4)

/-- SLT, SLTN, SLTI, SLTIN, MIN, MAX, MINN, MAXN, CLZ, CTZ and POPC complete with their results and frame (R402, R366, R326,
R395, 20_ref_f_o.md, 21_ref_p_u.md). Each completes in every state: comparisons give 1 or 0 and the immediate is sign-
extended first; minima and maxima are signed or unsigned; the counts are those of leading zeros, trailing zeros (64 for 0)
and 1 bits. -/
def Obligations.ComparisonAndCountResults : Prop :=
  ∀ (s : State),
    (∀ a : R3, let x := s.x a.rs1; let y := s.x a.rs2
      Gives (exec (.slt a) s) s a.rd (if x.toInt < y.toInt then 1 else 0) 4 ∧
      Gives (exec (.sltn a) s) s a.rd (if x.toNat < y.toNat then 1 else 0) 4 ∧
      Gives (exec (.min a) s) s a.rd (BitVec.ofInt 64 (min x.toInt y.toInt)) 4 ∧
      Gives (exec (.max a) s) s a.rd (BitVec.ofInt 64 (max x.toInt y.toInt)) 4 ∧
      Gives (exec (.minn a) s) s a.rd (BitVec.ofNat 64 (min x.toNat y.toNat)) 4 ∧
      Gives (exec (.maxn a) s) s a.rd (BitVec.ofNat 64 (max x.toNat y.toNat)) 4) ∧
    (∀ a : IArgs, let x := s.x a.rs1; let y := BitVec.ofInt 64 a.imm.toInt
      Gives (exec (.slti a) s) s a.rd (if x.toInt < y.toInt then 1 else 0) 4 ∧
      Gives (exec (.sltin a) s) s a.rd (if x.toNat < y.toNat then 1 else 0) 4) ∧
    (∀ a : R2, let x := s.x a.rs1
      (∃ n : Nat, Gives (exec (.clz a) s) s a.rd (BitVec.ofNat 64 n) 4 ∧
        (x = 0 → n = 64) ∧ (x ≠ 0 → n < 64 ∧ 2 ^ (63 - n) ≤ x.toNat ∧ x.toNat < 2 ^ (64 - n))) ∧
      (∃ n : Nat, Gives (exec (.ctz a) s) s a.rd (BitVec.ofNat 64 n) 4 ∧
        (x = 0 → n = 64) ∧ (x ≠ 0 → n < 64 ∧ x.toNat % 2 ^ n = 0 ∧ x.toNat / 2 ^ n % 2 = 1)) ∧
      Gives (exec (.popc a) s) s a.rd (BitVec.ofNat 64 ((List.range 64).filter fun i => x.getLsbD i).length) 4)

/-- LUI, AUIPC, JAL and JALR complete with their results and frame; an odd JALR target traps FAULT_FETCH (R337, R365, R359,
19_ref_a_e.md, 20_ref_f_o.md). LUI writes the immediate times 2^12, AUIPC adds the instruction address; JAL and JALR write
the address behind them to xd and go to their target, JALR reading xs1 before it writes xd; a JALR to an odd target is the
trap FAULT_FETCH with the target in TADDR. -/
def Obligations.UpperImmediatesAndJumps : Prop :=
  ∀ (s : State),
    (∀ a : UArgs,
      Gives (exec (.lui a) s) s a.rd (BitVec.ofInt 64 (a.imm.toInt * 2 ^ 12)) 4 ∧
      Gives (exec (.auipc a) s) s a.rd (s.pc + BitVec.ofInt 64 (a.imm.toInt * 2 ^ 12)) 4 ∧
      Completes (exec (.jal a) s) fun t =>
        Wrote s t a.rd (s.pc + 4) (s.pc + BitVec.ofInt 64 (a.imm.toInt * 2)) s.cur.fcsr) ∧
    (∀ a : IArgs, let target := BitVec.ofInt 64 ((s.x a.rs1).toInt + a.imm.toInt)
      (target.toNat % 2 = 0 → Completes (exec (.jalr a) s) fun t => Wrote s t a.rd (s.pc + 4) target s.cur.fcsr) ∧
      (target.toNat % 2 = 1 → exec (.jalr a) s = .next (s.trap 0x07 target)))

/-- The branches on registers and on mask registers and NOP go where the rules say and change nothing but the PC (R86, R99,
R341, R342, R291, R375, 02_strands.md, 19_ref_a_e.md). Each branch completes in every state: it goes to its address plus
twice the offset when its comparison holds, and to the next instruction when it does not; NOP goes on; nothing else changes.
With a legal type, the vector state present and the queue empty, BANY, BALL and BNONE test bits 0 to VLC − 1 of their mask
register; with an illegal type they trap VTYPE. -/
def Obligations.BranchOutcomes : Prop :=
  ∀ (s : State),
    (∀ a : BArgs, let x := s.x a.rs1; let y := s.x a.rs2
      let dest := s.pc + BitVec.ofInt 64 (a.off.toInt * 2)
      GoesTo (exec (.beq a) s) s (if x = y then dest else s.pc + 4) ∧
      GoesTo (exec (.bne a) s) s (if x = y then s.pc + 4 else dest) ∧
      GoesTo (exec (.blt a) s) s (if x.toInt < y.toInt then dest else s.pc + 4) ∧
      GoesTo (exec (.bge a) s) s (if x.toInt < y.toInt then s.pc + 4 else dest) ∧
      GoesTo (exec (.bltn a) s) s (if x.toNat < y.toNat then dest else s.pc + 4) ∧
      GoesTo (exec (.bgen a) s) s (if x.toNat < y.toNat then s.pc + 4 else dest)) ∧
    (∀ (r : Reg) (off : BitVec 7), let dest := s.pc + BitVec.ofInt 64 (off.toInt * 2)
      GoesTo (exec (.hBz r off) s) s (if s.x r = 0 then dest else s.pc + 2) ∧
      GoesTo (exec (.hBnz r off) s) s (if s.x r = 0 then s.pc + 2 else dest)) ∧
    GoesTo (exec .nop s) s (s.pc + 4) ∧
    (∀ a : MBArgs, s.side = .compute →
      let set (i : Nat) : Bool := (s.strand.vec.m.get a.md).getLsbD i
      let n := s.strand.cmp.vl.toNat; let dest := s.pc + BitVec.ofInt 64 (a.off.toInt * 2)
      (s.strand.cmp.legal = true → s.strand.trap.vabsent = false → s.strand.q.viq = [] → n ≤ 4096 →
        GoesTo (exec (.bany a) s) s (if ∃ i, i < n ∧ set i = true then dest else s.pc + 4) ∧
        GoesTo (exec (.ball a) s) s (if ∀ i, i < n → set i = true then dest else s.pc + 4) ∧
        GoesTo (exec (.bnone a) s) s (if ∀ i, i < n → set i = false then dest else s.pc + 4)) ∧
      (s.strand.cmp.legal = false → ∀ i ∈ [Instr.bany a, .ball a, .bnone a], exec i s = .next (s.trap 0x02 0)))

/-- FADD, FSUB, FMUL and FFMA of finite sources deliver the exact sum, difference, product and fused sum, rounded once (R102,
R352, R353, 20_ref_f_o.md). For finite sources the value delivered is a finite value equal to the real result, in units
small enough for all of them; the delivery rounds it once to the precision, and an enabled flag traps FPX. -/
def Obligations.FloatingPointExactness : Prop :=
  ∀ (s : State) (k : Int), 0 ≤ k →
    (∀ a : F3, let x := s.fp a.p a.rs1; let y := s.fp a.p a.rs2
      x.finiteFrom k → y.finiteFrom k →
        (∃ r : Val, r.finiteFrom k ∧ r.inUnits k = x.inUnits k + y.inUnits k ∧
          FDelivers (exec (.fadd a) s) s a.p a.rd (r, Flags.none)) ∧
        (∃ r : Val, r.finiteFrom k ∧ r.inUnits k = x.inUnits k - y.inUnits k ∧
          FDelivers (exec (.fsub a) s) s a.p a.rd (r, Flags.none)) ∧
        (∃ r : Val, r.finiteFrom (2 * k) ∧ r.inUnits (2 * k) = x.inUnits k * y.inUnits k ∧
          FDelivers (exec (.fmul a) s) s a.p a.rd (r, Flags.none))) ∧
    (∀ a : F4, let x := s.fp a.p a.rs1; let y := s.fp a.p a.rs2; let z := s.fp a.p a.rs3
      x.finiteFrom k → y.finiteFrom k → z.finiteFrom (2 * k) →
        ∃ r : Val, r.finiteFrom (2 * k) ∧ r.inUnits (2 * k) = x.inUnits k * y.inUnits k + z.inUnits (2 * k) ∧
          FDelivers (exec (.ffma a) s) s a.p a.rd (r, Flags.none))

/-- FADD, FSUB, FMUL, FFMA, FDIV and FSQRT with NaNs, infinities and zeros: invalid operations, division by zero and roots (R105, R352, R353,
20_ref_f_o.md). A finite non-zero value divided by a zero delivers an infinity with DZ; ∞ − ∞, 0 / 0, ∞ / ∞, ±0 × ±∞, that product in a
FFMA with any third source, and the square root of a negative non-zero value deliver a NaN with NV; any other NaN source gives a NaN, with NV
for a signalling one; any other infinity gives an infinity with its sign, and the zeros of a quotient or a root are zeros. A finite quotient or root is delivered once from a value that is the exact one, or that has an odd last bit, more than
150 bits, and the exact one between its two neighbours: every rounding to a precision of R352 is then the one rounding of the exact result. -/
def Obligations.FloatingPointSpecialOperands : Prop :=
  ∀ (s : State),
    (∀ a : F3, let x := s.fp a.p a.rs1; let y := s.fp a.p a.rs2
      (∃ r, FDelivers (exec (.fdiv a) s) s a.p a.rd r) ∧
      (∀ (n1 n2 : Bool) (m1 m2 : Nat) (e1 e2 : Int), x = .fin n1 m1 e1 → y = .fin n2 m2 e2 → m1 ≠ 0 → m2 ≠ 0 →
        ∃ (m : Nat) (e : Int), FDelivers (exec (.fdiv a) s) s a.p a.rd (.fin (n1 != n2) m e, Flags.none) ∧
          0 ≤ e1 - e2 - e ∧ let num := m1 * 2 ^ (e1 - e2 - e).toNat
            m * m2 = num ∨ (m % 2 = 1 ∧ 2 ^ 150 ≤ m ∧ (m - 1) * m2 < num ∧ num < (m + 1) * m2)) ∧
      (x.isNaN = true ∨ y.isNaN = true →
        FDelivers (exec (.fdiv a) s) s a.p a.rd (.nan false, Flags.invalidIf (x.isSNaN || y.isSNaN))) ∧
      (x.isInf = true → y.isNaN = false → y.isInf = false →
        FDelivers (exec (.fdiv a) s) s a.p a.rd (.inf (x.neg? != y.neg?), Flags.none)) ∧
      (x.isNaN = false → x.isInf = false → (y.isInf = true ∨ (x.isZero = true ∧ y.isNaN = false ∧ y.isZero = false)) →
        FDelivers (exec (.fdiv a) s) s a.p a.rd (.fin (x.neg? != y.neg?) 0 0, Flags.none)) ∧
      (x.isNaN = false → x.isInf = false → x.isZero = false → y.isZero = true →
        FDelivers (exec (.fdiv a) s) s a.p a.rd (.inf (x.neg? != y.neg?), Flags.divZero)) ∧
      (x.isZero = true → y.isZero = true → FDelivers (exec (.fdiv a) s) s a.p a.rd (.nan false, Flags.invalid)) ∧
      (x.isInf = true → y.isInf = true → FDelivers (exec (.fdiv a) s) s a.p a.rd (.nan false, Flags.invalid)) ∧
      ((x.isZero = true ∧ y.isInf = true) ∨ (x.isInf = true ∧ y.isZero = true) →
        FDelivers (exec (.fmul a) s) s a.p a.rd (.nan false, Flags.invalid)) ∧
      (x.isNaN = true ∨ y.isNaN = true → ∀ i ∈ [Instr.fadd a, .fsub a, .fmul a],
        FDelivers (exec i s) s a.p a.rd (.nan false, Flags.invalidIf (x.isSNaN || y.isSNaN))) ∧
      (x.isNaN = false → y.isNaN = false → x.isZero = false → y.isZero = false → x.isInf = true ∨ y.isInf = true →
        FDelivers (exec (.fmul a) s) s a.p a.rd (.inf (x.neg? != y.neg?), Flags.none)) ∧
      (∀ neg, x = .inf neg →
        (y = .inf (!neg) → FDelivers (exec (.fadd a) s) s a.p a.rd (.nan false, Flags.invalid)) ∧
        (y = .inf neg → FDelivers (exec (.fsub a) s) s a.p a.rd (.nan false, Flags.invalid)) ∧
        (y.isNaN = false → y ≠ .inf (!neg) → FDelivers (exec (.fadd a) s) s a.p a.rd (.inf neg, Flags.none)) ∧
        (y.isNaN = false → y ≠ .inf neg → FDelivers (exec (.fsub a) s) s a.p a.rd (.inf neg, Flags.none))) ∧
      (∀ neg, y = .inf neg → x.isNaN = false → x.isInf = false →
        FDelivers (exec (.fadd a) s) s a.p a.rd (.inf neg, Flags.none) ∧
        FDelivers (exec (.fsub a) s) s a.p a.rd (.inf (!neg), Flags.none))) ∧
    (∀ a : F4, let x := s.fp a.p a.rs1; let y := s.fp a.p a.rs2; let z := s.fp a.p a.rs3
      let zeroTimesInf := (x.isZero && y.isInf) || (x.isInf && y.isZero)
      (zeroTimesInf = true → FDelivers (exec (.ffma a) s) s a.p a.rd (.nan false, Flags.invalid)) ∧
      (zeroTimesInf = false → x.isNaN = true ∨ y.isNaN = true ∨ z.isNaN = true →
        FDelivers (exec (.ffma a) s) s a.p a.rd (.nan false, Flags.invalidIf (x.isSNaN || y.isSNaN || z.isSNaN))) ∧
      (zeroTimesInf = false → x.isNaN = false → y.isNaN = false → x.isInf = true ∨ y.isInf = true →
        (z = .inf (x.neg? == y.neg?) → FDelivers (exec (.ffma a) s) s a.p a.rd (.nan false, Flags.invalid)) ∧
        (z.isNaN = false → z ≠ .inf (x.neg? == y.neg?) →
          FDelivers (exec (.ffma a) s) s a.p a.rd (.inf (x.neg? != y.neg?), Flags.none))) ∧
      (x.isNaN = false → y.isNaN = false → x.isInf = false → y.isInf = false → z.isInf = true →
        FDelivers (exec (.ffma a) s) s a.p a.rd (.inf z.neg?, Flags.none))) ∧
    (∀ a : F2, let x := s.fp a.p a.rs1
      (∃ r, FDelivers (exec (.fsqrt a) s) s a.p a.rd r) ∧
      (∀ (m1 : Nat) (e1 : Int), x = .fin false m1 e1 → m1 ≠ 0 →
        ∃ (m : Nat) (e : Int), FDelivers (exec (.fsqrt a) s) s a.p a.rd (.fin false m e, Flags.none) ∧
          0 ≤ e1 - 2 * e ∧ let sq := m1 * 2 ^ (e1 - 2 * e).toNat
            m ^ 2 = sq ∨ (m % 2 = 1 ∧ 2 ^ 150 ≤ m ∧ (m - 1) ^ 2 < sq ∧ sq < (m + 1) ^ 2)) ∧
      (x.isNaN = true → FDelivers (exec (.fsqrt a) s) s a.p a.rd (.nan false, Flags.invalidIf x.isSNaN)) ∧
      (x = .inf false → FDelivers (exec (.fsqrt a) s) s a.p a.rd (.inf false, Flags.none)) ∧
      (x.isZero = true → FDelivers (exec (.fsqrt a) s) s a.p a.rd (.fin x.neg? 0 0, Flags.none)) ∧
      (x.isNaN = false → x.isZero = false → x.neg? = true →
        FDelivers (exec (.fsqrt a) s) s a.p a.rd (.nan false, Flags.invalid)))

/-- `x` is below `y` in the order of FMIN and FMAX (R354): a lesser finite value, −∞ below everything else, everything else below +∞, and −0
below +0; a NaN is below nothing. -/
def Below (x y : Val) : Prop :=
  (∃ k, x.finiteFrom k ∧ y.finiteFrom k ∧ x.inUnits k < y.inUnits k) ∨
  (x.isNaN = false ∧ y.isNaN = false ∧ x ≠ y ∧ (x = .inf true ∨ y = .inf false)) ∨
  (x.isZero = true ∧ y.isZero = true ∧ x.neg? = true ∧ y.neg? = false)

/-- FMIN, FMAX, FCMP.EQ, FCMP.LT, FCMP.LE and FCLASS complete with their results and flags (R352, R354, 20_ref_f_o.md). FMIN and FMAX
deliver the lesser and the greater source, −0 being the lesser beside +0, with no flag; a lone NaN gives the other source and two a NaN, with
NV for a signalling one. A comparison of finite sources is that of the real values, one with an infinity that of the extended line; an
unordered pair compares as 0, LT and LE raise NV for any NaN and EQ for a signalling one only; FCLASS gives the one-hot class. With no trap
enabled each of them completes in every state and on all sources, and writes nothing but xd, FCSR and the PC. -/
def Obligations.FloatingPointComparisons : Prop :=
  ∀ (s : State),
    (∀ a : F3, let x := s.fp a.p a.rs1; let y := s.fp a.p a.rs2
      let nv := Flags.invalidIf (x.isSNaN || y.isSNaN)
      (fcsrEn s.cur.fcsr = 0 → ∀ i ∈ [Instr.fmin a, .fmax a, .fcmpEq a, .fcmpLt a, .fcmpLe a],
        ∃ (v : Word) (fcsr : BitVec 13), Completes (exec i s) fun t => Wrote s t a.rd v (s.pc + 4) fcsr) ∧
      (Below x y → FDelivers (exec (.fmin a) s) s a.p a.rd (x, Flags.none) ∧
        FDelivers (exec (.fmax a) s) s a.p a.rd (y, Flags.none)) ∧
      (Below y x → FDelivers (exec (.fmin a) s) s a.p a.rd (y, Flags.none) ∧
        FDelivers (exec (.fmax a) s) s a.p a.rd (x, Flags.none)) ∧
      (x = y → x.isNaN = false → FDelivers (exec (.fmin a) s) s a.p a.rd (x, Flags.none) ∧
        FDelivers (exec (.fmax a) s) s a.p a.rd (x, Flags.none)) ∧
      (x.isNaN = true → y.isNaN = false → FDelivers (exec (.fmin a) s) s a.p a.rd (y, nv) ∧
        FDelivers (exec (.fmax a) s) s a.p a.rd (y, nv)) ∧
      (x.isNaN = false → y.isNaN = true → FDelivers (exec (.fmin a) s) s a.p a.rd (x, nv) ∧
        FDelivers (exec (.fmax a) s) s a.p a.rd (x, nv)) ∧
      (x.isNaN = true → y.isNaN = true → FDelivers (exec (.fmin a) s) s a.p a.rd (.nan false, nv) ∧
        FDelivers (exec (.fmax a) s) s a.p a.rd (.nan false, nv)) ∧
      (∀ k, x.finiteFrom k → y.finiteFrom k →
        FGives (exec (.fcmpEq a) s) s a.rd (if x.inUnits k = y.inUnits k then 1 else 0) Flags.none ∧
        FGives (exec (.fcmpLt a) s) s a.rd (if x.inUnits k < y.inUnits k then 1 else 0) Flags.none ∧
        FGives (exec (.fcmpLe a) s) s a.rd (if x.inUnits k ≤ y.inUnits k then 1 else 0) Flags.none) ∧
      (x.isNaN = false → y.isNaN = false → x.isInf = true ∨ y.isInf = true → let less := x ≠ y ∧ (x = .inf true ∨ y = .inf false)
        FGives (exec (.fcmpEq a) s) s a.rd (if x = y then 1 else 0) Flags.none ∧
        FGives (exec (.fcmpLt a) s) s a.rd (if less then 1 else 0) Flags.none ∧
        FGives (exec (.fcmpLe a) s) s a.rd (if less ∨ x = y then 1 else 0) Flags.none) ∧
      (x.isNaN = true ∨ y.isNaN = true →
        FGives (exec (.fcmpEq a) s) s a.rd 0 nv ∧ FGives (exec (.fcmpLt a) s) s a.rd 0 Flags.invalid ∧
        FGives (exec (.fcmpLe a) s) s a.rd 0 Flags.invalid)) ∧
    (∀ a : F2, let x := s.fp a.p a.rs1
      let subnormal := if a.p = .s then (s.x a.rs1).toNat / 2 ^ 23 % 2 ^ 8 = 0 else (s.x a.rs1).toNat / 2 ^ 52 % 2 ^ 11 = 0
      Gives (exec (.fclass a) s) s a.rd
        (match x with
          | .nan sig => if sig then 2 else 1
          | .inf neg => if neg then 0x200 else 4
          | .fin neg m _ =>
            if m = 0 then (if neg then 0x40 else 0x20)
            else if subnormal then (if neg then 0x80 else 0x10) else (if neg then 0x100 else 8)) 4)

/-- FCVT completes for each of its 18 codes (R113, R352, R355, 20_ref_f_o.md). Between the precisions the source value is
delivered once; to an integer the value is rounded by FRM, clamped with NV, a NaN gives 0 with NV, W results are sign-
extended and WN results zero-extended; from an integer the exact integer is delivered. -/
def Obligations.FloatingPointConversions : Prop :=
  ∀ (s : State) (a : R2),
    FDelivers (exec (.fcvt .sd a) s) s .s a.rd (s.fp .d a.rs1, Flags.invalidIf (s.fp .d a.rs1).isSNaN) ∧
    FDelivers (exec (.fcvt .ds a) s) s .d a.rd (s.fp .s a.rs1, Flags.invalidIf (s.fp .s a.rs1).isSNaN) ∧
    (∀ (f : Prec),
      FDelivers (exec (.fcvt (.ofInt f .w) a) s) s f a.rd (Val.ofInt (BitVec.ofNat 32 (s.x a.rs1).toNat).toInt, Flags.none) ∧
      FDelivers (exec (.fcvt (.ofInt f .wn) a) s) s f a.rd (Val.ofInt (BitVec.ofNat 32 (s.x a.rs1).toNat).toNat, Flags.none) ∧
      FDelivers (exec (.fcvt (.ofInt f .l) a) s) s f a.rd (Val.ofInt (s.x a.rs1).toInt, Flags.none) ∧
      FDelivers (exec (.fcvt (.ofInt f .ln) a) s) s f a.rd (Val.ofInt (s.x a.rs1).toNat, Flags.none)) ∧
    (∀ (f : Prec) (t : IntTy) (lo hi : Int),
      (t, lo, hi) ∈ [(IntTy.w, (-2147483648 : Int), (2147483647 : Int)), (.wn, 0, 4294967295),
        (.l, -9223372036854775808, 9223372036854775807), (.ln, 0, 18446744073709551615)] →
      ∃ fl, (match s.fp f a.rs1 with
        | .nan _ => fl = Flags.invalid ∧ FGives (exec (.fcvt (.toInt t f) a) s) s a.rd 0 fl
        | .inf neg => fl = Flags.invalid ∧
            FGives (exec (.fcvt (.toInt t f) a) s) s a.rd (cvtExtend t (BitVec.ofInt 64 (if neg then lo else hi)).toNat) fl
        | .fin neg m e => ∃ x : Int,
            x = (let r := (roundQuot s.frm neg (shiftQuot m e).1 (shiftQuot m e).2).1; if neg then -(r : Int) else r) ∧
            (x < lo ∨ hi < x → fl = Flags.invalid) ∧
            FGives (exec (.fcvt (.toInt t f) a) s) s a.rd (cvtExtend t (BitVec.ofInt 64 (max lo (min hi x))).toNat) fl))

/-- The value that a load of a size gives for the little-endian number that it read: B, H and W are sign-extended, BN, HN and WN
zero-extended (R287, R363). -/
def loadedWord (z : LdSize) (n : Nat) : Word :=
  match z with
  | .b => BitVec.ofInt 64 (BitVec.ofNat 8 n).toInt
  | .h => BitVec.ofInt 64 (BitVec.ofNat 16 n).toInt
  | .w => BitVec.ofInt 64 (BitVec.ofNat 32 n).toInt
  | _ => BitVec.ofNat 64 n

/-- The value of bytes in the order of their addresses: the byte at the lowest address is bits [7:0] (R1). -/
def valueOfBytes (bs : List Byte) : Nat := bs.foldr (fun b n => b.toNat + 256 * n) 0

/-- What a release or acquire at SYSTEM scope needs to complete at once: the die holds no copy of a HOST or REMOTE line, has no
write-back in flight and no add that waits for a line, and the slice has no request outstanding. -/
def NothingFar (s : State) : Prop :=
  s.l2 = [] ∧ s.cur.reply = none ∧ s.cur.waitReq = none ∧ s.dieBackInFlight s.strand.die = false ∧ s.dueLines s.strand.die = []

/-- The waiting accesses of `s` put back into `u`, with the schedule that says which of them wait. -/
def putAccess (s u : State) : State :=
  { u with delays := s.delays, strand := { u.strand with stores := s.strand.stores, issued := s.strand.issued } }

/-- An access of the scalar path of the slice in turn to the memory slices of `n` bytes from a key, with a release or an acquire. -/
def scalarOf (s : State) (key n : Nat) (kind : FenceKind) (rel : Bool) (acq : Acquires) : Access :=
  ⟨s.side, .scalar, memSlices s.strand.die key n, s.strand.issued, s.cur.popMark, kind, rel, acq, none, [], [], [], none⟩

/-- A new access of the slice in turn has joined its FIFO, behind the others: nothing else has changed but that the slice goes on. -/
def Waits (s u t : State) (x : Access) : Prop :=
  t.strand.stores = s.strand.stores ++ [x] ∧
  t.strand.issued = s.strand.issued + 1 ∧ t.delays = s.delays.tail ∧
  Wrote u (putAccess u t) 0 0 (s.pc + 4) s.cur.fcsr

/-- Has an access of a kind something of the kind that a FENCE names (R210)? -/
def OfKind (named kind : FenceKind) : Prop := named = .rw ∨ kind = .rw ∨ kind = named

/-- Does a waiting access come before a later one of its strand: in its FIFO (R203); of its slice before a release, behind an acquire, or at
an ordering instruction that waits (R204, R205, R207, R210); of the partner slice, ordered by a pop (R61) or by an acquire at STRAND scope
(R208)? -/
def ComesBefore (x y : Access) : Prop :=
  (x.side = y.side ∧ ((x.path = y.path ∧ ∃ m ∈ x.mslices, m ∈ y.mslices) ∨ y.rel = true ∨ x.acq = .all ∨
    (∃ e, y.edge = some e ∧ x.edge = none ∧ (e.fromPath = none ∨ e.fromPath = some x.path) ∧ OfKind e.fromKind x.kind) ∨
    (∃ e, x.edge = some e ∧ y.edge = none ∧ (e.toPath = none ∨ e.toPath = some y.path) ∧ OfKind e.toKind y.kind))) ∨
  (x.side ≠ y.side ∧ (x.num < y.after ∨ x.acq = .strand))

/-- May a scalar access of this package with this acquire wait, which is the model's choice (log 11)? Not at SYSTEM scope, nor at STRAND scope
while an access of the partner slice waits. -/
def MayWait (s : State) (acq : Option Scope) : Prop :=
  acq ≠ some .system ∧ (acq = some .strand → ∀ x ∈ s.strand.stores, x.side = s.side)

/-- What an acquire holds back while it waits (R207, R208): at STRAND scope the partner slice, otherwise its own. -/
def heldBack (acq : Option Scope) : Acquires :=
  match acq with
  | none => .none
  | some sc => if sc = .strand then .strand else .all

/-- LD and LD.ACQ complete with the little-endian value of their bytes, extended by their size, and their frame (R1, R202, R203,
R207, R361, R363, 20_ref_f_o.md). For an aligned address that translates, in a launch with DET = 0, a load or an acquire of a location of this
package reads at once, behind the accesses that come before it, and xd takes the value of the bytes that stand there then; or it joins its
FIFO and reads when it is performed, the acquire holding back what comes after it. Where a waiting access comes before it at STRAND scope
alone, what the memory holds may stay unwritten as others see it (log 76); where no ordering instruction waits, the read and the memory that
remains are the same. A load of a HOST or REMOTE line, of a package that can be reached, reads at once when the bytes are present on the die,
which is the model's choice (log 11), and so does an acquire below SYSTEM scope. Nothing else changes, but that an acquire at SYSTEM scope drops
the die's clean copies. -/
def Obligations.LoadsReadTheirBytes : Prop :=
  ∀ (s : State) (key : Nat) (bs : List Byte), s.isDet s.strand.id.lid = false →
    (∀ a : LArgs, let addr := BitVec.ofInt 64 ((s.x a.rs1).toInt + a.imm.toInt)
      let n := ldBytes a.size
      let v := s.used a.space addr
      let u := v.ahead (scalarOf s key n .r false .none)
      let r := ({ v with delays := s.delays.tail } : State).readNow (scalarOf s key n .r false .none)
      addr.toNat % n = 0 → s.locate a.space .load addr = .ok key →
      (isFar key = false → s.delays.headD false = false →
        Completes (exec (.ld a) s) fun t =>
          Wrote r.2 t a.rd (loadedWord a.size (valueOfBytes (r.1.mem.read key n))) (s.pc + 4) r.2.cur.fcsr) ∧
      (isFar key = false → s.delays.headD false = true →
        Completes (exec (.ld a) s) fun t => Waits s v t { scalarOf s key n .r false .none with
          loads := [⟨key, n, .reg s.side (s.side == Side.access && s.strand.trap.priv) a.rd a.size⟩] }) ∧
      (isFar key = true → (isRemote key = true → s.remoteFails (remotePa key).1 = false) → u.bytesAt s.strand.die key n = some bs →
        Completes (exec (.ld a) s) fun t => Wrote u t a.rd (loadedWord a.size (valueOfBytes bs)) (s.pc + 4) u.cur.fcsr)) ∧
    (∀ a : LAcqArgs, let addr := s.x a.rs1
      let n := ldBytes a.size
      let v := s.used a.space addr
      let u := v.ahead (scalarOf s key n .r false .none)
      addr.toNat % n = 0 → s.locate a.space .load addr = .ok key →
      (∀ w : State, isFar key = false → MayWait s (some a.scope) ∧ s.delays.headD false = false ∧ w = { v with delays := s.delays.tail } ∨
          ¬ MayWait s (some a.scope) ∧ w = v →
        Completes (exec (.ldAcq a) s) fun t => let r := w.readNow (scalarOf s key n .r false .none)
          Wrote (if a.scope = .system then r.2.invalidateClean s.strand.die else r.2) t a.rd
            (loadedWord a.size (valueOfBytes (r.1.mem.read key n))) (s.pc + 4) r.2.cur.fcsr) ∧
      (isFar key = false → MayWait s (some a.scope) → s.delays.headD false = true →
        Completes (exec (.ldAcq a) s) fun t => Waits s v t { scalarOf s key n .r false (heldBack (some a.scope)) with
          loads := [⟨key, n, .reg s.side (s.side == Side.access && s.strand.trap.priv) a.rd a.size⟩] }) ∧
      (isFar key = true → a.scope ≠ .system → (isRemote key = true → s.remoteFails (remotePa key).1 = false) →
        u.bytesAt s.strand.die key n = some bs →
        Completes (exec (.ldAcq a) s) fun t => Wrote u t a.rd (loadedWord a.size (valueOfBytes bs)) (s.pc + 4) u.cur.fcsr)) ∧
    (∀ x : Access, (∀ y ∈ s.strand.stores, y.edge = none) →
      s.readNow x = (s.ahead x, s.ahead x) ∧ ∀ y ∈ (s.ahead x).strand.stores, ¬ ComesBefore y x)

/-- ST and ST.REL complete: the stored bytes read as the low bytes of xs2, every other byte as before, or the store waits in its
FIFO (R1, R203, R207, R403, R404, R405, 21_ref_p_u.md). With the location that the store's own checks give as the address
stored to: a store is performed at once behind the accesses that come before it, or it stands last in its FIFO and memory is unchanged; before a
release store come every earlier access of its slice and every access that its pops have ordered before it, and one at SYSTEM scope has them
performed even where it waits. -/
def Obligations.StoresWriteTheirBytes : Prop :=
  ∀ (s : State) (key : Nat), s.isDet s.strand.id.lid = false →
    (∀ a : SArgs, let addr := BitVec.ofInt 64 ((s.x a.rs1).toInt + a.imm.toInt)
      let n := stBytes a.size; let bs := (List.range n).map fun i => (s.x a.rs2).extractLsb' (8 * i) 8
      s.storeCheck n a.space addr = .ok key →
      (s.delays.headD false = false →
        Completes (exec (.st a) s) fun t => let u := (s.used a.space addr).ahead (scalarOf s key n .w false .none)
          Stored u t key bs 0 0 4 u.cur.fcsr) ∧
      (s.delays.headD false = true →
        Completes (exec (.st a) s) fun t => Waits s (s.used a.space addr) t { scalarOf s key n .w false .none with bytes := atKeys key bs })) ∧
    (∀ a : SRelArgs, let addr := s.x a.rs1
      let n := stBytes a.size; let bs := (List.range n).map fun i => (s.x a.rs2).extractLsb' (8 * i) 8
      let v := if a.scope = .system then (s.used a.space addr).settleOwn else s.used a.space addr
      let u := v.ahead (scalarOf s key n .w true .none)
      s.storeCheck n a.space addr = .ok key → (s.side = .compute → s.strand.q.memoryWaits = false) →
      (a.scope = .system → NothingFar v ∧ isFar key = false) →
      (∀ x ∈ u.strand.stores, x.side ≠ s.side ∧ s.cur.popMark ≤ x.num) ∧
      (s.delays.headD false = false → Completes (exec (.stRel a) s) fun t => Stored u t key bs 0 0 4 u.cur.fcsr) ∧
      (s.delays.headD false = true →
        Completes (exec (.stRel a) s) fun t => Waits v v t { scalarOf s key n .w true .none with bytes := atKeys key bs }))

/-- A misaligned or failing scalar access traps with its cause and address and has no other effect than the trap's own (R263,
R330, R362, R404, 20_ref_f_o.md). LD, LD.ACQ, ST, ST.REL and the atomics trap MISALIGN at an address that their size does
not divide, and otherwise trap with the cause that the translation, the protection or the line's error gives, TADDR holding
the address; a load or store of a package that cannot be reached traps REMOTE; a store of fewer than 8 bytes to a line with an uncorrectable
error traps MEMERR, which is the model's reading (log 15). -/
def Obligations.ScalarAccessTraps : Prop :=
  ∀ (s : State) (c : Nat),
    (∀ a : LArgs, let addr := s.x a.rs1 + BitVec.ofInt 64 a.imm.toInt
      (addr.toNat % ldBytes a.size ≠ 0 → exec (.ld a) s = .next (s.trap 0x04 addr)) ∧
      (addr.toNat % ldBytes a.size = 0 → s.locate a.space .load addr = .error c → exec (.ld a) s = .next (s.trap c addr)) ∧
      (∀ key, addr.toNat % ldBytes a.size = 0 → s.locate a.space .load addr = .ok key → isRemote key = true →
        s.remoteFails (remotePa key).1 = true → exec (.ld a) s = .next ((s.used a.space addr).trap 0x13 addr))) ∧
    (∀ a : LAcqArgs, let addr := s.x a.rs1
      (addr.toNat % ldBytes a.size ≠ 0 → exec (.ldAcq a) s = .next (s.trap 0x04 addr)) ∧
      (addr.toNat % ldBytes a.size = 0 → s.locate a.space .load addr = .error c →
        exec (.ldAcq a) s = .next (s.trap c addr))) ∧
    (∀ a : SArgs, let addr := s.x a.rs1 + BitVec.ofInt 64 a.imm.toInt
      (addr.toNat % stBytes a.size ≠ 0 → exec (.st a) s = .next (s.trap 0x04 addr)) ∧
      (addr.toNat % stBytes a.size = 0 → s.locate a.space .store addr = .error c → exec (.st a) s = .next (s.trap c addr)) ∧
      (∀ key, addr.toNat % stBytes a.size = 0 → s.locate a.space .store addr = .ok key →
        let fails := isRemote key = true ∧ s.remoteFails (remotePa key).1 = true
        (fails → exec (.st a) s = .next (s.trap 0x13 addr)) ∧
        (¬ fails → stBytes a.size < 8 → s.isBad key = true → exec (.st a) s = .next (s.trap (memErr key) addr)))) ∧
    (∀ a : SRelArgs, let addr := s.x a.rs1
      (addr.toNat % stBytes a.size ≠ 0 → exec (.stRel a) s = .next (s.trap 0x04 addr)) ∧
      (addr.toNat % stBytes a.size = 0 → s.locate a.space .store addr = .error c →
        exec (.stRel a) s = .next (s.trap c addr)) ∧
      (∀ key, addr.toNat % stBytes a.size = 0 → s.locate a.space .store addr = .ok key →
        let fails := isRemote key = true ∧ s.remoteFails (remotePa key).1 = true
        (fails → exec (.stRel a) s = .next (s.trap 0x13 addr)) ∧
        (¬ fails → stBytes a.size < 8 → s.isBad key = true → exec (.stRel a) s = .next (s.trap (memErr key) addr)))) ∧
    (∀ a : AArgs, let addr := s.x a.rs1
      s.cur.reply = none → s.cur.waitReq = none →
      ∀ i ∈ [Instr.amoadd a, .amoand a, .amoor a, .amoxor a, .amomin a, .amomax a, .amoswp a,
        .cas a, .amofadd a, .amofaddDet ⟨a.space, a.size, a.rs1, a.rs2⟩],
        (addr.toNat % atBytes a.size ≠ 0 → exec i s = .next (s.trap 0x04 addr)) ∧
        (addr.toNat % atBytes a.size = 0 → s.place a.space .atomic addr = .error c → c ≠ 0x11 → exec i s = .next (s.trap c addr)) ∧
        (∀ key, addr.toNat % atBytes a.size = 0 → s.place a.space .atomic addr = .ok key → (isFar key = true → isRemote key = true) →
          s.detDom key = false → s.isBad key = true → exec i s = .next (s.trap (memErr key) addr)))

/-- The state behind the release of an atomic: one at SYSTEM scope has performed the slice's earlier accesses (R207). -/
def atomicFrom (s : State) (a : AArgs) : State :=
  let u := s.used a.space (s.x a.rs1)
  if Order.relScope a.order = some .system then u.settleOwn else u

/-- The access of an atomic: a read and a write, with its release and its acquire. -/
def atomicOf (s : State) (a : AArgs) (key : Nat) : Access :=
  scalarOf s key (atBytes a.size) .rw (Order.relScope a.order).isSome (heldBack (Order.acqScope a.order))

/-- The state in which an atomic that has passed its checks reads: what comes before it is performed (R202, R207). -/
def atomicBase (s : State) (a : AArgs) (key : Nat) : State := (atomicFrom s a).ahead (atomicOf s a key)

/-- What an atomic needs to complete at once on a location of its own package: its checks pass, no detector is at work, its
release and acquire have nothing to wait for, and the schedule does not have it wait in its FIFO (log 11). -/
structure AtomicGoes (s : State) (op : AtOp) (a : AArgs) (key : Nat) : Prop where
  fresh : s.cur.reply = none ∧ s.cur.waitReq = none
  delay : MayWait (atomicFrom s a) (Order.acqScope a.order) → s.delays.headD false = false
  checks : s.atCheck op (atBytes a.size) a.space (s.x a.rs1) false = .ok key
  near : isFar (key + 7) = false
  det : s.isDet s.strand.id.lid = false
  queue : (Order.relScope a.order).isSome = true → s.side = .compute → s.strand.q.memoryWaits = false
  rel : Order.relScope a.order = some .system → NothingFar (atomicFrom s a)
  acq : Order.acqScope a.order = some .system → (atomicBase s a key).l2 = []

/-- An atomic of `w` bits that reads `old` and writes `new`, or nothing: its bytes in memory, xd with `old`, and its frame. -/
def AtomicDoes (o : Out) (s : State) (a : AArgs) (key : Nat) (xd : Word) (new : Option Nat) (fl : Flags) : Prop :=
  Completes o fun t =>
    let u := atomicBase s a key
    Stored u t key ((match new with
      | some v => (List.range (atBytes a.size)).map fun i => BitVec.ofNat 8 (v / 256 ^ i)
      | none => [])) a.rd xd 4 (u.cur.fcsr ||| BitVec.setWidth 13 fl.toBits)

/-- AMOADD, AMOAND, AMOOR, AMOXOR, AMOMIN, AMOMAX, AMOSWP, CAS and AMOFADD complete on a location of their package (R329, R331,
R334, 19_ref_a_e.md). xd takes the old value (W sign-extended, D whole, S zero-extended), memory the new value that the
operation gives, CAS only when the old value equals xd, every other byte is as before, and AMOFADD rounds once and raises
its flags. An atomic that the schedule has wait (log 11) stands last in its FIFO instead, with its operands and its order, and changes nothing yet. -/
def Obligations.AtomicsReadModifyWrite : Prop :=
  ∀ (s : State) (a : AArgs) (key : Nat), let w := 8 * atBytes a.size
    let old := valueOfBytes ((atomicBase s a key).mem.read key (atBytes a.size))
    let v := (s.x a.rs2).toNat % 2 ^ w; let e := (s.x a.rd).toNat % 2 ^ w
    let xd := if a.size = .w then BitVec.ofInt 64 (BitVec.ofNat 32 old).toInt else BitVec.ofNat 64 old
    let less := (BitVec.ofNat w old).toInt < (BitVec.ofNat w v).toInt
    (AtomicGoes s .add a key → AtomicDoes (exec (.amoadd a) s) s a key xd (some ((old + v) % 2 ^ w)) Flags.none) ∧
    (AtomicGoes s .and a key → AtomicDoes (exec (.amoand a) s) s a key xd (some (old &&& v)) Flags.none) ∧
    (AtomicGoes s .or a key → AtomicDoes (exec (.amoor a) s) s a key xd (some (old ||| v)) Flags.none) ∧
    (AtomicGoes s .xor a key → AtomicDoes (exec (.amoxor a) s) s a key xd (some (old ^^^ v)) Flags.none) ∧
    (AtomicGoes s .min a key → AtomicDoes (exec (.amomin a) s) s a key xd (some (if less then old else v)) Flags.none) ∧
    (AtomicGoes s .max a key → AtomicDoes (exec (.amomax a) s) s a key xd (some (if less then v else old)) Flags.none) ∧
    (AtomicGoes s .swp a key → AtomicDoes (exec (.amoswp a) s) s a key xd (some v) Flags.none) ∧
    (AtomicGoes s .cas a key → AtomicDoes (exec (.cas a) s) s a key xd (if old = e then some v else none) Flags.none) ∧
    (AtomicGoes s .fadd a key → ∃ r, r = atomicFadd a.size s.frm old v ∧
      AtomicDoes (exec (.amofadd a) s) s a key (BitVec.ofNat 64 old) (some r.1) r.2) ∧
    (∀ p ∈ [(AtOp.add, Instr.amoadd a), (.and, .amoand a), (.or, .amoor a), (.xor, .amoxor a), (.min, .amomin a), (.max, .amomax a),
        (.swp, .amoswp a), (.cas, .cas a), (.fadd, .amofadd a)],
      let u := atomicFrom s a
      MayWait u (Order.acqScope a.order) → s.delays.headD false = true → s.cur.reply = none → s.cur.waitReq = none → isFar key = false →
      s.isDet s.strand.id.lid = false → s.atCheck p.1 (atBytes a.size) a.space (s.x a.rs1) false = .ok key →
      ((Order.relScope a.order).isSome = true → s.side = .compute → s.strand.q.memoryWaits = false) →
      (Order.relScope a.order = some .system → NothingFar u) →
      Completes (exec p.2 s) fun t => ∃ z, Waits u u t { atomicOf s a key with
        atom := some ⟨p.1, a.size, s.frm, key, s.x a.rs2, s.x a.rd⟩
        loads := [⟨key, atBytes a.size, .reg s.side (s.side == Side.access && s.strand.trap.priv) a.rd z⟩] } ∧
        loadedWord z (valueOfBytes (u.mem.read key (atBytes a.size))) =
          let old := valueOfBytes (u.mem.read key (atBytes a.size))
          if a.size = .w ∧ p.1 ≠ .fadd then BitVec.ofInt 64 (BitVec.ofNat 32 old).toInt else BitVec.ofNat 64 old)

/-- AMOFADD.DET buffers its add in a launch with DET = 1 and is AMOFADD with xd = x0 in a launch with DET = 0 (R223, R334,
09_ordering.md). With DET = 1, room for the add and no conflict, the add stands last among the buffered adds with the
strand's DETID, behind the accesses that come before it and the plain atomics of its word that wait, and writes no byte itself; with DET = 0 the
instruction does what AMOFADD with xd = x0 does. -/
def Obligations.DeterministicAddsAreBuffered : Prop :=
  ∀ (s : State) (a : ADetArgs) (key : Nat), let addr := s.x a.rs1
    let u := s.used a.space addr
    s.cur.reply = none → s.cur.waitReq = none → s.atCheck .fadd (atBytes a.size) a.space addr true = .ok key →
    (∀ d : State, s.isDet s.strand.id.lid = true →
      (s.det.adds.filter fun x => s.addSlice x == memSlice s.strand.die key).length < 4096 →
      u.detect s.strand.id key [3] = .ok d →
      Completes (exec (.amofaddDet a) s) fun t =>
        let w := (d.ahead (scalarOf s key (atBytes a.size) .rw false .none)).settleAtoms fun k => k / 8 == key / 8
        t.det.adds = w.det.adds ++ [⟨s.strand.id.lid, s.strand.id.squad, key, a.size, s.strand.id.detid, w.stamp, s.x a.rs2⟩] ∧
        SameBytes w t ∧ WroteX w t 0 0 ∧ t.pc = s.pc + 4 ∧
        (s.strand.stores = [] → (∀ x ∈ s.others, x.stores = []) → w = d ∧ SameBytes s t)) ∧
    (s.isDet s.strand.id.lid = false → s.atCheck .fadd (atBytes a.size) a.space addr false = .ok key →
      exec (.amofaddDet a) s = exec (.amofadd ⟨.plain, a.space, a.size, 0, a.rs1, a.rs2⟩) s)

/-- MFS of register `n` gives `v` to every xd and changes nothing else; on the compute slice a register that follows the vector
instructions is read once they have completed, and FCSR once no AMOFADD of the slice has flags to bring (R334, R368). -/
def MfsGives (s : State) (n : BitVec 12) (v : Word) : Prop :=
  (n = 0 → s.flagsComing = false) →
  (s.side = .compute → waitsForVector n.toNat = true → s.strand.q.vectorDone = true) →
    ∀ rd, Gives (exec (.mfs rd n) s) s rd v 4

/-- MFS completes for every listed register with its value, and traps PRIV or ILLEGAL where the register is out of reach (R9,
R292, R293, R294, R367, R368, 20_ref_f_o.md). Each register gives its field, zero-extended, on the slice and in the mode
that reach it; a supervisor register read at U traps PRIV; an unlisted number traps ILLEGAL; VBCONF gives its count,
which has grown by a free number just when a vector instruction has executed since the count was last known (log 6). -/
def Obligations.MfsReadsEveryRegister : Prop :=
  ∀ (s : State), let t := s.strand
    (∀ p ∈ [((0x000 : BitVec 12), BitVec.setWidth 64 s.cur.fcsr), (0x003, s.cur.vtypeWord), (0x004, BitVec.setWidth 64 s.cur.vstart),
        (0x007, BitVec.setWidth 64 t.sys.slip), (0x008, BitVec.setWidth 64 (t.qstatOf s.side)), (0x009, BitVec.setWidth 64 t.sys.lod),
        (0x00A, BitVec.setWidth 64 t.sys.lodcyc), (0x00C, if t.sys.ovf then 1 else 0),
        (0x010, BitVec.ofNat 64 (s.lgrant t.id.cluster)), (0x011, BitVec.ofNat 64 (s.mgrant t.id.cluster)),
        (0x012, t.coreloc s.side)], MfsGives s p.1 p.2) ∧
    (s.side = .access → MfsGives s 0x001 (BitVec.setWidth 64 t.acc.vl) ∧ MfsGives s 0x005 (BitVec.setWidth 64 t.sys.mtype)) ∧
    (s.side = .compute → MfsGives s 0x002 (BitVec.setWidth 64 t.cmp.vl) ∧ MfsGives s 0x006 (BitVec.setWidth 64 t.sys.spstat)) ∧
    (s.side = .access → t.trap.priv = true →
      (∀ p ∈ [((0x100 : BitVec 12), t.trap.tcause), (0x101, t.trap.taddr), (0x102, t.trap.tpca), (0x103, t.trap.tpcc),
          (0x104, BitVec.setWidth 64 t.trap.tstat), (0x105, t.trap.tscratch), (0x106, t.trap.tvec), (0x108, t.trap.ptbr),
          (0x109, 0), (0x10C, t.trap.savearea), (0x10D, t.trap.restaddr), (0x10E, if t.trap.vabsent then 1 else 0),
          (0x10F, BitVec.setWidth 64 t.vec.vdirty)], MfsGives s p.1 p.2) ∧
      (∀ k : Fin 4, MfsGives s (0x014 + BitVec.ofNat 12 k) (s.clmap k)) ∧
      (∀ r : Reg, r ≠ 0 → MfsGives s (0x140 + BitVec.ofNat 12 r) (t.regs.user.get r) ∧
        MfsGives s (0x160 + BitVec.ofNat 12 r) (t.regs.comp.get r))) ∧
    ((s.side = .compute → t.q.vectorDone = true) → ∀ rd, ∃ v : BitVec 48, Completes (exec (.mfs rd 0x00B) s) fun u =>
      u.strand.sys = { s.strand.sys with vbconf := v, vbrun := false } ∧ (t.sys.vbrun = false → v = t.sys.vbconf) ∧
      WroteX s u rd (BitVec.setWidth 64 v) ∧ SameBytes s u ∧ u.pc = s.pc + 4) ∧
    (s.atS = false → ∀ rd, ∀ n ∈ [(0x100 : BitVec 12), 0x101, 0x102, 0x103, 0x104, 0x105, 0x106, 0x108, 0x109, 0x10C, 0x10D, 0x10E,
      0x10F, 0x014, 0x015, 0x016, 0x017], exec (.mfs rd n) s = .next (s.trap 0x03 0)) ∧
    (∀ rd, ∀ n ∈ [(0x00D : BitVec 12), 0x013, 0x018, 0x107, 0x10A, 0x140, 0x160, 0x180],
      exec (.mfs rd n) s = .next (s.trap 0x01 (BitVec.ofNat 64 (encode (.mfs rd n) % 2 ^ 32))))

/-- MTS of `rs1` to register `n` completes and changes, outside the register, nothing but the PC; `put u` puts the old register
back into `u`. -/
def MtsSets (s : State) (n : BitVec 12) (rs1 : Reg) (put : State → State) (p : State → Prop) : Prop :=
  Completes (exec (.mts n rs1) s) fun t => p t ∧ Wrote s (put t) 0 0 (s.pc + 4) (put t).cur.fcsr ∧ (put t).cur.fcsr = s.cur.fcsr

/-- The strand's own registers put back. -/
def putSys (s u : State) : State := { u with strand := { u.strand with sys := s.strand.sys } }
/-- The trap registers put back. -/
def putTrap (s u : State) : State := { u with strand := { u.strand with trap := s.strand.trap } }
/-- The register banks put back. -/
def putRegs (s u : State) : State := { u with strand := { u.strand with regs := s.strand.regs } }
/-- FCSR and VSTART of the slice in turn put back. -/
def putSlice (s u : State) : State := u.setCur { u.cur with fcsr := s.cur.fcsr, vstart := s.cur.vstart }

/-- MTS completes for every writable register: the register takes the value, nothing else changes but the PC (R292, R294, R117,
R260, R367, R368, 20_ref_f_o.md). The writable registers take the low bits of xs1 where the value is one that their rules
admit, TSTAT only in SLICE and PPRIV; a value refused, a read-only register or an unlisted one traps ILLEGAL, and a
supervisor register at U traps PRIV. -/
def Obligations.MtsWritesEveryRegister : Prop :=
  ∀ (s : State) (r : Reg), let v := s.x r; let t := s.strand
    ((s.side = .compute → t.q.vectorDone = true) →
      (v.toNat / 2 ^ 10 % 8 < 5 → s.flagsComing = false → MtsSets s 0x000 r (putSlice s) fun u => u.cur.fcsr = BitVec.setWidth 13 v) ∧
      MtsSets s 0x00B r (putSys s) (fun u => u.strand.sys = { t.sys with vbconf := BitVec.setWidth 48 v, vbrun := false }) ∧
      (s.side = .compute → MtsSets s 0x006 r (putSys s) fun u => u.strand.sys = { t.sys with spstat := BitVec.setWidth 2 v }) ∧
      MtsSets s 0x009 r (putSys s) (fun u => u.strand.sys = { t.sys with lod := BitVec.setWidth 48 v }) ∧
      MtsSets s 0x00A r (putSys s) (fun u => u.strand.sys = { t.sys with lodcyc := BitVec.setWidth 48 v }) ∧
      MtsSets s 0x00C r (putSys s) (fun u => u.strand.sys = { t.sys with ovf := v.getLsbD 0 })) ∧
    (s.side = .access → v.toNat < 4 → MtsSets s 0x005 r (putSys s) fun u => u.strand.sys = { t.sys with mtype := BitVec.setWidth 2 v }) ∧
    (s.side = .access → t.trap.priv = true →
      MtsSets s 0x004 r (putSlice s) (fun u => u.cur.vstart = BitVec.setWidth 24 v) ∧
      (1 ≤ v.toNat ∧ v.toNat ≤ 8 → MtsSets s 0x007 r (putSys s) fun u => u.strand.sys = { t.sys with slip := BitVec.setWidth 4 v }) ∧
      (v.toNat < 2 ^ 17 → MtsSets s 0x100 r (putTrap s) fun u => u.strand.trap = { t.trap with tcause := v }) ∧
      MtsSets s 0x101 r (putTrap s) (fun u => u.strand.trap = { t.trap with taddr := v }) ∧
      MtsSets s 0x102 r (putTrap s) (fun u => u.strand.trap = { t.trap with tpca := v }) ∧
      MtsSets s 0x103 r (putTrap s) (fun u => u.strand.trap = { t.trap with tpcc := v }) ∧
      (v.toNat < 2 ^ 53 ∧ v.getLsbD 2 = false → ∃ w : BitVec 53,
        (∀ i, w.getLsbD i = if i < 3 then v.getLsbD i else t.trap.tstat.getLsbD i) ∧
        MtsSets s 0x104 r (putTrap s) fun u => u.strand.trap = { t.trap with tstat := w }) ∧
      MtsSets s 0x105 r (putTrap s) (fun u => u.strand.trap = { t.trap with tscratch := v }) ∧
      (v.toNat % 2 = 0 ∧ v.toNat < 2 ^ 56 → MtsSets s 0x106 r (putTrap s) fun u => u.strand.trap = { t.trap with tvec := v }) ∧
      (v.toNat % 2 ^ 11 < 2 ∧ v.toNat < 2 ^ 52 → MtsSets s 0x108 r (putTrap s) fun u => u.strand.trap = { t.trap with ptbr := v }) ∧
      MtsSets s 0x109 r (fun u => { u with tlb := s.tlb }) (fun u => ∀ e, e ∈ u.tlb ↔
        e ∈ s.tlb ∧ v.getLsbD 63 = false ∧ e.vpn ≠ v.toNat / 2 ^ 16 % 2 ^ 40) ∧
      (∀ k : Reg, k ≠ 0 →
        MtsSets s (0x140 + BitVec.ofNat 12 k) r (putRegs s) (fun u => u.strand.regs.super = t.regs.super ∧
          u.strand.regs.comp = t.regs.comp ∧ ∀ j : Reg, u.strand.regs.user.get j = if j = k then v else t.regs.user.get j) ∧
        MtsSets s (0x160 + BitVec.ofNat 12 k) r (putRegs s) (fun u => u.strand.regs.super = t.regs.super ∧
          u.strand.regs.user = t.regs.user ∧ ∀ j : Reg, u.strand.regs.comp.get j = if j = k then v else t.regs.comp.get j))) ∧
    (s.atS = false → ∀ n ∈ [(0x004 : BitVec 12), 0x007, 0x100, 0x101, 0x102, 0x103, 0x104, 0x105, 0x106, 0x108, 0x109],
      exec (.mts n r) s = .next (s.trap 0x03 0)) ∧
    (∀ p ∈ [((0x000 : BitVec 12), 5 ≤ v.toNat / 2 ^ 10 % 8), (0x005, s.side = .access ∧ 4 ≤ v.toNat),
        (0x007, s.atS = true ∧ (v = 0 ∨ 8 < v.toNat)), (0x100, s.atS = true ∧ 2 ^ 17 ≤ v.toNat),
        (0x104, s.atS = true ∧ (2 ^ 53 ≤ v.toNat ∨ v.getLsbD 2 = true)), (0x106, s.atS = true ∧ (v.toNat % 2 = 1 ∨ 2 ^ 56 ≤ v.toNat)),
        (0x108, s.atS = true ∧ (2 ≤ v.toNat % 2 ^ 11 ∨ 2 ^ 52 ≤ v.toNat))],
      p.2 → exec (.mts p.1 r) s = .next (s.trap 0x01 (BitVec.ofNat 64 (encode (.mts p.1 r) % 2 ^ 32)))) ∧
    (∀ n ∈ [(0x001 : BitVec 12), 0x002, 0x003, 0x008, 0x010, 0x011, 0x012, 0x014, 0x015, 0x016, 0x017, 0x10C, 0x10D, 0x10E, 0x10F, 0x013,
        0x107],
      exec (.mts n r) s = .next (s.trap 0x01 (BitVec.ofNat 64 (encode (.mts n r) % 2 ^ 32))))

/-- The strand in focus has taken a trap (R261): the trap registers hold the cause, the address, both slices' addresses, the slice,
the old privilege, ACK 0, RESUME 0, ELEM and the occupancies; the access slice is at S at the address of TVEC and the compute slice
is held; registers, vector state, memory and the rest of the machine are as they were once the loads that wait have their data, and
nobody waits any longer for an answer in the name of its slices. -/
structure TookTrap (s t : State) (code : Nat) (addr : Word) (compute : Bool) (tpca tpcc : Word) (elem : BitVec 24) : Prop where
  cause : t.strand.trap.tcause = BitVec.ofNat 64 code
  addr : t.strand.trap.taddr = addr
  tpca : t.strand.trap.tpca = tpca
  tpcc : t.strand.trap.tpcc = tpcc
  slice : t.strand.trap.tstat.getLsbD 0 = compute
  ppriv : t.strand.trap.tstat.getLsbD 1 = s.strand.trap.priv
  reserved : t.strand.trap.tstat.getLsbD 2 = false
  ack : t.strand.trap.tstat.getLsbD 3 = false
  resume : t.strand.trap.tstat.getLsbD 4 = false
  elem : t.strand.trap.tstat.extractLsb' 5 24 = elem
  occupancies : t.strand.trap.tstat.extractLsb' 29 24 = t.strand.qstat
  priv : t.strand.trap.priv = true
  held : t.strand.trap.held = true
  handler : t.strand.acc.pc = s.strand.trap.tvec &&& 0x00FFFFFFFFFFFFFE
  scratch : t.strand.trap.tscratch = s.strand.trap.tscratch
  vector : t.strand.trap.tvec = s.strand.trap.tvec
  table : t.strand.trap.ptbr = s.strand.trap.ptbr
  regs : t.strand.regs = s.finishLoads.strand.regs
  vec : t.strand.vec = s.strand.vec
  special : t.strand.sys = s.strand.sys
  loads : ∀ a ∈ t.strand.stores, a.loads = []
  memory : SameBytes s.finishLoads t
  requests : ∀ r ∈ t.reqs, Requester.isSlice r.who s.strand.key = false
  rest : SameRest s.finishLoads { t with reqs := s.reqs }

/-- Where a trap that is not the compute slice's stops it: at a FENCE at the young end of its queue which nothing younger has passed, which
executes again, and otherwise at its PC (R357; log 77). -/
def stopPc (s : State) : Word :=
  match s.strand.q.viq.getLast? with
  | some e => if isFence e.ins = true ∧ e.passed = false then e.addr else s.strand.cmp.pc
  | none => s.strand.cmp.pc

/-- The instruction that comes next on the access slice, with its PC at an address. -/
def accessInstr (s : State) (pc : Word) : Option Instr :=
  ({ s with side := .access, strand := { s.strand with acc := { s.strand.acc with pc := pc } } } : State).nextInstr

/-- TRAP takes BREAK: saved registers, status, mode and handler address, for each slice and mode (R73, R261, R262, R272, R410,
R411, R442, 11_traps.md, 21_ref_p_u.md). On the compute slice the trap is entered at once, with TPCC behind the TRAP and TPCA behind the VLSYNCs that
come next on the access slice, which are in force (up to 16,384 of them, log 81); while the access slice waits
for an answer the compute slice stands stopped there on its fault. At S after the TACK the access slice enters it again; at U the access slice
stands stopped behind the TRAP with the cause until the compute slice stops, or, when that slice stands stopped on a fault of its own, the trap
is entered with that fault. When the compute slice has stopped, the turn enters the trap with the access slice's cause, where code 0x8B shows
as MEMERR with STATE = 1 and TADDR 0. -/
def Obligations.TrapEntry : Prop :=
  ∀ (s : State) (imm : BitVec 12),
    (s.side = .compute → s.strand.trap.accStop = none → s.strand.acc.waitReq = none →
      Completes (exec (.trap imm) s) fun t =>
        let p := (s.advance 4).pastVlsync
        TookTrap p t 0x12 (BitVec.setWidth 64 imm) true p.strand.acc.pc (s.strand.cmp.pc + 4) s.strand.cmp.vstart) ∧
    (let p := s.pastVlsync
      ∃ n ≤ 16384, (∀ k < n, accessInstr s (s.strand.acc.pc + BitVec.ofNat 64 (4 * k)) = some .vlsync) ∧
        (n = 16384 ∨ accessInstr s (s.strand.acc.pc + BitVec.ofNat 64 (4 * n)) ≠ some .vlsync) ∧
        p.strand.acc.pc = s.strand.acc.pc + BitVec.ofNat 64 (4 * n) ∧
        p = { s with strand := { s.strand with stores := p.strand.stores, issued := p.strand.issued, acc := { s.strand.acc with
          pc := p.strand.acc.pc, stall := if n = 0 then s.strand.acc.stall else none } } } ∧
        ∃ edges, p.strand.stores = s.strand.stores ++ edges ∧ ∀ x ∈ edges,
          x.edge = some ⟨some .vector, .rw, some .vector, .rw, false⟩ ∧ x.mslices = [] ∧ x.targets = [] ∧ x.loads = []) ∧
    (s.side = .compute → s.strand.trap.accStop = none → s.strand.acc.waitReq.isSome = true →
      exec (.trap imm) s = .next ((s.advance 4).wait (.fault ⟨0x12, BitVec.setWidth 64 imm⟩))) ∧
    (s.side = .access → s.strand.trap.priv = true → s.strand.trap.ack = true →
      Completes (exec (.trap imm) s) fun t =>
        TookTrap s t 0x12 (BitVec.setWidth 64 imm) false (s.strand.acc.pc + 4) (stopPc s) 0) ∧
    (s.side = .access → s.strand.trap.priv = false → ∀ c, s.strand.cmp.stall = some (.fault c) →
      Completes (exec (.trap imm) s) fun t => t.strand.trap.tcause = BitVec.ofNat 64 (c.code.toNat % 128 + if c.code.getLsbD 7 then 0x10000 else 0) ∧
        t.strand.trap.tstat.getLsbD 0 = true ∧ t.strand.trap.tpcc = s.strand.cmp.pc ∧ t.strand.trap.held = true) ∧
    (s.side = .access → s.strand.trap.priv = false → (∀ c, s.strand.cmp.stall ≠ some (.fault c)) →
      Completes (exec (.trap imm) s) fun t =>
        let u := s.drain fun a => !a.loads.isEmpty && a.side == .access
        t.strand.trap = { s.strand.trap with accStop := some ⟨0x12, BitVec.setWidth 64 imm⟩ } ∧
        t.strand.acc.pc = s.strand.acc.pc + 4 ∧ t.strand.acc.vstart = 0 ∧ t.strand.cmp = u.strand.cmp ∧
        t.strand.regs = u.strand.regs ∧ t.strand.vec = s.strand.vec ∧ SameBytes u t ∧ SameRest u { t with reqs := s.reqs }) ∧
    (∀ c : Trap, s.strand.trap.accStop = some c → s.strand.trap.dead = false → s.computeStopped = true →
      ∃ t, s.begin = .over t ∧ TookTrap s t (c.code.toNat % 128 + if c.code.getLsbD 7 then 0x10000 else 0)
        (if c.code.getLsbD 7 then 0 else c.addr) false s.strand.acc.pc (stopPc s) s.strand.acc.vstart)

/-- What the hub does with a record of 64 bytes (R280): with the queue off or full and room among the held records it holds it, without
writing memory; with the queue on, room in it and nothing held it writes it at the tail and advances EQTAIL. -/
def RecordPosted (s t : State) (r : List Byte) : Prop :=
  let e := s.hub.events
  (e.held.length < 4096 → (e.en && e.room) = false → t.hub.events = { e with held := e.held ++ [r] } ∧ t.mem = s.mem) ∧
  (e.held = [] → e.en = true → e.room = true → s.MemoryCanonical →
    t.hub.events.tail = e.tail + 1 ∧ t.hub.events.held = [] ∧
    t.mem.read (baseKey e.base + e.tail.toNat % 2 ^ (e.size.toNat % 32) * 64) 64 = r)

/-- A trap at S before the TACK is a double fault; supervisor instructions trap PRIV at U and ILLEGAL on the compute slice
(R258, R264, R265, R277, 11_traps.md). At S with ACK = 0 a TRAP of a strand whose launch is in flight halts both slices where they stand, puts
the second cause into TCAUSE[15:8] and leaves the other trap registers, the hub posts the DOUBLE record with both causes, the place and the
addresses, and then the launch is aborted: its LID is kept among the rejected ones and it is in flight no more. TACK, TRET and SEAL at U trap
PRIV, and on the compute slice ILLEGAL. -/
def Obligations.DoubleFaultAndSupervisorTraps : Prop :=
  ∀ (s : State) (imm : BitVec 12) (a : R3),
    (s.side = .access → s.strand.trap.priv = true → s.strand.trap.ack = false → let lid := s.strand.id.lid; let r := s.strand.trap
      s.inFlight lid = true →
      Completes (exec (.trap imm) s) fun t => ∃ (c : Word) (u v : State),
        c.toNat / 256 % 256 = 0x12 ∧ c.toNat % 256 = r.tcause.toNat % 256 ∧ c.toNat / 65536 = r.tcause.toNat / 65536 ∧
        u.strand = { s.strand with acc := u.strand.acc, trap := { r with tcause := c, dead := true } } ∧ u.strand.acc.pc = s.strand.acc.pc ∧
        u.canRun = false ∧ SameBytes s u ∧ SameRest s u ∧
        v = { u with mem := v.mem, hub := { u.hub with events := v.hub.events } } ∧
        RecordPosted u v ((lidRecord 0x04 0 lid (leBytes 1 (r.tcause.toNat % 256) ++ [0x12] ++ leBytes 2 s.strand.id.cluster
          ++ leBytes 1 s.strand.id.pair ++ [0, 0, 0] ++ leBytes 8 r.tpca.toNat ++ leBytes 8 r.tpcc.toNat ++ leBytes 8 r.taddr.toNat)
          ++ List.replicate 64 0).take 64) ∧
        t = v.abort lid 2 ∧ (∀ l ∈ t.launches, l.pkt.lid ≠ lid) ∧ lid ∈ t.hub.rejected) ∧
    (∀ i ∈ [Instr.tack, .tret, .seal a],
      (s.side = .compute → exec i s = .next (s.trap 0x01 (BitVec.ofNat 64 (encode i % 2 ^ 32)))) ∧
      (s.side = .access → s.strand.trap.priv = false → exec i s = .next (s.trap 0x03 0)))

/-- TACK sets ACK and changes nothing else but the PC; TRET with ACK = 1 resumes both slices at TPCA and TPCC in the saved mode
(R264, R409, R412, R413, 21_ref_p_u.md). TACK: every trap register but TSTAT.ACK keeps its value. TRET: the handler's stores
are performed, both PCs are the saved ones, the mode is TSTAT.PPRIV and the compute slice is held just when the mode is S.
TRET with ACK = 0 is ILLEGAL. -/
def Obligations.TackAndTret : Prop :=
  ∀ (s : State), s.side = .access → s.strand.trap.priv = true →
    Completes (exec .tack s) (fun t =>
      (∃ w, t.strand.trap = { s.strand.trap with tstat := w } ∧
        ∀ i, w.getLsbD i = if i = 3 then true else s.strand.trap.tstat.getLsbD i) ∧
      Wrote s { t with strand := { t.strand with trap := s.strand.trap } } 0 0 (s.pc + 4) s.cur.fcsr) ∧
    (s.strand.trap.ack = true →
      (s.strand.trap.tstat.getLsbD 1 = true ∨ (s.strand.q.viq = [] ∧ s.strand.trap.preempt = false ∧
        (s.strand.acc.halted = false ∨ s.strand.cmp.halted = false))) →
      Completes (exec .tret s) fun t =>
        let u := s.drainSide .access
        t.strand.acc.pc = s.strand.trap.tpca ∧ t.strand.cmp.pc = s.strand.trap.tpcc ∧
        t.strand.trap = { s.strand.trap with priv := s.strand.trap.tstat.getLsbD 1, held := s.strand.trap.tstat.getLsbD 1 } ∧
        t.strand.regs = u.strand.regs ∧ t.strand.vec = s.strand.vec ∧ t.strand.q = u.strand.q ∧
        t.strand.sys = s.strand.sys ∧ SameBytes u t ∧ SameRest u t) ∧
    (s.strand.trap.ack = false → exec .tret s = .next (s.trap 0x01 (BitVec.ofNat 64 (encode .tret % 2 ^ 32))))

/-- HALT halts its slice at U once what it waits for is there; at S it parks the strand in a PREEMPT handler or halts the access
slice (R34, R266, R317, R358, 20_ref_f_o.md). With the partner still running, the slice is halted with its stores performed
and nothing else changed; at S with ACK = 1 and the PREEMPT cause the strand is parked, and otherwise it does not run again. -/
def Obligations.HaltStopsItsSlice : Prop :=
  ∀ (s : State),
    (s.side = .access → s.strand.trap.priv = false → s.accessQuiet = true → s.strand.cmp.halted = false →
      Completes (exec .halt s) fun t =>
        let u := s.drainSide .access
        t.strand = { u.strand with acc := { u.strand.acc with halted := true, stall := none } } ∧ SameBytes u t ∧ SameRest u t) ∧
    (s.side = .compute → s.strand.q.allDone = true → s.strand.acc.halted = false →
      Completes (exec .halt s) fun t =>
        let u := s.drainSide .compute
        t.strand = { u.strand with cmp := { u.strand.cmp with halted := true, stall := none } } ∧ SameBytes u t ∧ SameRest u t) ∧
    (s.side = .access → s.strand.trap.priv = true →
      (s.strand.trap.ack = true → s.strand.trap.tcause.toNat % 256 = 0x17 →
        Completes (exec .halt s) fun t => t.strand.trap = { s.strand.trap with parked := true } ∧ t.strand.stores = [] ∧
          t.canRun = false ∧ SameRest s.drainAll t) ∧
      (s.strand.trap.ack = false → Completes (exec .halt s) fun t => t.strand.trap = { s.strand.trap with dead := true } ∧
          t.canRun = false ∧ SameBytes s t ∧ SameRest s t))

/-- An ordering instruction goes on without a wait: at most `n` edges, which write and read nothing, join the accesses that wait, and when a later
access of the slice is performed, no earlier one that `before` names is left waiting. -/
def Orders (s : State) (o : Out) (n : Nat) (before : Access → Access → Prop) : Prop :=
  Completes o fun t =>
    (∃ edges, t.strand.stores = s.strand.stores ++ edges ∧ edges.length ≤ n ∧ (s.strand.stores = [] → edges = []) ∧
      ∀ x ∈ edges, x.edge ≠ none ∧ x.mslices = [] ∧ x.targets = [] ∧ x.loads = []) ∧
    Wrote s { t with strand := { t.strand with stores := s.strand.stores, issued := s.strand.issued } } 0 0 (s.pc + 4) s.cur.fcsr ∧
    ∀ y : Access, y.side = s.side → y.edge = none →
      ∀ x ∈ (t.ahead y).strand.stores, x.side = s.side → x.edge = none → ¬ before x y

/-- SVFENCE, VLSYNC, FENCE and CONVOY complete, order the accesses that they name and change nothing else but the PC (R204,
R205, R210, R343, R356, R357, R408, R442, 20_ref_f_o.md). Behind a SVFENCE no access of the one path is performed before those of the other
path that precede the SVFENCE, behind a VLSYNC no vector access before the earlier vector accesses, behind a FENCE below SYSTEM scope no access
of a kind in succ before the earlier ones of a kind in pred. A FENCE at SYSTEM scope performs the accesses of a kind in pred, and with R in
succ it drops clean copies and marks fills on their way as stale; on the compute slice a FENCE behind memory instructions of the vector
instruction queue joins that queue. CONVOY with DET = 0 is a NOP and with DET = 1 becomes a marker in the queue. -/
def Obligations.FencesPerformEarlierStores : Prop :=
  ∀ (s : State),
    ((s.side = .compute → s.strand.q.memoryWaits = false) →
      Orders s (exec .svfence s) 2 (fun x y => x.path ≠ y.path) ∧
      ((s.side = .compute → s.strand.q.viq.length < 32) → ∀ pred succ,
        (∀ sc, sc ≠ .system → Orders s (exec (.fence sc pred succ) s) 1 fun x y => OfKind pred x.kind ∧ OfKind succ y.kind) ∧
        (let u := s.ahead { scalarOf s 0 0 .rw false .none with mslices := [], edge := some ⟨none, pred, none, succ, false⟩ };
          (∀ x ∈ u.strand.stores, x.side = s.side → x.edge = none → ¬ OfKind pred x.kind) ∧
          ((pred ≠ .r → NothingFar u) →
            (s.side = .compute → s.strand.q.headStall = none ∧ s.strand.q.headReq = none ∧ s.strand.q.headReply = none) →
            Completes (exec (.fence .system pred succ) s) fun t =>
              Wrote (if succ ≠ .w then u.invalidateClean u.strand.die else u) t 0 0 (s.pc + 4) u.cur.fcsr)))) ∧
    (s.side = .access → Orders s (exec .vlsync s) 1 fun x y => x.path = .vector ∧ y.path = .vector) ∧
    (s.side = .compute →
      (s.strand.q.memoryWaits = true → s.strand.q.viq.length < 32 → ∀ sc pred succ, Completes (exec (.fence sc pred succ) s) fun t =>
        t.strand.q = { s.strand.q with
          viq := s.strand.q.viq ++ [⟨.fence sc pred succ, 0, 0, s.pc, none, false, s.stamp, s.strand.issued, false⟩] } ∧
        Wrote s { t with strand := { t.strand with q := s.strand.q } } 0 0 (s.pc + 4) s.cur.fcsr) ∧
      (s.isDet s.strand.id.lid = false → GoesTo (exec .convoy s) s (s.pc + 4)) ∧
      (s.isDet s.strand.id.lid = true → s.strand.q.viq.length < 32 →
        Completes (exec .convoy s) fun t =>
          (∃ w, t.strand.q = { s.strand.q with
            viq := s.strand.q.viq ++ [⟨.convoy, 0, 0, s.pc, none, w, s.stamp + 1, s.strand.issued, false⟩] }) ∧
          Wrote s { t with delays := s.delays, stamp := s.stamp, strand := { t.strand with q := s.strand.q } } 0 0 (s.pc + 4) s.cur.fcsr))

/-- LTRIG at DEVICE or SYSTEM scope marks its strand as triggered behind a release, and the last one fires the launch's trigger
(R48, R49, R364, 02_strands.md). The slice's earlier accesses are performed and the strand has triggered; when every squad is
placed, no other strand of the launch is left to trigger and none is saved, the trigger of the launch fires. Where a strand of the launch
has completed without triggering, the die holds no copy of a HOST or REMOTE line. -/
def Obligations.LaunchTriggers : Prop :=
  ∀ (s : State) (sc : Scope), (sc = .device ∨ sc = .system) → (s.side = .compute → s.strand.q.memoryWaits = false) →
    let u := s.settleOwn
    (sc = .system → NothingFar u) → (s.launchOf s.strand.id.lid).loose = [] ∨ u.l2 = [] →
    Completes (exec (.ltrig sc) s) fun t =>
      t.strand.id = { s.strand.id with trigger := true } ∧
      Wrote u { t with launches := s.launches, strand := { t.strand with id := s.strand.id } } 0 0 (s.pc + 4) u.cur.fcsr ∧
      (s.inFlight s.strand.id.lid = true → s.strand.resident = true → (s.launchOf s.strand.id.lid).saved = [] →
        (s.launchOf s.strand.id.lid).pkt.squads.toNat ≤ (s.launchOf s.strand.id.lid).nextSquad →
        (s.launchOf s.strand.id.lid).loose = [] → (s.launchOf s.strand.id.lid).firing = [] →
        (∀ x ∈ s.others, x.id.lid = s.strand.id.lid → x.id.trigger = true) →
        (t.launchOf s.strand.id.lid).triggered = true)

/-- The place of the leaf entry of a page in the tables at the strand's root, as they stand in memory (R179, R180). -/
def sealedLeaf (m : Memory) (ptbr : Word) (va : Nat) : Option Nat :=
  leafEntryKey m va 4 (tableKey (ptbr.toNat % 4) (bits ptbr.toNat 8 44 * 256))

/-- SEAL of readable near pages records the region with the SM3 digest of its bytes, marks its leaf entries and gives its number
(R180, R279, R397, R398, 11_traps.md, 21_ref_p_u.md). With an aligned base and a non-zero aligned length of at most 2^36, every
page readable, near and without error, and a free region: xd takes the region's number, the hub holds base, length, pages
and digest, the SEALED bit of the leaf entry of every page of the range is set, and no other bit of memory changes. With all 64 regions in use
xd takes all ones and nothing is sealed. The waiting accesses of the slice, and every strand's that write to the range, are performed first;
then the buffered adds to it, which is the model's reading (log 13). -/
def Obligations.SealMeasuresItsPages : Prop :=
  ∀ (s : State) (a : R3) (pages : List Nat), let base := s.x a.rs1; let len := s.x a.rs2
    let u := s.settleOwn.drainEach fun x => x.targets.any fun c => pages.any fun k => k ≤ c && c < k + 65536
    s.side = .access → s.strand.trap.priv = true → base.toNat % 65536 = 0 → len.toNat % 65536 = 0 → len ≠ 0 → len.toNat ≤ 2 ^ 36 →
    s.sealPages base.toNat (len.toNat / 65536) = .ok pages → (∀ k ∈ pages, isFar k = false) →
    (s.hub.seals.length < 64 → (∀ k ∈ pages, ∀ b ∈ s.bad, ¬ (k ≤ b ∧ b < k + 65536)) →
      Completes (exec (.seal a) s) fun t => let v := u.applyPages pages
        let leaf (i : Nat) : Option Nat := sealedLeaf v.mem s.strand.trap.ptbr (base.toNat + 65536 * i)
        t.hub = { v.hub with seals := s.hub.seals ++
          [⟨base, len, pages, Config.sm3 (pages.flatMap fun k => v.mem.read k 65536)⟩] } ∧
        (∀ i k, i < len.toNat / 65536 → leaf i = some k → t.mem.get k = v.mem.get k ||| 0x80) ∧
        (∀ k, (∀ i, i < len.toNat / 65536 → leaf i ≠ some k) → t.mem.get k = v.mem.get k) ∧ t.l2 = v.l2 ∧
        WroteX u t a.rd (BitVec.ofNat 64 s.hub.seals.length) ∧ KeepsStrand u t (u.pc + 4) u.cur.fcsr ∧
        t.strand.stores = u.strand.stores ∧ SameRest v { t with hub := v.hub }) ∧
    (64 ≤ s.hub.seals.length → Completes (exec (.seal a) s) fun t =>
      Wrote u t a.rd 0xFFFFFFFFFFFFFFFF (u.pc + 4) u.cur.fcsr)

/-- The queues of the strand put back. -/
def putQ (s u : State) : State := { u with strand := { u.strand with q := s.strand.q } }

/-- APUSH, CPUSH, APOP, CPOP, BQZ and BQNZ move the queues in order, and wait without effect on a full or empty one (R56, R58,
R61, R66, R335, R336, 03_slices.md). A push on its slice with room appends xs and changes nothing else; a pop takes the
oldest entry and orders what follows behind the partner's accesses before the push, and BQZ and BQNZ branch on it and count; a pop of a grant traps ILLEGAL
and the entry stays. A push to a full queue and a pop from an empty one change only the wait of the slice and, for BQZ and
BQNZ, the cycle count. -/
def Obligations.ScalarQueuesMoveInOrder : Prop :=
  ∀ (s : State) (x : Reg), let q := s.strand.q
    (s.side = .access → q.aq.length < 32 → Completes (exec (.apush x) s) fun t =>
      t.strand.q = { q with aq := q.aq ++ [⟨s.x x, false, s.strand.issued⟩] } ∧ Wrote s (putQ s t) 0 0 (s.pc + 4) s.cur.fcsr) ∧
    (s.side = .compute → q.cq.length < 32 → Completes (exec (.cpush x) s) fun t =>
      t.strand.q = { q with cq := q.cq ++ [⟨s.x x, s.strand.issued⟩] } ∧ Wrote s (putQ s t) 0 0 (s.pc + 4) s.cur.fcsr) ∧
    (∀ e rest, s.side = .compute → q.aq = e :: rest →
      (e.grant = false → Completes (exec (.apop x) s) fun t =>
        t.strand.q = { q with aq := rest } ∧ Wrote (s.popOrder e.mark) (putQ s t) x e.value (s.pc + 4) s.cur.fcsr) ∧
      (e.grant = true → exec (.apop x) s = .next (s.trap 0x01 (BitVec.ofNat 64 (encode (.apop x) % 2 ^ 32))))) ∧
    (∀ e rest, s.side = .access → q.cq = e :: rest → Completes (exec (.cpop x) s) fun t =>
      t.strand.q = { q with cq := rest } ∧ Wrote (s.popOrder e.mark) (putQ s t) x e.value (s.pc + 4) s.cur.fcsr) ∧
    (∀ (off : BitVec 11) e rest, s.side = .access → q.cq = e :: rest →
      let dest := s.pc + BitVec.ofInt 64 (off.toInt * 2)
      (Completes (exec (.bqz off) s) fun t =>
        t.strand.q = { q with cq := rest } ∧ t.strand.sys = { s.strand.sys with lod := s.strand.sys.lod + 1 } ∧
        Wrote (s.popOrder e.mark) (putSys s (putQ s t)) 0 0 (if e.value = 0 then dest else s.pc + 4) s.cur.fcsr) ∧
      (Completes (exec (.bqnz off) s) fun t =>
        t.strand.q = { q with cq := rest } ∧ t.strand.sys = { s.strand.sys with lod := s.strand.sys.lod + 1 } ∧
        Wrote (s.popOrder e.mark) (putSys s (putQ s t)) 0 0 (if e.value = 0 then s.pc + 4 else dest) s.cur.fcsr)) ∧
    (∀ (off : BitVec 11) (i : Instr), (s.side = .access ∧ 32 ≤ q.aq.length ∧ i = .apush x) ∨
        (s.side = .compute ∧ 32 ≤ q.cq.length ∧ i = .cpush x) ∨ (s.side = .compute ∧ q.aq = [] ∧ (i = .apop x ∨ i = .vsetlQ x)) ∨
        (s.side = .access ∧ q.cq = [] ∧ (i = .cpop x ∨ i = .bqz off ∨ i = .bqnz off)) →
      Completes (exec i s) fun t =>
        t.pc = s.pc ∧ t.strand.q = q ∧ t.partner = s.partner ∧ t.strand.regs = s.strand.regs ∧ t.strand.vec = s.strand.vec ∧
        t.strand.trap = s.strand.trap ∧ t.strand.stores = s.strand.stores ∧ t.strand.id = s.strand.id ∧ SameBytes s t ∧
        { t.strand.sys with lodcyc := s.strand.sys.lodcyc } = s.strand.sys ∧ SameRest s { t with fresh := s.fresh })

/-- VSETL, VSETL.Q, SLIP and MTSET complete with the grant, the lengths, the types, the registers and the frame they give (R56,
R63, R64, R87, R88, R90, R175, R373, R399, R446, 04_vectors.md). VSETL grants the request up to the granted lanes' elements,
sets VLA and its type and pushes the grant; VSETL.Q takes the grant, sets VLC and its type, and clears v0 to v31 and m0 to
m7 just when its type was illegal; SLIP and MTSET set their registers. -/
def Obligations.LengthGrantsAndModes : Prop :=
  ∀ (s : State) (rd xs : Reg),
    (∀ (w : EWidth) (bits : Nat), (w, bits) ∈ [(EWidth.e4, 4), (.e8, 8), (.e16, 16), (.e32, 32), (.e64, 64)] →
      s.side = .access → s.strand.q.aq.length < 32 →
      let lanes := s.strand.id.lanes; let lg := s.lgrant s.strand.id.cluster
      let g := min (s.x xs).toNat (min (lanes * 512 / bits) ((lanes * lg + 31) / 32 * 512 / bits))
      Completes (exec (.vsetl w rd xs) s) fun t =>
        t.strand.acc.vl = BitVec.ofNat 24 g ∧ t.strand.acc.legal = true ∧ t.strand.acc.width.toNat = w.code ∧
        t.strand.q = { s.strand.q with aq := s.strand.q.aq ++ [⟨BitVec.ofNat 64 (g + w.code * 2 ^ 32), true, s.strand.issued⟩] } ∧
        WroteX s t rd (BitVec.ofNat 64 g) ∧ t.pc = s.pc + 4 ∧ t.strand.cmp = s.strand.cmp ∧ t.strand.vec = s.strand.vec ∧
        t.strand.sys = s.strand.sys ∧ SameBytes s t ∧ SameRest s t) ∧
    (∀ e rest, s.side = .compute → s.strand.q.aq = e :: rest → e.grant = true →
      (s.strand.q.vectorDone = true ∨ (s.strand.cmp.legal = true ∧ s.strand.cmp.vl = e.value.extractLsb' 0 24 ∧
        s.strand.cmp.width = e.value.extractLsb' 32 3)) →
      Completes (exec (.vsetlQ rd) s) fun t =>
        t.strand.cmp.vl = e.value.extractLsb' 0 24 ∧ t.strand.cmp.legal = true ∧ t.strand.cmp.width = e.value.extractLsb' 32 3 ∧
        t.strand.q = { s.strand.q with aq := rest } ∧
        WroteX s t rd (BitVec.setWidth 64 (e.value.extractLsb' 0 32)) ∧ t.pc = s.pc + 4 ∧ t.strand.acc = s.strand.acc ∧
        (∀ r : VReg, t.strand.vec.v.get r = if s.strand.cmp.legal then s.strand.vec.v.get r else 0) ∧
        (∀ m : MReg, t.strand.vec.m.get m = if s.strand.cmp.legal then s.strand.vec.m.get m else 0) ∧
        t.strand.vec.f = s.strand.vec.f ∧ t.strand.vec.pdesc = s.strand.vec.pdesc ∧ t.strand.vec.dg = s.strand.vec.dg ∧
        SameBytes s t ∧ SameRest s t) ∧
    (s.side = .access →
      (1 ≤ (s.x xs).toNat ∧ (s.x xs).toNat ≤ 8 → Completes (exec (.slipReg xs) s) fun t =>
        t.strand.sys = { s.strand.sys with slip := BitVec.setWidth 4 (s.x xs) } ∧
        Wrote s (putSys s t) 0 0 (s.pc + 4) s.cur.fcsr) ∧
      (∀ n : BitVec 4, 1 ≤ n.toNat ∧ n.toNat ≤ 8 → Completes (exec (.slipImm n) s) fun t =>
        t.strand.sys = { s.strand.sys with slip := n } ∧ Wrote s (putSys s t) 0 0 (s.pc + 4) s.cur.fcsr) ∧
      (∀ p ∈ [(Instr.mtsetGlobal, (0 : BitVec 2)), (.mtsetSpad, 1), (.mtsetShared, 2), (.mtsetTcm, 3)],
        Completes (exec p.1 s) fun t =>
          t.strand.sys = { s.strand.sys with mtype := p.2 } ∧ Wrote s (putSys s t) 0 0 (s.pc + 4) s.cur.fcsr))

/-- BARINIT and BARINIT.SQ set an idle barrier's expected count, leave a busy one alone, and are ILLEGAL out of range (R39). On
a barrier whose arrival counter is 0 xd takes 0 and the expected count is xs, of 1 to 16, or 1 to 640 for a squad barrier;
on one whose counter is not 0 nothing but xd = 1 changes; xs or b out of range traps ILLEGAL, b for every barrier
instruction. -/
def Obligations.BarrierInitialisation : Prop :=
  ∀ (s : State) (a : KArgs), let n := (s.x a.xs).toNat; let i := s.strand.id
    (∀ (sq : Bool) (ins : Instr) (most : Nat),
      (sq, ins, most) ∈ [(false, Instr.barinit a, 16), (true, .barinitSq a, 640)] →
      (sq = true → a.b.toNat < 64) →
      (1 ≤ n ∧ n ≤ most → (s.barrier i sq a.b.toNat).count = 0 →
        (if sq then s.squads.any fun q => q.lid == i.lid && q.index == i.squad
          else s.gangs.any fun g => g.lid == i.lid && g.squad == i.squad && g.index == i.gang) = true →
        Completes (exec ins s) fun t =>
          t.barrier i sq a.b.toNat = { s.barrier i sq a.b.toNat with expected := n } ∧
          (∀ sq' b', (sq', b') ≠ (sq, a.b.toNat) → t.barrier i sq' b' = s.barrier i sq' b') ∧
          WroteX s t a.rd 0 ∧ KeepsStrand s t (s.pc + 4) s.cur.fcsr ∧ SameBytes s t ∧ t.strand.stores = s.strand.stores ∧
          SameRest s { t with gangs := s.gangs, squads := s.squads }) ∧
      (1 ≤ n ∧ n ≤ most → (s.barrier i sq a.b.toNat).count ≠ 0 →
        Completes (exec ins s) fun t =>
          (∀ sq' b', t.barrier i sq' b' = s.barrier i sq' b') ∧
          WroteX s t a.rd 1 ∧ KeepsStrand s t (s.pc + 4) s.cur.fcsr ∧ SameBytes s t ∧ t.strand.stores = s.strand.stores ∧
          SameRest s { t with gangs := s.gangs, squads := s.squads }) ∧
      (n < 1 ∨ most < n → exec ins s = .next (s.illegal ins))) ∧
    (∀ b : BitVec 9, 64 ≤ b.toNat → ∀ ins ∈ [Instr.barinitSq { a with b := b }, .barArriveSq b, .barSyncSq b],
      exec ins s = .next (s.illegal ins))

/-- BAR.ARRIVE and BAR.SYNC arrive: on the access slice at once behind its accesses, on the compute slice by a marker (R38, R41,
R211, R338, R340, 02_strands.md). An arrival below the expected count raises the counter by one; the last one sets it to 0
and advances the generation. The access slice's BAR.SYNC goes on when its own arrival completes the generation and waits
otherwise; on the compute slice both leave a marker in the vector instruction queue. -/
def Obligations.BarrierArrivals : Prop :=
  ∀ (s : State) (b : BitVec 9) (sq : Bool), let i := s.strand.id; let bar := s.barrier i sq b.toNat
    let arrive := if sq then Instr.barArriveSq b else .barArrive b
    let sync := if sq then Instr.barSyncSq b else .barSync b
    (sq = true → b.toNat < 64) →
    (if sq then s.squads.any fun q => q.lid == i.lid && q.index == i.squad
      else s.gangs.any fun g => g.lid == i.lid && g.squad == i.squad && g.index == i.gang) = true →
    (s.side = .access →
      (Completes (exec arrive s) fun t =>
        (t.barrier i sq b.toNat).count = (if bar.expected ≤ bar.count + 1 then 0 else bar.count + 1) ∧
        (t.barrier i sq b.toNat).gen = (if bar.expected ≤ bar.count + 1 then bar.gen + 1 else bar.gen) ∧
        (t.barrier i sq b.toNat).expected = bar.expected ∧
        WroteX s.settleOwn t 0 0 ∧ KeepsStrand s.settleOwn t (s.pc + 4) s.settleOwn.cur.fcsr ∧ (∀ st ∈ t.strand.stores, st.side ≠ .access)) ∧
      (s.strand.acc.barWait = none → Completes (exec sync s) fun t =>
        (t.barrier i sq b.toNat).count = (if bar.expected ≤ bar.count + 1 then 0 else bar.count + 1) ∧
        (bar.expected ≤ bar.count + 1 → t.pc = s.pc + 4 ∧ t.strand.acc.barWait = none) ∧
        (bar.count + 1 < bar.expected → t.pc = s.pc ∧ t.strand.acc.barWait = some ⟨sq, b.toNat, bar.gen⟩ ∧
          t.strand.acc.stall = some .barrier))) ∧
    (s.side = .compute → s.strand.cmp.barWait = none → s.strand.q.viq.length < 32 →
      (Completes (exec arrive s) fun t => (∃ w, t.strand.q = { s.strand.q with viq := s.strand.q.viq ++ [⟨arrive, 0, 0, s.pc, none, w, s.stamp + 1, s.strand.issued, false⟩] }) ∧
        WroteX s t 0 0 ∧ SameBytes s t ∧ t.pc = s.pc + 4) ∧
      ((s.strand.q.viq.any fun e => e.ins == sync) = false → Completes (exec sync s) fun t =>
        (∃ w, t.strand.q = { s.strand.q with viq := s.strand.q.viq ++ [⟨sync, 0, 0, s.pc, none, w, s.stamp + 1, s.strand.issued, false⟩] }) ∧
        WroteX s t 0 0 ∧ SameBytes s t ∧ t.pc = s.pc))

/-- VFORK starts a child on half of the lanes or writes 0; JOIN of a completed child takes the lanes back (R45, R46, R47, R101, R360,
R364, R437, 02_strands.md). Once the older vector, function and matrix instructions have completed, whatever markers wait: with room, a free
core pair and at least 8 lanes, the child stands at its two addresses with half of the lanes above the parent's, its own pair and empty
queues, has triggered just when its parent has, and xd names it; both lengths of the parent are 0 and its types
illegal. Without, xd = 0 and nothing else changes. The loads that wait have their data first. JOIN removes the child, and doubles the
lanes where the child's lanes, or those that a completed child no longer resident has left, adjoin the strand's and are as many, which is the
model's reading (log 54); a name that is no child's is ILLEGAL. -/
def Obligations.ForkAndJoin : Prop :=
  ∀ (s : State), s.side = .compute → s.strand.q.vectorDone = true → let v := s.finishLoads
    (∀ (a : R3), (s.x a.rs1).toNat % 2 = 0 → (s.x a.rs2).toNat % 2 = 0 →
      (∀ k ks, s.freePairs s.strand.id.cluster = k :: ks → 8 ≤ s.strand.id.lanes → s.strand.q.ldq = [] → s.strand.q.sdq = [] →
        s.strand.q.aq = [] →
        Completes (exec (.vfork a) s) fun t => ∃ c ∈ t.others, ∃ n : Nat,
          c.id.pair = k ∧ c.id.lanes = s.strand.id.lanes / 2 ∧ c.id.lane0 = s.strand.id.lane0 + s.strand.id.lanes / 2 ∧
          c.id.name = 8 + n ∧ c.id.parent = some s.strand.id.name ∧ c.id.trigger = s.strand.id.trigger ∧ c.cmp.pc = s.x a.rs1 ∧ c.acc.pc = s.x a.rs2 ∧
          c.cmp.halted = false ∧ c.acc.halted = false ∧ c.q = Queues.empty ∧ c.vec = VecState.zero ∧
          (∀ r : Reg, (4 ≤ r.val ∧ r.val ≤ 5) ∨ (8 ≤ r.val ∧ r.val < 16) →
            c.regs.comp.get r = v.strand.regs.comp.get r ∧ c.regs.user.get r = v.strand.regs.comp.get r) ∧
          c.regs.comp.get 3 = BitVec.ofNat 64 (8 + n) ∧
          t.strand.id.lanes = s.strand.id.lanes / 2 ∧ t.strand.cmp.legal = false ∧ t.strand.cmp.vl = 0 ∧
          t.strand.acc.legal = false ∧ t.strand.acc.vl = 0 ∧ t.x a.rd = (if a.rd = 0 then 0 else BitVec.ofNat 64 (1 + n)) ∧
          t.pc = s.pc + 4 ∧ (∀ u ∈ s.others, u ∈ t.others)) ∧
      (s.freePairs s.strand.id.cluster = [] ∨ s.strand.id.lanes < 8 ∨ s.strand.q.ldq ≠ [] ∨ s.strand.q.sdq ≠ [] ∨
        s.strand.q.aq ≠ [] → Gives (exec (.vfork a) s) v a.rd 0 4)) ∧
    (∀ (x : Reg) (c : Child), s.strand.id.children.find? (fun d => 1 + d.name == (s.x x).toNat) = some c → c.completed = true →
      Completes (exec (.join x) s) fun t =>
        (∀ k, (s.others.filter fun u => u.resident && u.id.sameGang s.strand.id && u.id.name == 8 + c.name) = [k] →
          k.id.lane0 = s.strand.id.lane0 + s.strand.id.lanes → k.id.lanes = s.strand.id.lanes → k.id.back = [] → k.id.children = [] →
          c.kept = [] → s.strand.id.back = [] → t.strand.id.lanes = s.strand.id.lanes * 2) ∧
        ((s.others.filter fun u => u.resident && u.id.sameGang s.strand.id && u.id.name == 8 + c.name) = [] →
          c.kept = [(s.strand.id.lane0 + s.strand.id.lanes, s.strand.id.lanes)] → s.strand.id.back = [] →
          t.strand.id.lanes = s.strand.id.lanes * 2) ∧
        t.strand.id.children = s.strand.id.children.filter (fun d => d.name != c.name) ∧
        (∀ u ∈ t.others, u ∈ s.others ∧ ¬ (u.resident = true ∧ u.id.sameSquad s.strand.id = true ∧ u.id.gang = s.strand.id.gang ∧
          u.id.name = 8 + c.name)) ∧
        t.strand.cmp.legal = false ∧ t.strand.cmp.vl = 0 ∧ t.strand.acc.legal = false ∧ t.strand.sys.mtype = 0 ∧
        t.strand.q = s.strand.q ∧ WroteX s t 0 0 ∧ SameBytes s t ∧ t.pc = s.pc + 4) ∧
    (∀ x : Reg, s.strand.id.children.find? (fun d => 1 + d.name == (s.x x).toNat) = none →
      exec (.join x) s = .next (s.illegal (.join x)))

/-- Element `i` is one that a vector instruction of the compute slice takes (R84): from VSTART to VLC − 1, and with its bit set in the
governing mask register. -/
def takes (s : State) (g : Gov) (i : Nat) : Bool :=
  decide (s.strand.cmp.vstart.toNat ≤ i) && decide (i < s.strand.cmp.vl.toNat) &&
    match g with
    | .none => true
    | .m1 => (s.strand.vec.m.get 1).getLsbD i
    | .m2 => (s.strand.vec.m.get 2).getLsbD i
    | .m3 => (s.strand.vec.m.get 3).getLsbD i

/-- Where a vector instruction of the compute slice runs at once (R86, R98, R268): a legal type, the vector state present, nothing
waiting in the vector instruction queue; and VLC is at most VLMAX of the strand's lanes (R80). -/
structure VCalm (s : State) : Prop where
  side : s.side = .compute
  legal : s.strand.cmp.legal = true
  present : s.strand.trap.vabsent = false
  idle : s.strand.q.viq = []
  lanes : 1 ≤ s.lanes ∧ s.lanes ≤ 32
  length : s.strand.cmp.vl.toNat ≤ s.vlmax s.vw

/-- The same for an instruction whose format register holds the format word `f` (R91, R94). -/
structure VReady (s : State) (fmt : Fin 8) (f : FmtWord) : Prop extends VCalm s where
  word : fmtParse (s.fmtReg fmt) = some f

/-- Everything but the vector, mask and function state and the compute slice, which is `c`, is as it was; the strand's record that conflicts
may have been counted since VBCONF was last known is set when the instruction `ran` (R97; log 6). -/
structure AroundVectors (s t : State) (c : Slice) (ran : Bool) : Prop where
  slice : t.strand.cmp = c
  partner : t.strand.acc = s.strand.acc
  identity : t.strand.id = s.strand.id
  regs : t.strand.regs = s.strand.regs
  queues : t.strand.q = s.strand.q
  special : t.strand.sys = { s.strand.sys with vbrun := s.strand.sys.vbrun || ran }
  trap : t.strand.trap = s.strand.trap
  stores : t.strand.stores = s.strand.stores
  counts : t.strand.issued = s.strand.issued ∧ t.strand.lost = s.strand.lost
  memory : SameBytes s t
  rest : SameRest s t

/-- The same, and the function state is as it was. -/
structure VFrame (s t : State) (c : Slice) : Prop extends AroundVectors s t c true where
  functions : t.strand.vec.f = s.strand.vec.f ∧ t.strand.vec.pdesc = s.strand.vec.pdesc ∧ t.strand.vec.dg = s.strand.vec.dg ∧
    t.strand.vec.fvalid = s.strand.vec.fvalid

/-- The compute slice behind a vector instruction that has completed (R83), with its FCSR. -/
def vafter (s : State) (fcsr : BitVec 13) : Slice :=
  { s.strand.cmp with pc := s.strand.cmp.pc + 4, stall := none, vstart := 0, fcsr := fcsr }

/-- In vd the elements of `on`, of `w` bits, have the low bits of the values `val`, its other elements, the other registers, their tags and the mask
registers are as they were (R85). -/
structure VWrote (s t : State) (vd : VReg) (w : Nat) (on : Nat → Bool) (val : Nat → Nat) : Prop where
  elements : ∀ i, i < s.vlmax w → t.vget vd w i = if on i then val i % 2 ^ w else s.vget vd w i
  others : ∀ r, r ≠ vd → t.strand.vec.v.get r = s.strand.vec.v.get r ∧ t.strand.vec.vvalid.get r = s.strand.vec.vvalid.get r
  dirty : ∀ b, b ≠ vd.val → t.strand.vec.vdirty.getLsbD b = s.strand.vec.vdirty.getLsbD b
  masks : t.strand.vec.m = s.strand.vec.m ∧ t.strand.vec.mvalid = s.strand.vec.mvalid

/-- In the mask register md the bits below VLC are `bit`; the other mask registers and the vector registers are as they were. -/
structure MWrote (s t : State) (md : MReg) (bit : Nat → Bool) : Prop where
  bits : ∀ i, i < s.strand.cmp.vl.toNat → (t.strand.vec.m.get md).getLsbD i = bit i
  others : ∀ m, m ≠ md → t.strand.vec.m.get m = s.strand.vec.m.get m ∧
    t.strand.vec.mvalid.getLsbD m.val = s.strand.vec.mvalid.getLsbD m.val
  vectors : t.strand.vec.v = s.strand.vec.v ∧ t.strand.vec.vvalid = s.strand.vec.vvalid

/-- The bits of a mask register from VLC upward are 0 (R84). -/
def topClear (s t : State) (md : MReg) : Prop := ∀ i, s.strand.cmp.vl.toNat ≤ i → (t.strand.vec.m.get md).getLsbD i = false

/-- A vector instruction completes, writes those elements of vd, and changes nothing else. -/
def VGives (o : Out) (s : State) (vd : VReg) (w : Nat) (on : Nat → Bool) (val : Nat → Nat) : Prop :=
  Completes o fun t => VWrote s t vd w on val ∧ VFrame s t (vafter s s.strand.cmp.fcsr)

/-- The flags that the elements of `on` below `n` raise together. -/
def raised (on : Nat → Bool) (fl : Nat → Flags) (n : Nat) : BitVec 5 :=
  (List.range n).foldl (fun b i => if on i then b ||| (fl i).toBits else b) 0

/-- How a vector instruction whose elements raise flags ends (R118, R417): without an enabled flag it completes; with one it stops at
the first such element `k`, VSTART = k, with the elements below done and their flags raised, and traps FPX with that element's
flags in TADDR. `wrote t on` says which elements `t` has. -/
def VEnds (o : Out) (s : State) (on : Nat → Bool) (fl : Nat → Flags) (wrote : State → (Nat → Bool) → Prop) : Prop :=
  let c := s.strand.cmp
  ((∀ i, on i = true → fcsrTraps c.fcsr (fl i) = false) → Completes o fun t =>
    wrote t on ∧ VFrame s t (vafter s (c.fcsr ||| BitVec.setWidth 13 (raised on fl c.vl.toNat)))) ∧
  (∀ k, on k = true → fcsrTraps c.fcsr (fl k) = true → (∀ i, i < k → on i = true → fcsrTraps c.fcsr (fl i) = false) →
    Completes o fun t => ∃ u, t = u.trap 0x15 (BitVec.setWidth 64 (fl k).toBits) ∧ wrote u (fun i => on i && decide (i < k)) ∧
      VFrame s u { c with vstart := BitVec.ofNat 24 k, fcsr := c.fcsr ||| BitVec.setWidth 13 (raised on fl k) })

/-- Bits of element `i` of the second source, at width `w` (R92). An immediate of VI wraps modulo 2^w: R92 says so for the N formats, and for
SRC2 = I4, where it may lie outside the element's range, it is the model's choice (log 60). -/
def second (s : State) (b : Src2) (w i : Nat) : Nat :=
  match b with
  | .vv v => s.vget v w i
  | .vs x => (s.x x).toNat % 2 ^ w
  | .vi n => (n.toInt % 2 ^ w).toNat

/-- The value of element `i` of the second source in the format SRC2, with its block's scale when SCALED is 1 (R92, R114). -/
def secondVal (s : State) (b : Src2) (f : FmtWord) (i : Nat) : Val :=
  match b with
  | .vv v => s.srcVal v f.src2 f.scaled i
  | b => f.src2.decode (second s b f.src2.width i)

/-- The fourteen elementwise integer vector instructions complete with their results and frame (R84, R85, R92, R94, R113, R419,
21_ref_p_u.md). With integer formats of the width of VTYPE and no scaling, each active element of vd takes the result of its
elements of vs1 and the second source, delivered into DST (wrapped, or clamped under SAT); for SRC2 = I4 an immediate of VI wraps modulo 16,
which is the model's choice (log 60); every other element, register and byte is as before. An illegal type or another width traps VTYPE, a format word that names no format ILLEGAL. -/
def Obligations.VectorIntegerResults : Prop :=
  ∀ (s : State) (a : VArgs), let w := s.vw
    let list := [Instr.vadd a, .vsub a, .vmul a, .vmulh a, .vdiv a, .vrem a, .vmin a, .vmax a, .vand a, .vor a, .vxor a, .vsll a,
      .vsrl a, .vsra a]
    (∀ f, VReady s a.fmt f → f.scaled = false → f.src1.isInt = true → f.src2.isInt = true → f.dst.isInt = true →
      f.src1.width = w → f.src2.width = w → f.dst.width = w →
      let on := takes s a.gov
      let x (i : Nat) : Nat := s.vget a.vs1 w i
      let y (i : Nat) : Nat := second s a.src2 w i
      let xi (i : Nat) : Int := f.src1.decodeInt (x i)
      let yi (i : Nat) : Int := f.src2.decodeInt (y i)
      let into (v : Int) : Nat := f.dst.deliverInt f.sat v
      VGives (exec (.vadd a) s) s a.vd w on (fun i => into (xi i + yi i)) ∧
      VGives (exec (.vsub a) s) s a.vd w on (fun i => into (xi i - yi i)) ∧
      VGives (exec (.vmul a) s) s a.vd w on (fun i => into (xi i * yi i)) ∧
      VGives (exec (.vmulh a) s) s a.vd w on (fun i => (xi i * yi i / 2 ^ w % 2 ^ w).toNat) ∧
      VGives (exec (.vdiv a) s) s a.vd w on (fun i => if yi i = 0 then 2 ^ w - 1 else into ((xi i).tdiv (yi i))) ∧
      VGives (exec (.vrem a) s) s a.vd w on (fun i => if yi i = 0 then x i else into ((xi i).tmod (yi i))) ∧
      VGives (exec (.vmin a) s) s a.vd w on (fun i => into (min (xi i) (yi i))) ∧
      VGives (exec (.vmax a) s) s a.vd w on (fun i => into (max (xi i) (yi i))) ∧
      VGives (exec (.vand a) s) s a.vd w on (fun i => x i &&& y i) ∧
      VGives (exec (.vor a) s) s a.vd w on (fun i => x i ||| y i) ∧
      VGives (exec (.vxor a) s) s a.vd w on (fun i => x i ^^^ y i) ∧
      VGives (exec (.vsll a) s) s a.vd w on (fun i => x i * 2 ^ (y i % w) % 2 ^ w) ∧
      VGives (exec (.vsrl a) s) s a.vd w on (fun i => x i / 2 ^ (y i % w)) ∧
      VGives (exec (.vsra a) s) s a.vd w on (fun i => ((BitVec.ofNat w (x i)).toInt / 2 ^ (y i % w) % 2 ^ w).toNat)) ∧
    (∀ i ∈ list, s.side = .access → exec i s = .next (s.illegal i)) ∧
    (∀ i ∈ list, s.side = .compute → fmtParse (s.fmtReg a.fmt) = none → exec i s = .next (s.illegal i)) ∧
    (∀ f, ∀ i ∈ list, s.side = .compute → fmtParse (s.fmtReg a.fmt) = some f → intOk a f = true →
      s.strand.cmp.legal = false ∨ (s.strand.trap.vabsent = false ∧ widths3 f w = false) → exec i s = .next (s.trap 0x02 0))

/-- The elementwise floating-point vector instructions complete with their results, flags and frame, or stop at the element that
traps FPX (R102, R114, R118, R417, R433, 21_ref_p_u.md). VFADD, VFSUB, VFMUL, VFDIV, VFMA, VFMS, VFNMA, VFMIN, VFMAX and
VFSQRT: each active element of vd takes the exact result on the decoded, scaled elements, rounded once into DST; flags join
FCSR; an enabled flag stops the instruction at its element. -/
def Obligations.VectorFloatingPointResults : Prop :=
  ∀ (s : State) (f : FmtWord), let w := s.vw
    (∀ a : VArgs, VReady s a.fmt f → fltOk a f = true → widths3 f w = true →
      let x (i : Nat) : Val := s.srcVal a.vs1 f.src1 f.scaled i
      let y (i : Nat) : Val := secondVal s a.src2 f i
      let d (i : Nat) : Val := f.dst.decode (s.vget a.vd w i)
      let ends (ins : Instr) (op : Nat → Val × Flags) : Prop :=
        VEnds (exec ins s) s (takes s a.gov) (fun i => (op i).2.or (f.dst.deliver f.rnd f.sat (op i).1).2) fun t on =>
          VWrote s t a.vd w on fun i => (f.dst.deliver f.rnd f.sat (op i).1).1
      ends (.vfadd a) (fun i => (x i).addExact f.rnd (y i)) ∧
      ends (.vfsub a) (fun i => (x i).addExact f.rnd (y i).negate) ∧
      ends (.vfmul a) (fun i => (x i).mulExact (y i)) ∧
      ends (.vfdiv a) (fun i => (x i).divExact (y i)) ∧
      ends (.vfma a) (fun i => Val.fmaExact f.rnd (x i) (y i) (d i)) ∧
      ends (.vfms a) (fun i => Val.fmaExact f.rnd (x i) (y i) (d i).negate) ∧
      ends (.vfnma a) (fun i => Val.fmaExact f.rnd (x i).negate (y i) (d i)) ∧
      ends (.vfmin a) (fun i => Val.minMax false (x i) (y i)) ∧
      ends (.vfmax a) (fun i => Val.minMax true (x i) (y i))) ∧
    (∀ a : VUArgs, VReady s a.fmt f → f.src1.isFlt = true → f.dst.isFlt = true → f.src1.width = w → f.dst.width = w →
      (f.scaled = true → f.src1.isMx = true ∧ a.vs1 ≠ 31) →
      let op (i : Nat) : Val × Flags := (s.srcVal a.vs1 f.src1 f.scaled i).sqrtExact
      VEnds (exec (.vfsqrt a) s) s (takes s a.gov) (fun i => (op i).2.or (f.dst.deliver f.rnd f.sat (op i).1).2) fun t on =>
        VWrote s t a.vd w on fun i => (f.dst.deliver f.rnd f.sat (op i).1).1)

/-- VFCVT converts or quantises and VWMA multiplies and adds into a register group, with their flags and frame (R95, R113, R115,
R434, R435, R436, R448). VFCVT delivers each active element into DST; with SCALED and an MX destination each block of 32
elements takes its shared scale in the next register and the elements divided by it, with the flags of every element, and an FPX of an
enabled one stops behind the elements below it and the scale of its block. VWMA adds the product to the 32-bit
elements of the group of 4 or 8 registers, each rounded once; for SRC2 = I4 an immediate of VI wraps modulo 16, which is the model's choice
(log 60). -/
def Obligations.VectorConversionsAndWideMultiplyAdd : Prop :=
  ∀ (s : State) (f : FmtWord),
    (∀ a : VUArgs, VReady s a.fmt f → cvtOk a f = true → max f.src1.width f.dst.width = s.vw →
      let on := takes s a.gov
      let val (i : Nat) : Val := s.srcVal a.vs1 f.src1 f.scaled i
      ((f.scaled && f.dst.isMx) = false →
        VEnds (exec (.vfcvt a) s) s on (fun i => (convert f (val i)).2) fun t on =>
          VWrote s t a.vd f.dst.width on fun i => (convert f (val i)).1) ∧
      ((f.scaled && f.dst.isMx) = true →
        let block (j : Nat) : List Nat := (List.range s.strand.cmp.vl.toNat).filter fun i => on i && i / 32 == j
        let q (j : Nat) : Nat × List (Nat × Flags) := quantBlock f.dst f.rnd f.sat ((block j).map val)
        let elem (i : Nat) : Nat × Flags :=
          (q (i / 32)).2.getD ((block (i / 32)).filter fun j => decide (j < i)).length (0, Flags.none)
        VEnds (exec (.vfcvt a) s) s on (fun i => (elem i).2) (fun t done =>
          (∀ i, i < s.strand.cmp.vl.toNat → done i = true → t.vget (vnum (a.vd.val + 1)) 8 (i / 32) = (q (i / 32)).1) ∧
          (∀ i, i < s.strand.cmp.vl.toNat → t.vget a.vd f.dst.width i =
            if done i then (elem i).1 % 2 ^ f.dst.width else s.vget a.vd f.dst.width i) ∧
          (∀ r, r ≠ a.vd → r ≠ vnum (a.vd.val + 1) → t.strand.vec.v.get r = s.strand.vec.v.get r) ∧
          t.strand.vec.m = s.strand.vec.m) ∧
        (∀ k, on k = true → fcsrTraps s.strand.cmp.fcsr (elem k).2 = true →
          (∀ i, i < k → on i = true → fcsrTraps s.strand.cmp.fcsr (elem i).2 = false) → Completes (exec (.vfcvt a) s) fun t =>
            ∃ u : State, t = u.trap 0x15 (BitVec.setWidth 64 (elem k).2.toBits) ∧ u.vget (vnum (a.vd.val + 1)) 8 (k / 32) = (q (k / 32)).1))) ∧
    (∀ a : VArgs, VReady s a.fmt f → wmaOk a f = true → f.src1.width = s.vw →
      let reg (i : Nat) : VReg := vnum (a.vd.val + i / s.lanes / 16)
      let at_ (i : Nat) : Nat := i / s.lanes % 16 * s.lanes + i % s.lanes
      let x (i : Nat) : Val := s.srcVal a.vs1 f.src1 f.scaled i
      let y (i : Nat) : Val := secondVal s a.src2 f i
      let op (i : Nat) : Nat × Flags :=
        if f.dst = .i32 then
          (Fmt.i32.deliverInt f.sat (Fmt.i32.decodeInt (s.vget (reg i) 32 (at_ i)) +
            f.src1.decodeInt (s.vget a.vs1 f.src1.width i) * f.src2.decodeInt (second s a.src2 f.src2.width i)), Flags.none)
        else deliverWith f (Val.fmaExact f.rnd (x i) (y i) (Fmt.fp32.decode (s.vget (reg i) 32 (at_ i))))
      VEnds (exec (.vwma a) s) s (takes s a.gov) (fun i => (op i).2) fun t on =>
        (∀ i, i < s.strand.cmp.vl.toNat → t.vget (reg i) 32 (at_ i) = if on i then (op i).1 % 2 ^ 32 else s.vget (reg i) 32 (at_ i)) ∧
        (∀ r : VReg, (r.val < a.vd.val ∨ a.vd.val + wmaGroup f.src1.width ≤ r.val) →
          t.strand.vec.v.get r = s.strand.vec.v.get r) ∧
        t.strand.vec.m = s.strand.vec.m)

/-- VCMP and VFCMP write the bits of their active elements, VMERGE selects and VMV copies, with flags and frame (R84, R354,
R430, R431, 21_ref_p_u.md). A comparison writes the bit of each active element, keeps the other bits below VLC and clears
the bits from VLC upward when it completes; VMERGE takes every element of the range from the second source where the mask is
1 and from vs1 where it is 0; VMV copies the second source to the active elements. For SRC2 = I4 an immediate of VI wraps modulo 16, which is
the model's choice (log 60). -/
def Obligations.VectorComparisonsMergesAndMoves : Prop :=
  ∀ (s : State) (f : FmtWord), let w := s.vw
    (∀ a : VCmpArgs, VReady s a.fmt f → cmpOk a f = true → widths2 f w = true →
      let x (i : Nat) : Int := f.src1.decodeInt (s.vget a.vs1 w i)
      let y (i : Nat) : Int := f.src2.decodeInt (second s a.src2 w i)
      Completes (exec (.vcmp a) s) fun t =>
        MWrote s t a.md (fun i => if takes s a.gov i then
          (match a.cond with
            | .eq => decide (x i = y i)
            | .ne => decide (x i ≠ y i)
            | .lt => decide (x i < y i)
            | .le => decide (x i ≤ y i)) else (s.strand.vec.m.get a.md).getLsbD i) ∧
        topClear s t a.md ∧ VFrame s t (vafter s s.strand.cmp.fcsr)) ∧
    (∀ a : VFCmpArgs, VReady s a.fmt f → fcmpOk a f = true → widths2 f w = true →
      let op (i : Nat) : Bool × Flags := fCompare a.cond (s.srcVal a.vs1 f.src1 f.scaled i) (secondVal s a.src2 f i)
      VEnds (exec (.vfcmp a) s) s (takes s a.gov) (fun i => (op i).2) (fun t on =>
        MWrote s t a.md fun i => if on i then (op i).1 else (s.strand.vec.m.get a.md).getLsbD i) ∧
      ((∀ i, takes s a.gov i = true → fcsrTraps s.strand.cmp.fcsr (op i).2 = false) →
        Completes (exec (.vfcmp a) s) fun t => topClear s t a.md)) ∧
    (∀ a : VArgs, VReady s a.fmt f → a.gov ≠ .none → f.scaled = false → immOk f a.src2 = true → widths3 f w = true →
      VGives (exec (.vmerge a) s) s a.vd w (takes s .none) fun i =>
        if takes s a.gov i then second s a.src2 w i else s.vget a.vs1 w i) ∧
    (∀ a : VMvArgs, VReady s a.fmt f → f.scaled = false → immOk f a.src2 = true → widths3 f w = true →
      VGives (exec (.vmv a) s) s a.vd w (takes s a.gov) fun i => second s a.src2 w i)

/-- VSLIDEUP, VSLIDEDN, VPERM, VCOMPRESS, VEXPAND, VIOTA and VPRUNE complete with their elements and frame (R107, R163, R429, R432,
R427, 21_ref_p_u.md). The slides move elements by the offset and leave or clear what has no source; VPERM takes the element
its index names, or 0; VCOMPRESS and VEXPAND move active elements to and from a dense run at VSTART; VIOTA counts, and for SRC2 = I4 its
immediate of VI wraps modulo 16, which is the model's choice (log 60); VPRUNE keeps the n elements of largest magnitude of each group of m and
their indices, bits 7 and 6 of a six-bit element's container being 0 (R107); a group whose first element lies below VSTART is passed over,
which is the model's choice (log 72). -/
def Obligations.SlidesAndPermutations : Prop :=
  ∀ (s : State) (f : FmtWord), let w := s.vw; let n := s.strand.cmp.vl.toNat; let lo := s.strand.cmp.vstart.toNat
    (∀ a : VArgs, VReady s a.fmt f → slideOk a f = true → widths13 f w = true →
      let off := match a.src2 with
        | .vi k => k.toNat
        | .vs x => (s.x x).toNat
        | .vv _ => 0
      VGives (exec (.vslideup a) s) s a.vd w (fun i => takes s a.gov i && decide (off ≤ i)) (fun i => s.vget a.vs1 w (i - off)) ∧
      VGives (exec (.vslidedn a) s) s a.vd w (takes s a.gov) (fun i => if i + off < n then s.vget a.vs1 w (i + off) else 0)) ∧
    (∀ (a : VArgs) (v : VReg), VReady s a.fmt f → a.src2 = .vv v → a.vd ≠ a.vs1 → v ≠ a.vd → f.scaled = false →
      widths13 f w = true →
      VGives (exec (.vperm a) s) s a.vd w (takes s a.gov)
        (fun i => if s.vget v w i < n then s.vget a.vs1 w (s.vget v w i) else 0)) ∧
    (∀ a : VUArgs, VReady s a.fmt f → f.scaled = false → a.vd ≠ a.vs1 → widths13 f w = true →
      let act := (List.range n).filter (takes s a.gov)
      VGives (exec (.vcompress a) s) s a.vd w (fun i => decide (lo ≤ i) && decide (i < lo + act.length))
        (fun i => s.vget a.vs1 w (act.getD (i - lo) 0)) ∧
      VGives (exec (.vexpand a) s) s a.vd w (takes s a.gov)
        (fun i => s.vget a.vs1 w (lo + (act.filter fun j => decide (j < i)).length))) ∧
    (∀ a : VIotaArgs, VReady s a.fmt f → f.scaled = false → f.src2.isInt = true → f.dst.isInt = true → f.src2.width = w →
      f.dst.width = w →
      VGives (exec (.viota a) s) s a.vd w (takes s a.gov) fun i =>
        f.dst.deliverInt f.sat (f.src2.decodeInt (second s a.src2 w 0) +
          ((List.range i).filter fun j => takes s a.gov j && (s.strand.vec.m.get a.ms).getLsbD j).length)) ∧
    (∀ (a : VPruneArgs) (ins : Instr) (k m : Nat), (ins, k, m) ∈ [(Instr.vpruneN1M4 a, 1, 4), (.vpruneN2M4 a, 2, 4),
        (.vpruneN1M8 a, 1, 8), (.vpruneN2M8 a, 2, 8), (.vpruneN4M8 a, 4, 8)] →
      VReady s a.fmt f → a.vd ≠ 31 → f.src1.width ≤ 16 → (f.scaled = true → f.src1.isMx = true ∧ a.vs ≠ 31) →
      f.src1.width = w → n % m = 0 →
      let kept (g : Nat) : List Nat := keepLargest (fun i => s.srcVal a.vs f.src1 f.scaled (g * m + i)) k m
      Completes (exec ins s) fun t =>
        (∀ g j, g < n / m → lo ≤ g * m → j < k →
          t.vget a.vd w (g * k + j) = f.src1.significant (s.vget a.vs w (g * m + (kept g).getD j 0)) ∧
          t.vget (vnum (a.vd.val + 1)) 4 (g * k + j) = (kept g).getD j 0) ∧
        (∀ i, i < s.vlmax w → (∀ g j, g < n / m → lo ≤ g * m → j < k → i ≠ g * k + j) → t.vget a.vd w i = s.vget a.vd w i) ∧
        (∀ r, r ≠ a.vd → r ≠ vnum (a.vd.val + 1) → t.strand.vec.v.get r = s.strand.vec.v.get r) ∧
        t.strand.vec.m = s.strand.vec.m ∧ VFrame s t (vafter s s.strand.cmp.fcsr))

/-- The mask instructions complete with their bits, counts and frame (R84, R195, R429, 21_ref_p_u.md). VMAND, VMOR, VMXOR,
VMANDN and VMNOT write the bits of the range; VBRKB and VBRKA the active bits before, or up to, the first active bit that is
set; the bits from VLC upward become 0; VPOPC and VFIRST write the number and the lowest index of the active set bits, or
all ones, to xd. -/
def Obligations.MaskInstructions : Prop :=
  ∀ (s : State), VCalm s →
    let bit (m : MReg) (i : Nat) : Bool := (s.strand.vec.m.get m).getLsbD i
    let writes (ins : Instr) (md : MReg) (on : Nat → Bool) (val : Nat → Bool) : Prop :=
      Completes (exec ins s) fun t =>
        MWrote s t md (fun i => if on i then val i else bit md i) ∧ topClear s t md ∧
        VFrame s t (vafter s s.strand.cmp.fcsr)
    (∀ a : MMArgs,
      writes (.vmand a) a.md (takes s .none) (fun i => bit a.ms1 i && bit a.ms2 i) ∧
      writes (.vmor a) a.md (takes s .none) (fun i => bit a.ms1 i || bit a.ms2 i) ∧
      writes (.vmxor a) a.md (takes s .none) (fun i => bit a.ms1 i != bit a.ms2 i) ∧
      writes (.vmandn a) a.md (takes s .none) (fun i => bit a.ms1 i && !bit a.ms2 i)) ∧
    (∀ md ms : MReg, writes (.vmnot md ms) md (takes s .none) (fun i => !bit ms i)) ∧
    (∀ a : MGArgs,
      writes (.vbrkb a) a.md (takes s a.gov) (fun i => (List.range (i + 1)).all fun j => !(takes s a.gov j && bit a.ms j)) ∧
      writes (.vbrka a) a.md (takes s a.gov) (fun i => (List.range i).all fun j => !(takes s a.gov j && bit a.ms j))) ∧
    (∀ a : MXArgs,
      let set := (List.range s.strand.cmp.vl.toNat).filter fun i => takes s a.gov i && bit a.ms i
      let gives (ins : Instr) (v : Word) : Prop :=
        Completes (exec ins s) fun t => WroteX s t a.rd v ∧ t.strand.vec = s.strand.vec ∧
          VFrame s { t with strand := { t.strand with regs := s.strand.regs } } (vafter s s.strand.cmp.fcsr)
      gives (.vpopc a) (BitVec.ofNat 64 set.length) ∧
      (set = [] → gives (.vfirst a) (BitVec.allOnes 64)) ∧
      (∀ i, i ∈ set → (∀ j ∈ set, i ≤ j) → gives (.vfirst a) (BitVec.ofNat 64 i)))

/-- The reductions write element 0 of vd and the scans each active element; every other element and byte is as before (R119,
R124, R126, R438, R439, R440, R441). VREDSUM adds the exact sum of each group of 64 in order into DST, from the second
source, or from vd when it resumes, of which bits [7:6] of a six-bit container are dropped; VREDMIN and VREDMAX give a smallest or largest
value; VFREDMIN and VFREDMAX deliver once the best of that source and all active elements, and the source itself without any; a scan adds each active element to
the result of the active element before it. The floating-point ones, with no trap enabled, likewise, with their flags in
FCSR; SAT at the nodes of the tree of a group's sum is the model's choice (log 70). For SRC2 = I4 an immediate of VI wraps modulo 16, which is
the model's choice (log 60). -/
def Obligations.ReductionsAndScans : Prop :=
  ∀ (s : State) (a : VArgs) (f : FmtWord), VReady s a.fmt f → f.src1.width = s.vw →
    let on := takes s a.gov; let n := s.strand.cmp.vl.toNat; let w := f.dst.width
    let group (g : Nat) : List Nat := (List.range n).filter fun i => on i && i / 64 == g
    let first : Nat := f.dst.significant (if s.strand.cmp.vstart = 0 then second s a.src2 w 0 else s.vget a.vd w 0)
    let x (i : Nat) : Int := f.src1.decodeInt (s.vget a.vs1 f.src1.width i)
    let gives (ins : Instr) (v : Nat) : Prop := VGives (exec ins s) s a.vd w (fun i => i == 0) fun _ => v
    (redOk a false false f = true → fitsSum f = true →
      gives (.vredsum a) ((List.range 64).foldl (fun acc g =>
        if group g = [] then acc else f.dst.deliverInt f.sat (f.dst.decodeInt acc + ((group g).map x).sum)) first)) ∧
    (redOk a false false f = true → fitsSame f = true →
      (∃ v, (v = first ∨ ∃ i, on i = true ∧ v = s.vget a.vs1 f.src1.width i) ∧ f.dst.decodeInt v ≤ f.dst.decodeInt first ∧
        (∀ i, on i = true → f.dst.decodeInt v ≤ x i) ∧ gives (.vredmin a) v) ∧
      (∃ v, (v = first ∨ ∃ i, on i = true ∧ v = s.vget a.vs1 f.src1.width i) ∧ f.dst.decodeInt first ≤ f.dst.decodeInt v ∧
        (∀ i, on i = true → x i ≤ f.dst.decodeInt v) ∧ gives (.vredmax a) v)) ∧
    (fcsrEn s.strand.cmp.fcsr = 0 → redOk a true true f = true →
      let ends (ins : Instr) (comb : Nat → Nat → Nat × Flags) : Prop :=
        let r := (List.range 64).foldl (fun (r : Nat × Flags) g => if group g = [] then r else
          ((comb g r.1).1, r.2.or (comb g r.1).2)) (first, Flags.none)
        Completes (exec ins s) fun t => VWrote s t a.vd w (fun i => i == 0) (fun _ => r.1) ∧
          VFrame s t (vafter s (s.strand.cmp.fcsr ||| BitVec.setWidth 13 r.2.toBits))
      let val (i : Nat) : Val := s.srcVal a.vs1 f.src1 f.scaled i
      (fitsSum f = true → ends (.vfredsum a) fun g acc =>
        let sum := groupSum f val g (group g)
        let total := (f.dst.decode acc).addExact f.rnd sum.1
        deliverWith f (total.1, sum.2.or total.2)) ∧
      (fitsSame f = true → ∀ p ∈ [(Instr.vfredmin a, false), (.vfredmax a, true)],
        let all := (List.range n).filter on
        let best := all.foldl (fun (m : Val × Flags) i =>
          ((Val.minMax p.2 m.1 (val i)).1, m.2.or (Val.minMax p.2 m.1 (val i)).2)) (f.dst.decode first, Flags.none)
        Completes (exec p.1 s) fun t =>
          VWrote s t a.vd w (fun i => i == 0) (fun _ => if all = [] then first else (f.dst.deliver f.rnd f.sat best.1).1) ∧
          VFrame s t (vafter s (s.strand.cmp.fcsr ||| BitVec.setWidth 13 best.2.toBits)))) ∧
    (let before (t : State) (i : Nat) : Nat :=
       match ((List.range i).filter fun j => decide (j < n) && s.governs a.gov j).getLast? with
       | some j => t.vget a.vd w j
       | none => second s a.src2 w 0
     fitsScan f = true →
      (redOk a false false f = true → Completes (exec (.vscan a) s) fun t =>
        VWrote s t a.vd w on (fun i => f.dst.deliverInt f.sat (f.dst.decodeInt (before t i) + x i)) ∧
        VFrame s t (vafter s s.strand.cmp.fcsr)) ∧
      (redOk a true false f = true → fcsrEn s.strand.cmp.fcsr = 0 → Completes (exec (.vfscan a) s) fun t =>
        let op (i : Nat) : Nat × Flags := deliverWith f ((f.dst.decode (before t i)).addExact f.rnd (s.srcVal a.vs1 f.src1 f.scaled i))
        VWrote s t a.vd w on (fun i => (op i).1) ∧
        VFrame s t (vafter s (s.strand.cmp.fcsr ||| BitVec.setWidth 13 (raised on (fun i => (op i).2) n)))))

/-- The table of VHACC as it stands at a key: capacity and count (R197). -/
def haccTable (s : State) (base : Nat) : Nat × Nat := (s.mem.readNat base 8, s.mem.readNat (base + 8) 8)

/-- What comes before an access of the vector path of the slice in turn to some memory slices is performed: the accesses of its FIFOs, and
those that pops and ordering instructions place before it (R61, R203). -/
def beforeVector (s : State) (slices : List Nat) (kind : FenceKind) : State :=
  s.ahead ⟨s.side, .vector, slices.eraseDups, s.strand.issued, s.cur.popMark, kind, false, .none, none, [], [], [], none⟩

/-- The same for the memory slices of some elements. -/
def beforeElements (s : State) (key : Nat → Nat) (kind : FenceKind) (is : List Nat) : State :=
  beforeVector s (is.flatMap fun i => memSlices s.strand.die (key i) (max 1 (widthBits s.strand.acc.width.toNat / 8))) kind

/-- The elements of a vector memory instruction from VSTART to VLA − 1. -/
def memoryElements (s : State) : List Nat := (List.range s.strand.acc.vl.toNat).drop s.strand.acc.vstart.toNat

/-- The byte address of element `i`, and whether it is the high nibble of that byte, under the address form (R184, R424). -/
def elementAt (s : State) (form : VForm) (base : Word) (index : Nat → Nat) (i : Nat) : VEl :=
  let n := vNib form base (widthBits s.strand.acc.width.toNat) s.lanes index i
  ⟨i, BitVec.ofNat 64 (n / 2), n % 2 == 1⟩

/-- What a vector memory instruction needs to complete at once, with the elements `el` at the keys `key` (R420, R421): a legal type, a
register's worth of elements, no detector at work, no answer outstanding, no load or atomic that waits, a memory system that performs
at once, no pre-emption that stops it, and every element aligned and translated to a location of this package. -/
structure MemoryGoes (s : State) (need : Need) (el : Nat → VEl) (key : Nat → Nat) : Prop where
  side : s.side = .access
  legal : s.strand.acc.legal = true
  width : s.strand.acc.width.toNat ≤ 4
  length : s.strand.acc.vl.toNat * widthBits s.strand.acc.width.toNat ≤ 16384
  det : s.isDet s.strand.id.lid = false
  reply : s.strand.acc.reply = none ∧ s.strand.acc.waitReq = none ∧ s.strand.acc.sent = 0
  loads : ∀ a ∈ s.strand.stores, a.loads = [] ∧ a.atom = none
  delays : s.delays = []
  stop : s.stopElement = none
  elements : ∀ i ∈ memoryElements s, (el i).va.toNat % max 1 (widthBits s.strand.acc.width.toNat / 8) = 0 ∧
    s.locate s.mspace need (el i).va = .ok (key i) ∧ isFar (key i + 7) = false

/-- A load may reserve a new slot of LDQ (R55, R62). -/
def slotFree (s : State) : Prop :=
  s.strand.stoppedSlot = false ∧ s.strand.q.ldq.length < s.strand.sys.slip.toNat ∧ s.strand.q.ldq.length < 8

/-- The head entry of SDQ is a legal index entry for the access slice's length (R60). -/
def indexReady (s : State) (e : QSlot) (rest : List QSlot) : Prop :=
  s.strand.q.sdq = e :: rest ∧ (e.width = 3 ∨ e.width = 4) ∧ s.strand.acc.vl ≤ e.count

/-- The head of a queue is a legal data entry (R60). -/
def dataReady (s : State) (sdq : List QSlot) (e : QSlot) (rest : List QSlot) : Prop :=
  sdq = e :: rest ∧ e.width = s.strand.acc.width ∧ s.strand.acc.vl ≤ e.count

/-- What a vector memory instruction leaves as it was: everything but the queues, the access slice, which goes on behind it with
VSTART = 0 (R83), the accesses that wait, memory, the notes of adds that wait for a far line, and the translations kept. -/
structure MemoryFrame (s t : State) : Prop where
  slice : t.strand.acc = { s.strand.acc with pc := s.strand.acc.pc + 4, stall := none, vstart := 0 }
  partner : t.strand.cmp = s.strand.cmp
  identity : t.strand.id = s.strand.id
  regs : t.strand.regs = s.strand.regs
  vec : t.strand.vec = s.strand.vec
  special : t.strand.sys = s.strand.sys
  trap : t.strand.trap = s.strand.trap
  issued : t.strand.issued = s.strand.issued
  lost : t.strand.lost = s.strand.lost
  rest : SameRest { s with tlb := t.tlb, det := t.det } t

/-- The lines of the elements of a load, each once, in the order of its first element (R185). -/
def elementLines (s : State) (key : Nat → Nat) : List Nat := ((memoryElements s).map fun i => lineOf (key i)).eraseDups

/-- The state in which a load has read these lines, one read of one line after the other (R185, R203). -/
def linesRead (s : State) (key : Nat → Nat) (lines : List Nat) : State :=
  lines.foldl (fun u l => beforeElements u key .r ((memoryElements s).filter fun i => lineOf (key i) == l)) s

/-- The state in which the line of element `i` is read. -/
def elementRead (s : State) (key : Nat → Nat) (i : Nat) : State :=
  linesRead s key ((elementLines s key).takeWhile (fun l => l != lineOf (key i)) ++ [lineOf (key i)])

/-- The slot that a load of the elements `el` at the keys `key` has filled, with what stands there when each line is read (R54, R55,
R422). -/
structure Filled (s : State) (el : Nat → VEl) (key : Nat → Nat) (e : QSlot) : Prop where
  count : e.count = if s.strand.acc.vstart < s.strand.acc.vl then s.strand.acc.vl else 0
  width : e.width = s.strand.acc.width
  arrived : e.arrived = true ∧ e.full = true ∧ e.mark = s.strand.issued
  wide : 8 ≤ widthBits s.strand.acc.width.toNat → ∀ i ∈ memoryElements s,
    e.elem i = valueOfBytes ((elementRead s key i).mem.read (key i) (widthBits s.strand.acc.width.toNat / 8))
  nibbles : widthBits s.strand.acc.width.toNat = 4 → ∀ i ∈ memoryElements s,
    let b := ((elementRead s key i).mem.get (key i)).toNat
    e.elem i = if (el i).hi then b / 16 else b % 16

/-- A vector load completes: one slot filled, its index entry popped, and, for VLFF, its grant pushed (R65). -/
def LoadGives (o : Out) (s : State) (el : Nat → VEl) (key : Nat → Nat) (index grant : Bool) : Prop :=
  Completes o fun t => ∃ e, let u := if index then s.orderSdq 1 else s
    let r := linesRead u key (elementLines u key)
    Filled u el key e ∧
    t.strand.q = { s.strand.q with
      ldq := s.strand.q.ldq ++ [e]
      sdq := if index then s.strand.q.sdq.drop 1 else s.strand.q.sdq
      sdqHead := if index then s.strand.q.sdqHead + 1 else s.strand.q.sdqHead
      aq := if grant then s.strand.q.aq ++
        [⟨BitVec.ofNat 64 (s.strand.acc.vl.toNat + s.strand.acc.width.toNat * 2 ^ 32), true, s.strand.issued⟩] else s.strand.q.aq } ∧
    SameBytes r t ∧ t.strand.stores = r.strand.stores ∧ t.det = r.det ∧ MemoryFrame u t

/-- A byte with one nibble replaced (R184, R405). -/
def withNibble (hi : Bool) (old : Byte) (v : Nat) : Byte :=
  BitVec.ofNat 8 (if hi then old.toNat % 16 + v % 16 * 16 else old.toNat / 16 * 16 + v % 16)

/-- The elements of a store that are written as one: those of a lane's share in one 8-byte word for VSB, which is single-copy atomic
(R201), and otherwise each by itself. -/
def elementGroups (s : State) (lanes : Bool) (key : Nat → Nat) : List (List Nat) :=
  if lanes then
    let tag := fun i => (i % s.lanes, key i / 8)
    ((memoryElements s).map tag).eraseDups.map fun t => (memoryElements s).filter fun i => tag i == t
  else (memoryElements s).map fun i => [i]

/-- The state behind the groups of a store; a byte or nibble that an overlapping lane of VSB leaves to an earlier element is not written
(R424). -/
def storeElements (s : State) (el : Nat → VEl) (key value : Nat → Nat) (skip : Nat → Nat → Bool) (gs : List (List Nat)) : State :=
  let w := widthBits s.strand.acc.width.toNat
  gs.foldl (fun u g =>
    let u := beforeElements u key .w g
    if w = 4 then
      g.foldl (fun u i => if skip i 0 then u
        else u.perform s.strand.die [(key i, withNibble (el i).hi (u.mem.get (key i)) (value i))]) u
    else u.perform s.strand.die (g.flatMap fun i => (atKeys (key i) (leBytes (w / 8) (value i))).filter fun c => !skip i (c.1 - key i))) s

/-- A vector store completes: its bytes in memory, its `n` entries popped from SDQ (R60, R420, R422). -/
def StoreGives (o : Out) (s : State) (el : Nat → VEl) (key value : Nat → Nat) (lanes : Bool) (skip : Nat → Nat → Bool) (n : Nat) : Prop :=
  Completes o fun t =>
    let u := s.orderSdq n
    let r := storeElements u el key value skip (elementGroups u lanes key)
    SameBytes r t ∧ t.strand.stores = r.strand.stores ∧ t.det = r.det ∧
    t.strand.q = { s.strand.q with sdq := s.strand.q.sdq.drop n, sdqHead := s.strand.q.sdqHead + BitVec.ofNat 3 n } ∧
    MemoryFrame u t

/-- The state behind the first `n` of the elements `is` of a VAMO, and their old values (R425). -/
def amoElements (s : State) (op : AmoOp) (el : Nat → VEl) (key value : Nat → Nat) : List Nat → State × List (Nat × Nat)
  | [] => (s, [])
  | i :: is =>
    let b := max 1 (widthBits s.strand.acc.width.toNat / 8)
    let (u, vals) := amoElements s op el key value is
    let u := beforeElements (u.used u.mspace (el i).va) key .rw [i]
    let old := u.mem.readNat (key i) b
    match ((amoOp op).new (if b = 4 then .w else .d) .rne old (value i) 0).1 with
    | some v => (u.perform s.strand.die (atKeys (key i) (leBytes b v)), vals ++ [(i, old)])
    | none => (u, vals ++ [(i, old)])

/-- VLE, VLS, VLX, VLFF and VLB complete: one LDQ slot holds the elements that stand in memory, and the frame (R54, R55, R61, R65,
R184, R185, R203, R420, R421, R422, R423, R424). With every element aligned, translated and in this package, in a launch with DET
= 0, no load or atomic waiting and a memory system that performs at once: the slot holds the bytes, or nibbles, at each element's address under
the form's address rule, each line read behind the slice's own vector stores there and behind what its pops, the index entry's among
them, have ordered before it; VLX pops its index entry and VLFF pushes its grant; VSTART = 0. VLFF trims its length at a later element
whose page fails. -/
def Obligations.VectorLoads : Prop :=
  ∀ (s : State) (rs1 rs2 : Reg) (key : Nat → Nat), slotFree s →
    let none_ : Nat → Nat := fun _ => 0
    (∀ p ∈ [(Instr.vle rs1, VForm.unit, false), (.vls rs1 rs2, .stride (s.x rs2), false), (.vlb rs1 rs2, .lane (s.x rs2), false),
        (.vlff rs1, .unit, true)],
      let el := elementAt s p.2.1 (s.x rs1) none_
      MemoryGoes s .load el key → (p.2.2 = true → s.strand.q.aq.length < 32) →
      LoadGives (exec p.1 s) s el key false p.2.2) ∧
    (∀ e rest, indexReady s e rest →
      let el := elementAt s .index (s.x rs1) e.elem
      MemoryGoes s .load el key → LoadGives (exec (.vlx rs1) s) s el key true false) ∧
    (∀ (k c : Nat), s.side = .access → s.strand.acc.legal = true → s.strand.acc.width.toNat ≤ 4 →
      s.strand.acc.vl.toNat * widthBits s.strand.acc.width.toNat ≤ 16384 → s.isDet s.strand.id.lid = false →
      s.strand.acc.reply = none ∧ s.strand.acc.waitReq = none ∧ s.strand.acc.sent = 0 → s.strand.q.aq.length < 32 →
      (∀ a ∈ s.strand.stores, a.loads = [] ∧ a.atom = none) → s.delays = [] → s.stopElement = none →
      s.strand.acc.vstart.toNat < k → k < s.strand.acc.vl.toNat → c ∈ [0x05, 0x08, 0x09, 0x0A] →
      let el := elementAt s .unit (s.x rs1) none_
      (∀ i ∈ memoryElements s, (el i).va.toNat % max 1 (widthBits s.strand.acc.width.toNat / 8) = 0) →
      (∀ i ∈ memoryElements s, i < k → s.locate s.mspace .load (el i).va = .ok (key i) ∧ isFar (key i + 7) = false) →
      s.locate s.mspace .load (el k).va = .error c →
      Completes (exec (.vlff rs1) s) fun t =>
        t.strand.acc = { s.strand.acc with pc := s.strand.acc.pc + 4, stall := none, vstart := 0, vl := BitVec.ofNat 24 k } ∧
        (∃ e, t.strand.q.ldq = s.strand.q.ldq ++ [e] ∧ e.count = BitVec.ofNat 24 k ∧ e.width = s.strand.acc.width ∧ e.full = true) ∧
        t.strand.q.aq = s.strand.q.aq ++ [⟨BitVec.ofNat 64 (k + s.strand.acc.width.toNat * 2 ^ 32), true, s.strand.issued⟩])

/-- VSE, VSS, VSX, VSB and VAMO complete: their elements in memory in ascending order, the old values in a slot, and the frame
(R60, R61, R184, R185, R201, R203, R420, R422, R424, R425). With every element aligned, translated and in this package, in a
launch with DET = 0, no load or atomic waiting and a memory system that performs at once: memory holds the elements of the data entry, written in
ascending order at the addresses of the form, a nibble alone for 4-bit elements, and the elements of a VSB share that lie in one
8-byte word as one; the entries leave SDQ, and what they were pushed behind comes first; a VAMO reads, computes and writes each element and
fills a slot with the old values. -/
def Obligations.VectorStoresAndAtomics : Prop :=
  ∀ (s : State) (rs1 rs2 : Reg) (key : Nat → Nat),
    let w := widthBits s.strand.acc.width.toNat; let sdq := s.strand.q.sdq
    (∀ d rest, dataReady s sdq d rest → (w < 64 → ∀ i ∈ memoryElements s, s.isBad (key i) = false) →
      ∀ p ∈ [(Instr.vse rs1, VForm.unit, false), (.vss rs1 rs2, .stride (s.x rs2), false), (.vsb rs1 rs2, .lane (s.x rs2), true)],
        let el := elementAt s p.2.1 (s.x rs1) fun _ => 0
        let m : VMem := ⟨p.1, .store, p.2.1, s.x rs1, w, s.mspace, d.elem, fun _ => 0, [], none⟩
        MemoryGoes s .store el key → StoreGives (exec p.1 s) s el key d.elem p.2.2 (fun i o => m.covered s.lanes (el i) o) 1) ∧
    (∀ x d rest rest', indexReady s x rest → dataReady s rest d rest' →
      let el := elementAt s .index (s.x rs1) x.elem
      ((w < 64 → ∀ i ∈ memoryElements s, s.isBad (key i) = false) → MemoryGoes s .store el key →
        StoreGives (exec (.vsx rs1) s) s el key d.elem false (fun _ _ => false) 2) ∧
      (∀ op : AmoOp, slotFree s → (w = 32 ∨ w = 64) → MemoryGoes s .atomic el key →
        (∀ i ∈ memoryElements s, s.detDom (key i) = false) →
        (∀ n i is, (memoryElements s).drop n = i :: is →
          let u := (amoElements (s.orderSdq 2) op el key d.elem ((memoryElements s).take n).reverse).1
          u.locate u.mspace .atomic (el i).va = .ok (key i)) →
        Completes (exec (.vamo op rs1) s) fun t =>
          let r := amoElements (s.orderSdq 2) op el key d.elem (memoryElements s).reverse
          SameBytes r.1 t ∧ t.strand.stores = r.1.strand.stores ∧ t.det = r.1.det ∧ MemoryFrame (s.orderSdq 2) t ∧
          ∃ e : QSlot, t.strand.q = { s.strand.q with
              ldq := s.strand.q.ldq ++ [e], sdq := sdq.drop 2, sdqHead := s.strand.q.sdqHead + 2 } ∧
            e.full = true ∧ e.width = s.strand.acc.width ∧ ∀ v ∈ r.2, e.elem v.1 = v.2))

/-- VBMAND, VBPREFIX, VISECT and VHACC complete with their elements, masks, SPSTAT and table (R194, R195, R196, R197, R427,
R428). VBMAND gives the ANDs and which are not 0; VBPREFIX the running count of ones; VISECT the pairs of ranks of the
common bits, or what fits with SPSTAT.IFULL, VSTART and m0 as it was, which is the model's reading (log 16); that VBMAND and VBPREFIX begin at
VSTART is also the model's reading (log 42); VHACC runs its elements in order, behind the earlier accesses of its path and
what the slice's pops have ordered before it, and a single key is found and its value added to, or inserted with the count raised. -/
def Obligations.SparseInstructions : Prop :=
  ∀ (s : State), VCalm s →
    let n := s.strand.cmp.vl.toNat; let lo := s.strand.cmp.vstart.toNat; let L := s.lanes
    let range := (List.range n).drop lo
    (∀ (a : SpArgs) f, s.vw = 64 → fmtParse (s.fmtReg a.fmt) = some f →
      let x (i : Nat) : Nat := s.vget a.vs1 64 i &&& s.vget a.vs2 64 i
      (Completes (exec (.vbmand a) s) fun t =>
        (∀ i, i < s.vlmax 64 → t.vget a.vd 64 i = if takes s .none i then x i else s.vget a.vd 64 i) ∧
        (∀ r, r ≠ a.vd → t.strand.vec.v.get r = s.strand.vec.v.get r) ∧
        (∀ i, (t.strand.vec.m.get 0).getLsbD i =
          if takes s .none i then decide (x i ≠ 0) else decide (i < n) && (s.strand.vec.m.get 0).getLsbD i) ∧
        (∀ m, m ≠ 0 → t.strand.vec.m.get m = s.strand.vec.m.get m) ∧ VFrame s t (vafter s s.strand.cmp.fcsr)) ∧
      (a.vd ≠ 31 → a.vs1 ≠ 31 → a.vs2 ≠ 31 → (a.vd.val + 1 < a.vs1.val ∨ a.vs1.val + 1 < a.vd.val) →
        (a.vd.val + 1 < a.vs2.val ∨ a.vs2.val + 1 < a.vd.val) →
        let pairs (i : Nat) : List (Nat × Nat) := isectWord (s.vget a.vs1 64 i) (s.vget a.vs2 64 i)
          (s.vget (vnum (a.vs1.val + 1)) 64 i) (s.vget (vnum (a.vs2.val + 1)) 64 i)
        let wrote (t : State) (out : List (Nat × Nat)) : Prop :=
          (∀ k p, out[k]? = some p → t.vget a.vd 32 k = p.1 ∧ t.vget (vnum (a.vd.val + 1)) 32 k = p.2) ∧
          (∀ r, r ≠ a.vd → r ≠ vnum (a.vd.val + 1) → t.strand.vec.v.get r = s.strand.vec.v.get r)
        ((range.flatMap pairs).length ≤ 16 * L → Completes (exec (.visect a) s) fun t =>
          wrote t (range.flatMap pairs) ∧ t.strand.vec.m.get 0 = BitVec.ofNat 4096 (2 ^ (range.flatMap pairs).length - 1) ∧
          (∀ m, m ≠ 0 → t.strand.vec.m.get m = s.strand.vec.m.get m) ∧
          t.strand.sys = { s.strand.sys with spstat := s.strand.sys.spstat &&& 2, vbrun := true } ∧ t.strand.cmp = vafter s s.strand.cmp.fcsr ∧
          t.strand.regs = s.strand.regs ∧ SameBytes s t ∧ SameRest s t) ∧
        (∀ k is rest, range = is ++ k :: rest → (is.flatMap pairs).length ≤ 16 * L →
          16 * L < ((is ++ [k]).flatMap pairs).length → Completes (exec (.visect a) s) fun t =>
            wrote t (is.flatMap pairs) ∧ t.strand.vec.m = s.strand.vec.m ∧
            t.strand.sys = { s.strand.sys with spstat := s.strand.sys.spstat ||| 1, vbrun := true } ∧
            t.strand.cmp = { vafter s s.strand.cmp.fcsr with vstart := BitVec.ofNat 24 k }))) ∧
    (∀ (a : VPrefArgs) f, s.vw = 64 → fmtParse (s.fmtReg a.fmt) = some f →
      VGives (exec (.vbprefix a) s) s a.vd 64 (takes s .none) fun i =>
        (s.x a.xs).toNat + ((range.filter fun j => decide (j < i)).map fun j =>
          ((List.range 64).filter fun b => (s.vget a.vs1 64 j).testBit b).length).sum) ∧
    (∀ (a : VHaccArgs) f, fmtParse (s.fmtReg a.fmt) = some f → haccOk f = true → f.src1.width = s.vw →
      let w := s.vw; let b := s.vw / 8
      let x := (s.x a.xs).toNat; let g := s.gangOf s.strand.id
      let d := s.drain fun x => (x.side == s.side && x.path == Path.vector) ||
        x.precedes ⟨s.side, .vector, [], s.strand.issued, s.cur.popMark, .rw, false, .none, none, [], [], [], none⟩
      let base := spadKey s.strand.id.cluster (g.spadPage * 4096 + x); let c := (haccTable d base).1
      x % 8 = 0 → x + 16 + 2 * b * c ≤ g.spadPages * 4096 → (∃ k, 1 ≤ k ∧ k ≤ 20 ∧ c = 2 ^ k) → s.isBad base = false →
      (∀ i ∈ range, s.vget a.vs1 w i ≠ 2 ^ w - 1) →
      (∀ u : Nat → State, u 0 = d.setSpstat 1 false →
        (∀ j i, range[j]? = some i →
          (u j).haccOne f base x c (s.vget a.vs1 w i) (s.vget a.vs2 w i) = .next (u (j + 1))) →
        exec (.vhacc a) s = .next ((u range.length).vdone.ranVector.advance 4)) ∧
      (∀ (i e : Nat), range = [i] → s.isDet s.strand.id.lid = false → fcsrEn s.strand.cmp.fcsr = 0 → s.bad = [] →
        isFar (base + 16 + 2 * b * c) = false →
        let key := s.vget a.vs1 w i; let v := s.vget a.vs2 w i; let h := key * 0x9E3779B97F4A7C15 % 2 ^ 64 / 2 ^ (64 - Nat.log2 c)
        let entry (j : Nat) : Nat := d.mem.readNat (base + 16 + 2 * b * ((h + j) % c)) b
        e < c → (∀ j, j < e → entry j ≠ key ∧ entry j ≠ 2 ^ w - 1) → (entry e = key ∨ (entry e = 2 ^ w - 1 ∧
          (haccTable d base).2 + 1 ≠ c)) →
        Completes (exec (.vhacc a) s) fun t =>
          let at_ := base + 16 + 2 * b * ((h + e) % c)
          t.mem.readNat at_ b = key ∧
          t.mem.readNat (at_ + b) b = (if entry e = key then (haccAdd f (d.mem.readNat (at_ + b) b) v).1 % 2 ^ w else v) ∧
          t.mem.readNat (base + 8) 8 = ((haccTable d base).2 + if entry e = key then 0 else 1) % 2 ^ 64 ∧
          t.strand.vec = s.strand.vec ∧ t.strand.sys = { s.strand.sys with spstat := s.strand.sys.spstat &&& 1, vbrun := true } ∧ t.pc = s.pc + 4))

/-- VPUSH, VPOP and VWAIT complete with their entries, elements, masks and frame (R42, R43, R54, R55, R59, R61, R98, R443, R447,
03_slices.md). VPUSH appends a FULL entry of the elements 0 to VLC − 1, behind the accesses that its slice has issued; VPOP of a FULL head
writes its elements to vd and removes it, and what the compute slice accesses from then on comes behind the accesses that the access slice
issued before that slot's load; VPOP of a slot that still fills joins the vector instruction queue, bound to that slot. VWAIT on flags of
this package, behind what its slice's pops have ordered before it, completes with md = 0 when all equal their wanted values, performs its
acquire, and with xs = 0 completes with the unmet elements in md; otherwise it stays as the head of the vector instruction queue and the slice
goes on, which is the model's reading (log 17). It checks its elements whatever VSTART holds, which is the model's reading too (log 46). -/
def Obligations.VectorQueuesAndFlagWaits : Prop :=
  ∀ (s : State), VCalm s →
    (∀ vs : VReg, s.strand.q.sdq.length < 8 → Completes (exec (.vpush vs) s) fun t => ∃ e : QSlot,
      t.strand.q = { s.strand.q with sdq := s.strand.q.sdq ++ [e] } ∧ e.full = true ∧ e.count = s.strand.cmp.vl ∧
      e.width = s.strand.cmp.width ∧ e.mark = s.strand.issued ∧ (∀ i, i < s.strand.cmp.vl.toNat → e.elem i = s.vget vs s.vw i) ∧
      t.strand.vec = s.strand.vec ∧ VFrame s (putQ s t) (vafter s s.strand.cmp.fcsr)) ∧
    (∀ (vd : VReg) (e : QSlot) rest, s.strand.q.ldq = e :: rest → e.full = true → e.count.toNat ≤ s.vlmax (widthBits e.width.toNat) →
      e.width.toNat ≤ 4 → Completes (exec (.vpop vd) s) fun t =>
        t.strand.q = { s.strand.q with ldq := rest, ldqHead := s.strand.q.ldqHead + 1 } ∧
        VWrote s t vd (widthBits e.width.toNat) (fun i => decide (i < e.count.toNat)) e.elem ∧
        VFrame s (putQ s t) { vafter s s.strand.cmp.fcsr with popMark := max s.strand.cmp.popMark e.mark }) ∧
    (∀ (vd : VReg) (e : QSlot) rest, s.strand.q.ldq = e :: rest → e.full = false → Completes (exec (.vpop vd) s) fun t =>
        t.strand.q = { s.strand.q with
          viq := [⟨.vpop vd, 0, 0, s.strand.cmp.pc, some s.strand.q.ldqHead, false, s.stamp, s.strand.issued, false⟩] } ∧
        t.strand.vec = s.strand.vec ∧ AroundVectors s (putQ s t)
          { s.strand.cmp with pc := s.strand.cmp.pc + 4, stall := none, popMark := max s.strand.cmp.popMark e.mark } false) ∧
    (∀ (a : VWaitArgs) (key : Nat → Nat), s.vw = 64 →
      s.strand.q.headStall = none → s.strand.q.headReq = none → s.strand.q.headReply = none → s.isDet s.strand.id.lid = false →
      let on (i : Nat) : Bool := decide (i < s.strand.cmp.vl.toNat) && s.governs a.gov i
      (∀ i, on i = true → s.vget a.vs1 64 i % 8 = 0 ∧ isFar (key i + 7) = false ∧
        s.locate .global .load (BitVec.ofNat 64 (s.vget a.vs1 64 i)) = .ok (key i)) →
      let u := beforeVector s (((List.range s.strand.cmp.vl.toNat).filter on).flatMap fun i => memSlices s.strand.die (key i) 8) .r
      let unmet (i : Nat) : Bool := on i && u.mem.readNat (key i) 8 != s.vget a.vs2 64 i
      let ends (t : State) : Prop :=
        (∀ i, (t.strand.vec.m.get a.md).getLsbD i = unmet i) ∧ (∀ m, m ≠ a.md → t.strand.vec.m.get m = s.strand.vec.m.get m) ∧
        t.strand.vec.v = s.strand.vec.v ∧ t.strand.cmp = vafter u u.strand.cmp.fcsr ∧ t.strand.acc = u.strand.acc ∧
        t.strand.regs = u.strand.regs ∧ t.strand.q = u.strand.q ∧ t.strand.sys = { s.strand.sys with vbrun := true } ∧ t.mem = u.mem ∧
        t.strand.stores = u.strand.stores ∧ (a.scope ≠ some .system → t.l2 = u.l2 ∧ t.reqs = u.reqs) ∧
        SameRest { u with tlb := t.tlb, reqs := t.reqs } t
      ((∀ i, unmet i = false) → Completes (exec (.vwait a) s) ends) ∧
      (s.x a.xs = 0 → (∃ i, unmet i = true) → Completes (exec (.vwait a) s) fun t => ends t ∧ t.l2 = u.l2 ∧ t.reqs = u.reqs) ∧
      (s.x a.xs ≠ 0 → (∃ i, unmet i = true) → Completes (exec (.vwait a) s) fun t =>
        t.strand.q = { u.strand.q with
          viq := [⟨.vwait a, s.x a.xs, 0, s.strand.cmp.pc, none, false, s.stamp, s.strand.issued, false⟩], headStall := some .vwait } ∧
        t.strand.cmp = { u.strand.cmp with pc := s.strand.cmp.pc + 4, stall := none } ∧ t.strand.vec = s.strand.vec ∧ t.mem = u.mem))

/-- Where a function instruction runs at once (R138; log 17): as for a vector instruction, with at most 32 lanes. -/
structure PCalm (s : State) : Prop where
  side : s.side = .compute
  legal : s.strand.cmp.legal = true
  present : s.strand.trap.vabsent = false
  idle : s.strand.q.viq = []
  lanes : 1 ≤ s.lanes ∧ s.lanes ≤ 32

/-- A binding within the eight function registers (R127, R130). -/
def bound (s : State) (f : FReg) (d : FuncReg) : Prop := s.strand.vec.func f = some d ∧ d.n + d.span ≤ 8

/-- Coefficient `i` of a binding in a lane and slot (R132). -/
def coefficient (t : State) (d : FuncReg) (lane slot i : Nat) : Nat :=
  t.strand.vec.fget d lane (slot * d.stride + i * d.bytes) d.fmt.width

/-- What a function instruction leaves as it was beside the function registers of one binding. -/
structure FunctionFrame (s t : State) (d : FuncReg) (c : Slice) : Prop extends AroundVectors s t c true where
  outside : ∀ r : FReg, (r.val < d.n ∨ d.n + d.span ≤ r.val) → t.strand.vec.f.get r = s.strand.vec.f.get r ∧
    t.strand.vec.fvalid.get r = s.strand.vec.fvalid.get r
  degrees : ∀ r : FReg, r.val ≠ d.n → t.strand.vec.dg.get r = s.strand.vec.dg.get r
  descriptors : t.strand.vec.pdesc = s.strand.vec.pdesc
  vectors : t.strand.vec.v = s.strand.vec.v ∧ t.strand.vec.m = s.strand.vec.m ∧ t.strand.vec.vvalid = s.strand.vec.vvalid ∧
    t.strand.vec.mvalid = s.strand.vec.mvalid

/-- The flags of the results at some places together. -/
def placeFlags (places : List Place) (res : Place → Array Nat × Flags) : Flags :=
  places.foldl (fun a p => a.or (res p).2) Flags.none

/-- How an instruction that writes functions ends (R118, R136): an enabled flag of any place traps FPX with no effect; otherwise each
place has its coefficients, rounded, the binding its degree, and FCSR the flags. -/
def FunctionEnds (o : Out) (s : State) (d : FuncReg) (deg : Nat) (places : List Place) (res : Place → Array Nat × Flags)
    (vstart : BitVec 24) : Prop :=
  let c := s.strand.cmp; let fl := placeFlags places res
  (fcsrTraps c.fcsr fl = true → o = .next (s.ranVector.trap 0x15 (BitVec.setWidth 64 fl.toBits))) ∧
  (fcsrTraps c.fcsr fl = false → Completes o fun t =>
    (∀ p ∈ places, ∀ i, i < (deg + 1) ^ d.dim → coefficient t d p.lane p.slot i = (res p).1.getD i 0 % 2 ^ d.fmt.width) ∧
    t.strand.vec.dg.get (fnum d.n) = BitVec.ofNat 4 deg ∧
    FunctionFrame s t d { c with pc := c.pc + 4, stall := none, vstart := vstart, fcsr := c.fcsr ||| BitVec.setWidth 13 fl.toBits })

/-- Every pass and pointwise step of coefficients that are all +0 is +0 without a flag (R136). -/
def zeroOr (xs : List (Array Nat)) (n : Nat) (r : Array Nat × Flags) : Array Nat × Flags :=
  if xs.all fun x => x.all (· == 0) then (Array.replicate n 0, Flags.none) else r

/-- PMOV, PZERO, PADD, PSUB, PMUL, PDIFF, PPROJ, PTRACE and the control instructions complete with their functions, flags and
frame (R136, R142, R143, R145, R146, R149, R150, R151, R381, R386, R389, R390). On bound registers that agree and fit, the
destination's function in every lane and slot is the copy, sum, difference, product, derivative, projection or trace of the
sources, at the degree the rules give; PZERO and PSET clear their span, PSET binds it, PSET.DG sets the degree and PGET and
PGET.DG read. An unbound register traps FSHAPE. -/
def Obligations.FunctionArrayInstructions : Prop :=
  ∀ (s : State), PCalm s →
    let c := s.strand.cmp
    let src (d : FuncReg) (p : Place) : Array Nat := s.strand.vec.coefs d p.lane p.slot
    (∀ (fd fs1 : FReg) (d x : FuncReg), bound s fd d → bound s fs1 x →
      let places := arrayPlaces s.lanes (leastE [d, x])
      let one (ins : Instr) (deg : Nat) (op : Array Nat → Array Nat × Flags) : Prop :=
        deg ≤ d.cap → FunctionEnds (exec ins s) s d deg places
          (fun p => zeroOr [src x p] ((deg + 1) ^ d.dim) (op (src x p))) c.vstart
      (agrees d x = true → one (.pmov fd fs1) x.p (fun u => (u, Flags.none))) ∧
      (∀ dir, agrees d x = true → dirIndex dir < x.dim →
        one (.pdiff dir fd fs1) (if x.isGll then x.p else x.p - 1) (derivative (dirIndex dir) x)) ∧
      (∀ q : BitVec 4, d.shape = x.shape → d.fmt = x.fmt → one (.pproj fd fs1 q) q.toNat (project q.toNat d x)) ∧
      (∀ face : BitVec 3, x.dim ≠ 0 → face.toNat < 2 * x.dim → d.shape = faceShape x.shape → d.basis = x.basis → d.fmt = x.fmt →
        one (.ptrace fd fs1 face) x.p (trace face.toNat x))) ∧
    (∀ (a : P3) (d x y : FuncReg), bound s a.fd d → bound s a.fs1 x → bound s a.fs2 y → agrees d x = true → agrees d y = true →
      let places := arrayPlaces s.lanes (leastE [d, x, y])
      let two (ins : Instr) (deg : Nat) (op : Array Nat → Array Nat → Array Nat × Flags) : Prop :=
        deg ≤ d.cap → FunctionEnds (exec ins s) s d deg places
          (fun p => zeroOr [src x p, src y p] ((deg + 1) ^ d.dim) (op (src x p) (src y p))) c.vstart
      let q := max x.p y.p
      let sum (op : Val → Val → Val × Flags) (u v : Array Nat) : Array Nat × Flags :=
        let r := pointwise d.fmt op (embed x q u).1 (embed y q v).1
        (r.1, (embed x q u).2.or ((embed y q v).2.or r.2))
      two (.padd a) q (sum fun u v => u.addExact .rne v) ∧
      two (.psub a) q (sum fun u v => u.addExact .rne v.negate) ∧
      (∀ mode, (x.p + y.p ≤ d.cap ∨ mode ≠ .exact) →
        two (.pmul mode a) (min (x.p + y.p) d.cap) (product mode d.cap x y))) ∧
    (∀ (fd : FReg) (d : FuncReg), bound s fd d →
      (Completes (exec (.pzero fd) s) fun t =>
        (∀ r : FReg, d.n ≤ r.val → r.val < d.n + d.span → t.strand.vec.f.get r = Vector.replicate 32 0 ∧
          t.strand.vec.fvalid.get r = 0) ∧
        t.strand.vec.dg.get fd = 0 ∧ FunctionFrame s t d { c with pc := c.pc + 4, stall := none }) ∧
      (∀ x : Reg, (s.x x).toNat ≤ d.cap → (s.x x).toNat ≤ 15 → Completes (exec (.psetDg fd x) s) fun t =>
        t.strand.vec = { s.strand.vec with dg := s.strand.vec.dg.set fd.val (BitVec.setWidth 4 (s.x x)) fd.isLt } ∧
        AroundVectors s t { c with pc := c.pc + 4, stall := none } true)) ∧
    (∀ (fd : FReg) (x : Reg), let v := (s.x x).toNat; let span := 2 ^ (v / 16 % 4)
      v < 2 ^ 25 → (v % 4 = 3 → v / 64 % 16 = 0) → fd.val % span = 0 →
      let e := span * 4096 / ((v / 64 % 16 + 1) ^ (if v % 4 = 3 then 0 else v % 4 + 1) * (if v / 8 % 2 = 1 then 4 else 8))
      e ≠ 0 → Completes (exec (.pset fd x) s) fun t =>
        t.strand.vec.pdesc.get fd = BitVec.ofNat 25 (v % 1024 + e * 1024 + 2 ^ 24) ∧ t.strand.vec.dg.get fd = 0 ∧
        (∀ r : FReg, fd.val ≤ r.val → r.val < fd.val + span → t.strand.vec.f.get r = Vector.replicate 32 0 ∧
          t.strand.vec.fvalid.get r = 0 ∧ (r ≠ fd → t.strand.vec.func r = none)) ∧
        (∀ r : FReg, (r.val < fd.val ∨ fd.val + span ≤ r.val) → t.strand.vec.f.get r = s.strand.vec.f.get r) ∧
        t.strand.vec.v = s.strand.vec.v ∧ t.strand.vec.m = s.strand.vec.m ∧
        AroundVectors s t { c with pc := c.pc + 4, stall := none } true) ∧
    (∀ (rd : Reg) (fs1 : FReg), Gives (exec (.pget rd fs1) s) s.ranVector rd
        (if (s.strand.vec.func fs1).isSome then BitVec.setWidth 64 (s.strand.vec.pdesc.get fs1) else 0) 4 ∧
      Gives (exec (.pgetDg rd fs1) s) s.ranVector rd
        (if (s.strand.vec.func fs1).isSome then BitVec.setWidth 64 (s.strand.vec.dg.get fs1) else 0) 4) ∧
    (∀ (f g : FReg), s.strand.vec.func f = none → ∀ i ∈ [Instr.pmov f g, .pmov g f, .pzero f, .padd ⟨g, f, g⟩, .psub ⟨f, g, g⟩,
        .pmul .exact ⟨g, g, f⟩, .pdiff .d1 f g, .pproj g f 0, .ptrace f g 0], exec i s = .next (s.ranVector.trap 0x0D 0))

/-- PSCL, PAXPY, PJUMP, PAVG, PINT and PEVAL complete over their window, PPUSH and PPOP over their row of blocks, with flags and
frame (R139, R144, R148, R152, R153, R154, R382, R383, R385, R388, R391, R392). Each active element of the window stands for
the lane and slot that R139 gives it: PSCL and PAXPY scale and add, PJUMP and PAVG combine a face with the reoriented other
face, PINT and PEVAL write the integral or the value at a point to vd; PPUSH appends and PPOP takes one entry of 64 bytes of
each lane. -/
def Obligations.FunctionWindowInstructions : Prop :=
  ∀ (s : State), PCalm s →
    let c := s.strand.cmp; let L := s.lanes
    let src (d : FuncReg) (p : Place) : Array Nat := s.strand.vec.coefs d p.lane p.slot
    let window (g : Gov) (x : Reg) : List Place :=
      ((List.range c.vl.toNat).filter (takes s g)).map fun i => ⟨i, i % L, (s.x x).toNat + i / L⟩
    let fits (g : Gov) (x : Reg) (ds : List FuncReg) : Prop := ∀ p ∈ window g x, ∀ d ∈ ds, p.slot < d.e
    (∀ (a : PSclArgs) (d x : FuncReg), bound s a.fd d → bound s a.fs1 x → agrees x d = true → s.vw = x.fmt.width →
      fits a.gov a.xs [x, d] → x.p ≤ d.cap →
      FunctionEnds (exec (.pscl a) s) s d x.p (window a.gov a.xs)
        (fun p => joinFlags ((src x p).toList.map fun k =>
          roundTo x.fmt ((x.fmt.decode (s.vget a.vs x.fmt.width p.i)).mulExact (x.fmt.decode k)))) 0) ∧
    (∀ (a : PWinArgs) (d x y : FuncReg), bound s a.fd d → bound s a.fs1 x → bound s a.fs2 y → agrees x d = true →
      agrees x y = true → s.vw = x.fmt.width → fits a.gov a.xs [x, y, d] →
      let places := window a.gov a.xs; let q := max x.p y.p
      (x.p = y.p → x.p ≤ d.cap → FunctionEnds (exec (.paxpy a) s) s d x.p places
        (fun p => pointwise x.fmt (fun u v => Val.fmaExact .rne (x.fmt.decode (s.vget a.vs x.fmt.width p.i)) u v) (src x p) (src y p))
        0) ∧
      (x.shape ≠ 2 → (∀ p ∈ places, s.vget a.vs x.fmt.width p.i ≤ codeMask x.shape) → q ≤ d.cap →
        let other (p : Place) : Array Nat × Flags := embed y q (reorient y (s.vget a.vs x.fmt.width p.i) (src y p))
        let face (op : Val → Val → Val × Flags) (p : Place) : Array Nat × Flags :=
          let r := pointwise x.fmt op (embed x q (src x p)).1 (other p).1
          (r.1, (embed x q (src x p)).2.or ((other p).2.or r.2))
        FunctionEnds (exec (.pjump a) s) s d q places (face fun u v => u.addExact .rne v.negate) 0 ∧
        FunctionEnds (exec (.pavg a) s) s d q places
          (face fun u v => ((u.addExact .rne v).1.scale (-1), (u.addExact .rne v).2)) 0)) ∧
    (∀ (a : PVecArgs) (x : FuncReg), bound s a.fs1 x → s.vw = x.fmt.width → fits a.gov a.xs [x] →
      c.vl.toNat ≤ s.vlmax x.fmt.width →
      let places := window a.gov a.xs
      let slot (i : Nat) : Place := ⟨i, i % L, (s.x a.xs).toNat + i / L⟩
      let ends (ins : Instr) (op : Nat → Nat × Flags) : Prop :=
        let fl := places.foldl (fun b p => b.or (op p.i).2) Flags.none
        (fcsrTraps c.fcsr fl = true → exec ins s = .next (s.ranVector.trap 0x15 (BitVec.setWidth 64 fl.toBits))) ∧
        (fcsrTraps c.fcsr fl = false → Completes (exec ins s) fun t =>
          VWrote s t a.vd x.fmt.width (takes s a.gov) (fun i => (op i).1) ∧
          VFrame s t (vafter s (c.fcsr ||| BitVec.setWidth 13 fl.toBits)))
      ends (.pint a) (fun i => integral x (if x.isGll then tableW x.fmt x.p x.dim else #[]) (src x (slot i))) ∧
      (a.vd.val + x.dim ≤ 32 → ends (.peval a) (fun i => evaluate x (if x.isGll then gllNodes x.p else #[])
        ((List.range x.dim).map fun d => x.fmt.decode (s.vget (vnum (a.vd.val + d)) x.fmt.width i)) (src x (slot i))))) ∧
    (∀ (f : FReg) (x : Reg) (d : FuncReg), bound s f d → (s.x x).toNat < d.span * 64 →
      let w := d.fmt.width; let off := 64 * (s.x x).toNat
      (s.strand.q.sdq.length < 8 → Completes (exec (.ppush f x) s) fun t => ∃ e : QSlot,
        t.strand.q = { s.strand.q with sdq := s.strand.q.sdq ++ [e] } ∧ e.full = true ∧ e.count.toNat = 512 * L / w ∧
        widthBits e.width.toNat = w ∧ e.mark = s.strand.issued ∧
        (∀ i, i < 512 * L / w → e.elem i = s.strand.vec.fget d (i % L) (off + i / L * (w / 8)) w) ∧
        t.strand.vec = s.strand.vec ∧ AroundVectors s (putQ s t) { c with pc := c.pc + 4, stall := none } true) ∧
      (∀ (e : QSlot) rest, s.strand.q.ldq = e :: rest → e.full = true → e.width.toNat ≤ 4 →
        let ew := widthBits e.width.toNat
        e.count.toNat * ew = 512 * L → Completes (exec (.ppop f x) s) fun t =>
          t.strand.q = { s.strand.q with ldq := rest, ldqHead := s.strand.q.ldqHead + 1 } ∧
          (∀ l k, l < L → k < 512 / ew →
            t.strand.vec.fget d l (off + k * ew / 8) 8 = (if ew = 4 then
              e.elem (k / 2 * 2 * L + l) + 16 * e.elem ((k / 2 * 2 + 1) * L + l) else e.elem (k * L + l) % 256)) ∧
          t.strand.vec.v = s.strand.vec.v ∧ t.strand.vec.pdesc = s.strand.vec.pdesc ∧ t.strand.vec.dg = s.strand.vec.dg ∧
          AroundVectors s (putQ s t) { c with pc := c.pc + 4, stall := none, popMark := max c.popMark e.mark } true))

/-- The gang of the strand in focus is resident. -/
def gangThere (s : State) (i : StrandId) : Prop :=
  (s.gangs.any fun g => g.lid == i.lid && g.squad == i.squad && g.index == i.gang) = true

/-- Where a matrix instruction runs at once (R159, R162, R167): its format word names `f`, its type is legal, nothing is queued before
it, and its gang is there, with its scratchpad in this package, free of uncorrectable errors, no detector at work and no load or atomic
that waits. -/
structure MatrixGoes (s : State) (fmt : Fin 8) (f : FmtWord) : Prop where
  side : s.side = .compute
  word : fmtParse (s.fmtReg fmt) = some f
  legal : s.strand.cmp.legal = true
  present : s.strand.trap.vabsent = false
  idle : s.strand.q.viq = [] ∧ s.strand.q.mq = []
  gang : gangThere s s.strand.id
  near : isFar (s.spadBase + s.spadLimit) = false
  good : s.bad = []
  det : s.isDet s.strand.id.lid = false
  canonical : s.MemoryCanonical
  loads : ∀ a ∈ s.strand.stores, a.loads = [] ∧ a.atom = none

/-- Rows of `size` bytes from xs1 in steps of xs2 that R370 lets pass. -/
structure RowsPass (s : State) (x1 x2 : Word) (least rows size : Nat) : Prop where
  aligned : x1.toNat % 64 = 0 ∧ x2.toNat % 64 = 0
  step : least ≤ x2.toNat
  extent : x1.toNat + (rows - 1) * x2.toNat + size ≤ s.spadLimit

/-- Element `n` of a row of elements of `w` bits, 4 or whole bytes, at a key (R157, R160). -/
def rowElement (m : Memory) (key w n : Nat) : Nat :=
  if w = 4 then (m.get (key + n / 2)).toNat / 16 ^ (n % 2) % 16 else leNat (m.read (key + n * (w / 8)) (w / 8))

/-- Element (r, n) of a tile (R156). -/
def tileElement (t : Tile) (r n : Nat) : Nat := t.data.toNat / 2 ^ (32 * (256 * r + n)) % 2 ^ 32

/-- What a matrix instruction leaves as it was beside its panel, its tile and memory: it goes on at the next instruction. -/
structure MatrixFrame (s t : State) (fcsr : BitVec 13) : Prop where
  slice : t.strand.cmp = { s.strand.cmp with pc := s.strand.cmp.pc + 8, stall := none, fcsr := fcsr }
  partner : t.strand.acc = s.strand.acc
  identity : t.strand.id = s.strand.id
  regs : t.strand.regs = s.strand.regs
  vec : t.strand.vec = s.strand.vec
  queues : t.strand.q = s.strand.q
  special : t.strand.sys = { s.strand.sys with vbrun := true }
  trap : t.strand.trap = s.strand.trap
  counts : t.strand.issued = s.strand.issued ∧ t.strand.lost = s.strand.lost
  due : s.det.due = [] → t.det = s.det
  rest : SameRest { s with gangs := t.gangs, delays := t.delays, det := t.det } t

/-- The panels and tiles of the gang but one panel and one tile are as they were. -/
def otherMacros (s t : State) (panel tile : Option Nat) : Prop :=
  (∀ n, some n ≠ panel → t.panel n = s.panel n) ∧ (∀ n, some n ≠ tile → t.tile n = s.tile n)

/-- The new element (r, n) of an accumulator tile under an MMA, and its flags: the old element plus the group sum of its 64 products (R164). -/
def mmaNew (f : FmtWord) (L : Nat) (p : Panel) (t : Tile) (e : MqEntry) (r n : Nat) : Nat × Flags :=
  let ai (j : Nat) : Nat := p.depth * r + p.pos j n
  if t.isInt then (Fmt.i32.deliverInt f.sat (Fmt.i32.decodeInt (tileElement t r n) +
      ((List.range 64).map fun j => f.src1.decodeInt (elemAt L f.src1.width e.a (ai j)) *
        f.src2.decodeInt (bits p.weights.toNat (8 * (256 * j + n)) 8)).sum), Flags.none)
  else
    let dot := matDot f ((List.range 64).map fun j => (matA f L e (ai j), matW f p j n))
    let sum := (Fmt.fp32.decode (tileElement t r n)).addExact f.rnd dot.1
    let y := Fmt.fp32.deliver f.rnd f.sat sum.1
    (y.1, (dot.2.or sum.2).or y.2)

/-- MLDB, MLDB.P, MLDACC, MST, MZERO and MMA complete with their panels, tiles, memory, flags and frame (R117, R156, R160, R161, R164,
R165, R166, R167, R170, R369, R370, R371). With nothing queued before them: MLDB and MLDB.P fill a panel from rows of the
scratchpad, MLDACC a tile; MST stores the converted rows, MZERO clears a tile and sets its mode, and MMA adds to each
element of the first VLC / depth rows the group sum of its 64 products, rounded once, the other rows keeping their values. The flags of all
elements of an MST or an MMA together go to FCSR, or, where one of them is enabled, the instruction traps FPX with them and has no effect. -/
def Obligations.MatrixInstructions : Prop :=
  ∀ (s : State) (f : FmtWord),
    (∀ a : MatArgs, MatrixGoes s a.fmt f →
      let x1 := s.x a.xs1; let x2 := s.x a.xs2; let base := s.spadBase + x1.toNat; let step := x2.toNat; let n := a.n.val
      (n < s.gang.npanels → matB f.src2 = true → s.panelFree n = true →
        (f.scaled = true → f.src2.isMx = true) →
        (if f.scaled then RowsPass s x1 x2 256 66 256 else RowsPass s x1 x2 (rowBytes f.src2) 64 (rowBytes f.src2)) →
        Completes (exec (.mldb a) s) fun t => let p := t.panel n
          p.tag = some (BitVec.ofNat 5 f.src2.code) ∧ p.scaled = f.scaled ∧ p.pruned = false ∧
          (∀ k c, k < 64 → c < 256 → bits p.weights.toNat (8 * (256 * k + c)) 8 = rowElement t.mem (base + k * step) f.src2.width c) ∧
          (f.scaled = true → ∀ b c, b < 2 → c < 256 →
            bits p.scales.toNat (8 * (256 * b + c)) 8 = rowElement t.mem (base + (64 + b) * step) 8 c) ∧
          (s.strand.stores = [] → SameBytes s t) ∧ otherMacros s t (some n) none ∧ MatrixFrame s t s.strand.cmp.fcsr) ∧
      (n < s.gang.npanels → matB f.src2 = true → f.scaled = false → s.panelFree n = true →
        RowsPass s x1 x2 (rowBytes f.src2) 128 (rowBytes f.src2) →
        Completes (exec (.mldbP a) s) fun t => let p := t.panel n
          p.tag = some (BitVec.ofNat 5 f.src2.code) ∧ p.scaled = false ∧ p.pruned = true ∧
          (∀ k c, k < 64 → c < 256 → bits p.weights.toNat (8 * (256 * k + c)) 8 = rowElement t.mem (base + k * step) f.src2.width c ∧
            bits p.index.toNat (4 * (256 * k + c)) 4 = rowElement t.mem (base + (64 + k) * step) 4 c) ∧
          (s.strand.stores = [] → SameBytes s t) ∧ otherMacros s t (some n) none ∧ MatrixFrame s t s.strand.cmp.fcsr) ∧
      (n < s.gang.naccs → (f.dst = .fp32 ∨ f.dst = .i32) → s.tileIdle n = true → RowsPass s x1 x2 1024 32 1024 →
        Completes (exec (.mldacc a) s) fun t =>
          ((t.tile n).isInt = true ↔ f.dst = .i32) ∧
          (∀ r c, r < 32 → c < 256 → tileElement (t.tile n) r c = rowElement t.mem (base + r * step) 32 c) ∧
          (s.strand.stores = [] → SameBytes s t) ∧ otherMacros s t none (some n) ∧ MatrixFrame s t s.strand.cmp.fcsr) ∧
      (n < s.gang.naccs → f.dst ≠ .e8m0 → (f.scaled = true → f.dst.isMx = true) →
        f.src1 = (if (s.tile n).isInt then .i32 else .fp32) → s.tileIdle n = true →
        s.delays = [] → s.strand.stores = [] →
        RowsPass s x1 x2 (rowBytes f.dst) (if f.scaled then 33 else 32) (if f.scaled then 256 else rowBytes f.dst) →
        let fl := (List.range 32).foldl (fun (x : Flags) r => x.or (mstRow f (s.tile n) r).2.2) Flags.none
        (fcsrTraps s.strand.cmp.fcsr fl = true → exec (.mst a) s = .next (s.ranVector.trap 0x15 (BitVec.setWidth 64 fl.toBits))) ∧
        (fcsrTraps s.strand.cmp.fcsr fl = false → Completes (exec (.mst a) s) fun t =>
          (∀ r c, r < 32 → c < 256 → rowElement t.mem (base + r * step) f.dst.width c =
            (mstRow f (s.tile n) r).1.getD c 0 % 2 ^ f.dst.width) ∧
          (f.scaled = true → ∀ r b, r < 32 → b < 8 →
            (t.mem.get (base + 32 * step + 8 * r + b)).toNat = (mstRow f (s.tile n) r).2.1.getD b 0 % 256) ∧
          (∀ die key, (∀ r, r < 32 → key < base + r * step ∨ base + r * step + rowBytes f.dst ≤ key) →
            (f.scaled = true → key < base + 32 * step ∨ base + 32 * step + 256 ≤ key) → t.byteAt die key = s.byteAt die key) ∧
          otherMacros s t none none ∧ MatrixFrame s t (s.strand.cmp.fcsr ||| BitVec.setWidth 13 fl.toBits)))) ∧
    (∀ (acc : Fin 16) (fmt : Fin 8), MatrixGoes s fmt f → acc.val < s.gang.naccs → (f.dst = .fp32 ∨ f.dst = .i32) →
      s.grantable ⟨.mzero acc fmt, s.fmtReg fmt, 0, 0, 0, false, 0, 0, 0, 0, none⟩ = true → s.delays.headD false = false →
      Completes (exec (.mzero acc fmt) s) fun t =>
        ((t.tile acc.val).isInt = true ↔ f.dst = .i32) ∧ (t.tile acc.val).data = 0 ∧ SameBytes s t ∧
        otherMacros s t none (some acc.val) ∧ MatrixFrame s t s.strand.cmp.fcsr) ∧
    (∀ a : MmaArgs, MatrixGoes s a.fmt f → s.mmaOk a f = true → s.mmaLen a f = true →
      s.grantable (s.mmaEntry a (s.fmtReg a.fmt)) = true → (fcsrEn s.strand.cmp.fcsr = 0 → s.delays.headD false = false) →
      let p := s.panel a.panel.val; let t0 := s.tile a.acc.val
      let new := mmaNew f s.lanes p t0 (s.mmaEntry a (s.fmtReg a.fmt)); let rows := s.strand.cmp.vl.toNat / p.depth
      let fl := (List.range rows).foldl (fun (x : Flags) r => (List.range 256).foldl (fun (x : Flags) n => x.or (new r n).2) x) Flags.none
      (fcsrTraps s.strand.cmp.fcsr fl = true → exec (.mma a) s = .next (s.ranVector.trap 0x15 (BitVec.setWidth 64 fl.toBits))) ∧
      (fcsrTraps s.strand.cmp.fcsr fl = false → Completes (exec (.mma a) s) fun t => let t1 := t.tile a.acc.val
        t1.isInt = t0.isInt ∧
        (∀ r n, r < 32 → n < 256 → tileElement t1 r n = if r < rows then (new r n).1 % 2 ^ 32 else tileElement t0 r n) ∧
        SameBytes s t ∧ otherMacros s t none (some a.acc.val) ∧ MatrixFrame s t (s.strand.cmp.fcsr ||| BitVec.setWidth 13 fl.toBits)))

/-- The command that an issue at `a` of the access TCM makes, once the slice's earlier accesses, and what its pops have ordered before
them, are performed (R61, R186, R187, R190). -/
def issued (s : State) (op : Nat) (a : Word) : Command :=
  let u := s.settleOwn; let i := s.strand.id
  let desc := u.mem.read (tcmKey i.cluster i.pair .access a.toNat) 64
  ⟨(s.engine i.cluster).issued + 1, op, desc, i, s.strand.trap.ptbr, s.strand.trap.priv, u.engCheck i op (engDesc desc), false, false,
    false, 0, 0, 0, 0⟩

/-- What an engine instruction leaves as it was beside its register, its gang, its engine, memory and the model's own counters. -/
structure EngineFrame (s t : State) (rd : Reg) (v : Word) : Prop where
  regs : WroteX s t rd v
  slice : t.strand.acc = { s.strand.acc with pc := s.strand.acc.pc + 8, stall := none }
  partner : t.strand.cmp = s.strand.cmp
  identity : t.strand.id = s.strand.id
  vec : t.strand.vec = s.strand.vec
  queues : t.strand.q = s.strand.q
  special : t.strand.sys = s.strand.sys
  trap : t.strand.trap = s.strand.trap

/-- A copy inside a gang's scratchpad: equal formats of whole bytes, no transposition, no acquire or release, in range (R187, R191). -/
structure SpadCopy (s : State) (c : Command) (f : Fmt) : Prop where
  op : c.op = 0 ∧ c.failed = none ∧ c.started = false ∧ c.moved = false
  formats : (engDesc c.desc).f1 = some f ∧ (engDesc c.desc).fd = some f ∧ (engDesc c.desc).rnd.isSome = true ∧ 8 ≤ f.width
  flags : (engDesc c.desc).flags = 5
  pitch : (engDesc c.desc).cols ≤ (engDesc c.desc).dp
  source : (engDesc c.desc).src + ((engDesc c.desc).rows * (engDesc c.desc).sp + (engDesc c.desc).cols) * (f.width / 8) ≤
    (s.gangOf c.owner).spadPages * 4096
  dest : (engDesc c.desc).dst + ((engDesc c.desc).rows * (engDesc c.desc).dp + (engDesc c.desc).cols) * (f.width / 8) ≤
    (s.gangOf c.owner).spadPages * 4096
  gang : gangThere s c.owner
  near : isFar (spadKey c.owner.cluster ((s.gangOf c.owner).spadPage * 4096 + (s.gangOf c.owner).spadPages * 4096)) = false
  clear : s.bad = [] ∧ s.isDet c.owner.lid = false ∧ s.engWaits c = false ∧
    ((s.engine c.owner.cluster).cmds.any fun x => x.seq < c.seq && s.engConflict x c) = false

/-- ECOPY, EQUANT, EPACK and EUNPACK issue, ESEQ and EVPOP read, and a command that ends moves its data and leaves its record
(R186, R188, R189, R190, R191, R344, R349, R350, R351, 19_ref_a_e.md). An issue reads the descriptor behind the slice's
earlier accesses and writes the next number to xd, or 0 when 32 are outstanding; a command that fails its checks ends at once
with its code in its record; ESEQ reads DONE and ERRS; EVPOP writes the oldest record to the TCM, or writes 0; at its end a
copy in the scratchpad has moved every element. That it moves them in one step, from the source as it then stands, is the model's choice
(log 22). -/
def Obligations.EngineCommands : Prop :=
  ∀ (s : State) (rd xs1 : Reg), let i := s.strand.id; let a := s.x xs1; let e := s.engine i.cluster
    let w := s.settleOwn
    (s.side = .access → gangThere s i →
      (∀ p ∈ [(Instr.ecopy rd xs1, 0), (.equant rd xs1, 1), (.epack rd xs1, 2), (.eunpack rd xs1, 3)],
        a.toNat % 64 = 0 → a.toNat + 64 ≤ 65536 →
        (32 ≤ (s.gangOf i).outstanding → Completes (exec p.1 s) fun t =>
          EngineFrame w t rd 0 ∧ SameBytes w t ∧ SameRest w t) ∧
        ((s.gangOf i).outstanding < 32 → s.isDet i.lid = false → Completes (exec p.1 s) fun t =>
          EngineFrame w t rd (BitVec.ofNat 64 (e.issued + 1)) ∧ (t.gangOf i).outstanding = (s.gangOf i).outstanding + 1 ∧
          (t.engine i.cluster).issued = e.issued + 1 ∧
          ((issued s p.2 a).failed = none → s.delays.headD false = true →
            (t.engine i.cluster).cmds = e.cmds ++ [issued s p.2 a] ∧ SameBytes w t) ∧
          (∀ code, (issued s p.2 a).failed = some code → s.engWaits (issued s p.2 a) = false →
            (t.gangOf i).records = (s.gangOf i).records ++ [Command.record { issued s p.2 a with code := code }] ∧
            SameBytes w t))) ∧
      (let d := e.settle
       (∀ n, d.sysFirst = some n → d.done < n) →
        Gives (exec (.eseq rd) s) s rd (BitVec.ofNat 64 (d.done % 2 ^ 48 + d.errs.toNat * 2 ^ 48)) 8) ∧
      (a.toNat % 32 = 0 → a.toNat + 32 ≤ 65536 →
        ((s.gangOf i).records = [] → Gives (exec (.evpop rd xs1) s) s rd 0 8) ∧
        (∀ r rest, (s.gangOf i).records = r :: rest → r.length = 32 → s.delays = [] →
          let key := tcmKey i.cluster i.pair .access a.toNat
          isFar (key + 32) = false → Completes (exec (.evpop rd xs1) s) fun t =>
            EngineFrame (s.ahead { scalarOf s key 1 .w false .none with mslices := [memSlice s.strand.die key] }) t rd 1 ∧ t.mem.read key 32 = r ∧ (t.gangOf i).records = rest ∧
            (t.gangOf i).outstanding = (s.gangOf i).outstanding - 1))) ∧
    (∀ (cl : Fin 160) (seq : Nat) (c : Command), (s.engine cl.val).cmds.find? (fun x => x.seq == seq) = some c →
      c.owner.cluster = cl.val →
      (c.moved = true → s.engWaits c = false → gangThere s c.owner →
        (c.code ≠ 0 ∨ c.released = true ∨ (engDesc c.desc).rel = false ∨ (engDesc c.desc).scope ≠ 4) → Completes (exec (.engineCommandEnd cl seq false) s) fun t =>
        (t.gangOf c.owner).records = (s.gangOf c.owner).records ++ [c.record] ∧
        (t.engine cl.val).cmds = (s.engine cl.val).cmds.filter (fun x => x.seq != seq) ∧ SameBytes s t) ∧
      (∀ f, SpadCopy s c f → Completes (exec (.engineCommandEnd cl seq false) s) fun t =>
        let d := engDesc c.desc; let b := f.width / 8
        let at_ (o : Nat) : Nat := spadKey cl.val ((s.gangOf c.owner).spadPage * 4096 + o)
        (∀ r k o, r < d.rows → k < d.cols → o < b →
          t.mem.get (at_ (d.dst + (r * d.dp + k) * b + o)) = s.mem.get (at_ (d.src + (r * d.sp + k) * b + o))) ∧
        (t.gangOf c.owner).records = (s.gangOf c.owner).records ++
          [Command.record { c with started := true, moved := true, code := 0, failAddr := 0, written := d.rows * d.cols * b, needed := 0 }]))

/-- The 1,152 KiB of an area at `a` are mapped, for an access `n` at S, onto as many consecutive locations of this package from the key
`k` on, whatever the memory holds (R266, R268). -/
structure AreaMaps (s : State) (n : Need) (a k : Nat) : Prop where
  near : isFar (k + 0x120000) = false
  maps : ∀ (m : Memory) (o : Nat), o < 0x120000 →
    { s with mem := m }.translate s.strand.trap.ptbr true n (BitVec.ofNat 64 (a + o)) = .ok (k + o)

/-- The strand's lanes, queues and function tags are within what the machine has (R55 to R57, R98, R127). -/
structure AreaFits (t : Strand) : Prop where
  lanes : 1 ≤ t.id.lanes ∧ t.id.lanes ≤ 32
  queues : t.q.aq.length ≤ 32 ∧ t.q.cq.length ≤ 32 ∧ t.q.viq.length ≤ 32
  tags : ∀ r : FReg, (t.vec.fvalid.get r).toNat ≤ 64

/-- GEOM and the tags of an area at `k` suit a strand of `lanes` lanes (R271). -/
def GeomSuits (m : Memory) (k lanes : Nat) : Prop :=
  let g := m.readNat k 8
  g % 256 = lanes ∧ g / 2 ^ 8 % 256 ≤ 32 ∧ g / 2 ^ 16 % 256 ≤ 32 ∧ g / 2 ^ 24 % 256 = 1 ∧ g / 2 ^ 32 = 0 ∧
  (∀ r, r < 32 → m.readNat (k + 16) 8 / 2 ^ (2 * r) % 4 ≠ 3) ∧ (∀ r, r < 8 → m.readNat (k + 24) 8 / 2 ^ (8 + 7 * r) % 128 ≤ 64)

/-- VSAVE writes a strand's context to its area and VRESTORE loads the vector, mask and function registers from one (R268, R269,
R271, R444, R445, 11_traps.md, 22_ref_v_z.md). At S after the TACK, with an aligned area in this package: VSAVE writes GEOM,
the registers, VBCONF as it has come to stand (log 6), both saved addresses and every valid vector, mask and function register that it may not
skip, and no byte outside the area; VRESTORE gives each such register what the area holds, or zero, and sets RESTADDR and VABSENT; that it leaves
VLA and VLC to the switch-in, though R81 names it among their writers, is the model's choice (log 63); a GEOM that does not suit traps GEOMETRY.
At U both trap ILLEGAL. -/
def Obligations.SaveAndRestoreOfAContext : Prop :=
  ∀ (s : State) (xs : Reg) (k : Nat), s.side = .access →
    let a := s.x xs; let u := s.settleOwn; let c := u.countConflicts; let L := s.strand.id.lanes
    (s.strand.trap.priv = false → ∀ i ∈ [Instr.vsave xs, .vrestore xs],
      exec i s = .next (s.trap 0x01 (BitVec.ofNat 64 (encode i % 2 ^ 32)))) ∧
    (s.strand.trap.priv = true → s.strand.trap.ack = true → a.toNat % 65536 ≠ 0 → ∀ i ∈ [Instr.vsave xs, .vrestore xs],
      exec i s = .next (s.trap 0x04 a)) ∧
    (s.strand.trap.priv = true → s.strand.trap.ack = true → a.toNat % 65536 = 0 → u.MemoryCanonical →
      ((s.strand.trap.vabsent = true → a = s.strand.trap.restaddr) → AreaFits s.strand → u.bad = [] → AreaMaps c .store a.toNat k →
        Completes (exec (.vsave xs) s) fun t =>
          t = { c.advance 4 with mem := t.mem } ∧
          (∀ key, (key < k ∨ k + 0x120000 ≤ key) → t.mem.get key = u.mem.get key) ∧
          t.mem.readNat k 8 = L + 0x01202000 ∧
          (∀ r : Reg, r ≠ 0 → t.mem.readNat (k + 0x100 + 8 * r.val) 8 = (u.strand.regs.user.get r).toNat ∧
            t.mem.readNat (k + 0x300 + 8 * r.val) 8 = (u.strand.regs.comp.get r).toNat) ∧
          t.mem.readNat (k + 0x438) 8 = c.strand.sys.vbconf.toNat ∧
          t.mem.readNat (k + 0x200) 8 = s.strand.trap.tpca.toNat ∧ t.mem.readNat (k + 0x400) 8 = s.strand.trap.tpcc.toNat ∧
          (s.strand.trap.vabsent = false →
            let written (n : Nat) : Prop := a ≠ s.strand.trap.restaddr ∨ s.strand.vec.vdirty.getLsbD n = true
            (∀ (r : VReg) (l : Nat), let n := 32 * (s.strand.vec.vvalid.get r).toNat
              n ≤ 64 → written r.val → l < L →
              t.mem.readNat (k + 0x10000 + 2048 * r.val + 64 * l) n = bits (s.strand.vec.v.get r).toNat (512 * l) (8 * n)) ∧
            (∀ (r : MReg) (e : Nat), s.strand.vec.mvalid.getLsbD r.val = true → written (32 + r.val) → e < 128 * L →
              (t.mem.readNat (k + 0x1000 + 512 * r.val + 16 * (e % L)) 16).testBit (e / L) = (s.strand.vec.m.get r).getLsbD e) ∧
            (∀ (r : FReg) (l : Fin 32), written (40 + r.val) → l.val < L →
              let n := 64 * (s.strand.vec.fvalid.get r).toNat
              t.mem.readNat (k + 0x20000 + 0x20000 * r.val + 4096 * l.val) n = ((s.strand.vec.f.get r).get l).toNat % 2 ^ (8 * n)))) ∧
      (1 ≤ L ∧ L ≤ 32 → u.bad = [] → AreaMaps u .load a.toNat k →
        (¬ GeomSuits u.mem k L → exec (.vrestore xs) s = .next (u.trap 0x0F a)) ∧
        (GeomSuits u.mem k L → Completes (exec (.vrestore xs) s) fun t =>
          let w := u.takeReply.advance 4; let v := t.strand.vec
          t = { w with strand := { w.strand with vec := v, trap := { w.strand.trap with restaddr := a, vabsent := false } } } ∧
          v.vdirty = 0 ∧
          (∀ r : VReg, (v.vvalid.get r).toNat = u.mem.readNat (k + 16) 8 / 2 ^ (2 * r.val) % 4 ∧
            ∀ l, l < L → bits (v.v.get r).toNat (512 * l) 512 =
              u.mem.readNat (k + 0x10000 + 2048 * r.val + 64 * l) (32 * (v.vvalid.get r).toNat)) ∧
          (∀ r : MReg, v.mvalid.getLsbD r.val = (u.mem.readNat (k + 24) 8).testBit r.val ∧ ∀ e, e < 128 * L →
            (v.m.get r).getLsbD e = (v.mvalid.getLsbD r.val &&
              (u.mem.readNat (k + 0x1000 + 512 * r.val + 16 * (e % L)) 16).testBit (e / L))) ∧
          (∀ r : FReg, (v.fvalid.get r).toNat = u.mem.readNat (k + 24) 8 / 2 ^ (8 + 7 * r.val) % 128 ∧
            (v.pdesc.get r).toNat = u.mem.readNat (k + 0xC80 + 8 * r.val) 8 % 2 ^ 25 ∧
            (v.dg.get r).toNat = u.mem.readNat (k + 0xCC0 + 8 * r.val) 8 % 2 ^ 4 ∧
            ∀ l : Fin 32, l.val < L → ((v.f.get r).get l).toNat =
              u.mem.readNat (k + 0x20000 + 0x20000 * r.val + 4096 * l.val) (64 * (v.fvalid.get r).toNat)))))

/-- GO, RESUME, ABORT and the clearing of ERR act as PREEMPTCTL says; a squad is saved and a strand switched in (R263, R266,
R267, R269, R277, R278, 11_traps.md). An accepted GO latches SAVEBASE and requests the trap of each strand that has not
completed, with its save area, or parks a launch without resident squads; a command while BUSY is 1 sets ERR and does
nothing else; while link 0 has not trained no write of PREEMPTCTL arrives; RESUME unparks; ABORT takes the launch and its strands away; a saved squad
leaves the machine and is remembered behind those of lower index; SWITCH_IN enters the PREEMPT trap with RESUME = 1 and the registers of the area that the strand was saved in. -/
def Obligations.PreemptionCommandsAndSwitchIn : Prop :=
  ∀ (s : State) (v : Word), let lid : BitVec 32 := BitVec.setWidth 32 v; let l := s.launchOf lid
    let up := linkUp s.hub.link0 = true
    (up → exec (.preemptErrClear v) s = .next { s with hub := { s.hub with pctlErr := s.hub.pctlErr && !v.getLsbD 36 } }) ∧
    (up → s.hub.busy ≠ none → ∀ i ∈ [Instr.preemptGo v, .preemptResume v],
      exec i s = .next { s with hub := { s.hub with pctlErr := true } }) ∧
    (¬ up → ∀ i ∈ [Instr.preemptErrClear v, .preemptGo v, .preemptResume v, .launchAbort v], exec i s = .next s) ∧
    (up → v.getLsbD 33 = false → v.getLsbD 34 = false → s.hub.busy = none → s.inFlight lid = true → l.parked = false → l.go = false →
      l.resume = false → (s.launches.filter (·.parked)).length < 64 →
      (∀ x ∈ s.launches, (x.parked = true ∨ x.go = true) →
        s.hub.saveBase.toNat + 2 ^ 39 ≤ x.saveBase.toNat ∨ x.saveBase.toNat + 2 ^ 39 ≤ s.hub.saveBase.toNat) →
      Completes (exec (.preemptGo v) s) fun t =>
        (t.launchOf lid).saveBase = s.hub.saveBase ∧ t.hub.pctlErr = (s.hub.pctlErr && !v.getLsbD 36) ∧
        ((∃ q ∈ s.squads, q.lid = lid) →
          t.hub.busy = some ⟨lid, false, false⟩ ∧ (t.launchOf lid).go = true ∧ t.mem = s.mem ∧ t.strand.regs = s.strand.regs ∧
          (s.strand.resident = true → s.strand.id.lid = lid → s.strand.completed = false →
            (∃ q ∈ s.squads, q.lid = lid ∧ q.index = s.strand.id.squad) →
            t.strand.trap.preempt = true ∧ ∃ slot, slot < s.squads.length ∧ (t.squadOf t.strand.id).slot = some slot ∧
              t.strand.trap.savearea = s.hub.saveBase +
                BitVec.ofNat 64 (slot * 2 ^ 31 + s.strand.id.gang * 2 ^ 25 + s.strand.id.name * 0x120000))) ∧
        ((∀ q ∈ s.squads, q.lid ≠ lid) → l.done < l.pkt.squads.toNat →
          t.hub.busy = none ∧ (t.launchOf lid).parked = true ∧ (t.launchOf lid).go = false)) ∧
    (up → v.getLsbD 32 = false → v.getLsbD 34 = false → s.hub.busy = none → l.parked = true →
      Completes (exec (.preemptResume v) s) fun t =>
        (t.launchOf lid).parked = false ∧ (l.saved ≠ [] → (t.launchOf lid).resume = true ∧
          t.hub.busy = some ⟨lid, true, false⟩ ∧ t.mem = s.mem) ∧
        (l.saved = [] → (t.launchOf lid).resume = false ∧ t.hub.busy = none)) ∧
    (up → v.getLsbD 32 = false → v.getLsbD 33 = false → (s.hub.busy = none ∨ s.hub.busy = some ⟨lid, true, false⟩) → s.inFlight lid = true →
      Completes (exec (.launchAbort v) s) fun t =>
        t.inFlight lid = false ∧ (∀ x ∈ t.strands, x.id.lid ≠ lid) ∧ (∀ g ∈ t.gangs, g.lid ≠ lid) ∧ (∀ q ∈ t.squads, q.lid ≠ lid) ∧
        lid ∈ t.hub.rejected ∧ t.hub.busy = none) ∧
    (∀ (squad : Nat), let q := (s.squads.find? fun q => q.lid == lid && q.index == squad).getD Squad.none
      (s.savable lid squad = false → exec (.squadSave lid squad) s = .next s) ∧
      (∀ u, s.savable lid squad = true → s.writeRegions l q (q.slot.getD 0) = some u →
        Completes (exec (.squadSave lid squad) s) fun t =>
          (∃ (x : SavedSquad) (before after : List SavedSquad), l.saved = before ++ after ∧ (t.launchOf lid).saved = before ++ x :: after ∧
            x.index = squad ∧ x.slot = q.slot.getD 0 ∧ x.die = q.die ∧
            (∀ b ∈ before, b.index < squad) ∧ (∀ b ∈ after.head?, squad ≤ b.index)) ∧
          (t.launchOf lid).savedCount = l.savedCount + 1 ∧ t.det = s.detSaved q ∧
          (∀ x ∈ t.strands, ¬ (x.id.lid = lid ∧ x.id.squad = squad)) ∧ (∀ g ∈ t.gangs, ¬ (g.lid = lid ∧ g.squad = squad)) ∧
          (∀ x ∈ t.squads, ¬ (x.lid = lid ∧ x.index = squad)))) ∧
    (∀ (key : Nat) (low pay : List Byte), let r := s.launchOf s.strand.id.lid
      let area := s.strand.trap.restaddr
      s.strand.resident = true → s.strand.key = key → s.strand.trap.loading = true →
      s.readArea s.strand.die r.ptbr area.toNat 4096 = .ok low → s.readArea s.strand.die r.ptbr (area.toNat + 0x2000) 0x8000 = .ok pay →
      Completes (exec (.switchIn key) s) fun t => let tr := t.strand.trap
        tr.loading = false ∧ tr.tcause = 0x17 ∧ tr.taddr = area ∧ tr.tstat.getLsbD 4 = true ∧ tr.tstat.getLsbD 3 = false ∧
        tr.priv = true ∧ tr.held = true ∧ tr.vabsent = true ∧ tr.restaddr = area ∧
        tr.savearea = (if s.strand.trap.preempt then s.strand.trap.savearea else area) ∧
        tr.tpca = BitVec.ofNat 64 (areaNat low 0x200 8) ∧ tr.tpcc = BitVec.ofNat 64 (areaNat low 0x400 8) ∧
        t.strand.acc.pc = BitVec.ofNat 64 (areaNat low 0x248 8) &&& 0x00FFFFFFFFFFFFFE ∧
        (∀ x : Reg, x ≠ 0 → t.strand.regs.user.get x = BitVec.ofNat 64 (areaNat low (0x100 + 8 * x.val) 8) ∧
          t.strand.regs.comp.get x = BitVec.ofNat 64 (areaNat low (0x300 + 8 * x.val) 8)) ∧
        t.strand.regs.super = s.strand.regs.super ∧ t = { s with strand := t.strand })

/-- Of the whole machine only launch queue `q` and the count of tail writes differ. -/
def OnlyQueue (s t : State) (q : Nat) : Prop :=
  (∀ k, k ≠ q → t.lq k = s.lq k) ∧
  t = { s with hub := { s.hub with queues := t.hub.queues, postOrder := t.hub.postOrder } }

/-- Writes of the queue registers, the check and dispatch of packets, the placement of squads and the completion of launches
(R25, R27, R29, R31, R34, R198, R280, 02_strands.md, 11_traps.md). A tail within the queue is taken and another sets ERR, sizes
are taken in their range, EQCTL and EQHEAD take their fields, and none arrives while link 0 has not trained; a packet is checked or rejected with its LID kept; the ready
head of highest PRIO, then earliest tail write, is dispatched, its code being what memory and the dies' copies of far lines hold then, without the bytes that are on their way to a home; a placed squad's strands start at the entry addresses with
their registers and cleared scratchpad; a launch that completes leaves with its COMPLETE record. -/
def Obligations.HostRegistersAndLaunches : Prop :=
  ∀ (s : State), let up := linkUp s.hub.link0 = true
    (¬ up → ∀ q v r, ∀ i ∈ [Instr.lqtailWrite q v, .lqsizeWrite q v, .eqsizeWrite v, .eqheadWrite v, .eqctlWrite v, .registerWrite r v],
      exec i s = .next s) ∧
    (∀ (q : Fin 64) (v : Word), up → let l := s.lq q.val; let w : BitVec 32 := BitVec.setWidth 32 v
      ((l.tail - l.head).toNat ≤ (w - l.head).toNat → (w - l.head).toNat ≤ 2 ^ (l.size.toNat % 32) →
        Completes (exec (.lqtailWrite q v) s) fun t => t.lq q.val = { l with tail := w, posts := (t.lq q.val).posts } ∧
          OnlyQueue s t q.val) ∧
      ((w - l.head).toNat < (l.tail - l.head).toNat ∨ 2 ^ (l.size.toNat % 32) < (w - l.head).toNat →
        Completes (exec (.lqtailWrite q v) s) fun t => t.lq q.val = { l with err := true } ∧ OnlyQueue s t q.val) ∧
      Completes (exec (.lqsizeWrite q v) s) (fun t => OnlyQueue s t q.val ∧
        t.lq q.val = if 4 ≤ v.toNat % 32 ∧ v.toNat % 32 ≤ 16 then { l with size := BitVec.ofNat 64 (v.toNat % 32) }
          else { l with err := true }) ∧
      Completes (exec (.registerWrite (.lqctl q) v) s) (fun t => OnlyQueue s t q.val ∧
        t.lq q.val = { l with en := v.getLsbD 0, err := l.err && !v.getLsbD 1 })) ∧
    (∀ v : Word, up →
      (v.toNat % 32 < 6 ∨ 20 < v.toNat % 32 → exec (.eqsizeWrite v) s = .next s) ∧
      (s.hub.events.held = [] → let put (e : EventQueue) : State := { s with hub := { s.hub with events := e } }
        (6 ≤ v.toNat % 32 → v.toNat % 32 ≤ 20 →
          exec (.eqsizeWrite v) s = .next (put { s.hub.events with size := BitVec.ofNat 64 (v.toNat % 32) })) ∧
        exec (.eqheadWrite v) s = .next (put { s.hub.events with head := BitVec.setWidth 32 v }) ∧
        exec (.eqctlWrite v) s = .next (put { s.hub.events with en := v.getLsbD 0, msix := v.getLsbD 1 })) ∧
      exec (.registerWrite .savebase v) s =
        .next { s with hub := { s.hub with saveBase := v &&& 0x00FFFFFFFFFF0000 } } ∧
      (∀ q p, ∀ r ∈ [Bar0Reg.devstat, .lqhead q, .eqtail, .portturns p, .portrply p], exec (.registerWrite r v) s = .next s)) ∧
    (∀ q : Fin 64, let l := s.lq q.val
      let p := parsePacket (s.mem.read (baseKey l.base + l.head.toNat % 2 ^ (l.size.toNat % 32) * 128) 128)
      s.takesLaunches = true → l.en = true → l.checked = none → l.head ≠ l.tail →
        (s.packetCode p = none → Completes (exec (.packetCheck q) s) fun t => OnlyQueue s t q.val ∧
          ∃ h : Head, h.pkt = p ∧ t.lq q.val = { l with checked := some h }) ∧
        (∀ c, s.packetCode p = some c → (∀ x ∈ s.hub.queues, x.2.checked = none) →
          Completes (exec (.packetCheck q) s) fun t => (t.lq q.val).head = l.head + 1 ∧ (t.lq q.val).checked = none ∧
            t.hub.rejected = (p.lid :: s.hub.rejected).take 1024 ∧ t.launches = s.launches ∧
            RecordPosted s t ((lidRecord 0x02 c p.lid [] ++ List.replicate 64 0).take 64))) ∧
    (s.takesLaunches = true → s.readyHeads ≠ [] → Completes (exec .launchDispatch s) fun t =>
      ∃ (q : Nat) (h : Head), (q, h) ∈ s.readyHeads ∧
        (∀ x ∈ s.readyHeads, x.2.pkt.prio ≤ h.pkt.prio ∧ (x.2.pkt.prio = h.pkt.prio → h.order ≤ x.2.order ∧
          (x.2.order = h.order → q ≤ x.1))) ∧
        (∃ x : Launch, t.launches = s.launches ++ [x] ∧
          x = { Launch.none with
            pkt := h.pkt, queue := q, ptbr := (s.lq q).ptbr, code := s.mem, codeLines := x.codeLines, codeSent := x.codeSent } ∧
          (∀ line j, (assocGet 0 x.codeSent line).getLsbD j = true ↔
            ∃ r ∈ s.reqs, ∃ m, (line, m) ∈ (r.addr, r.mask) :: r.wrote ∧ m.getLsbD j = true) ∧
          ∀ die key : Nat, let c := x.codeLine die (lineOf key)
            s.l2Byte die key = if c.have_.getLsbD (key % 64) then some (c.data.extractLsb' (8 * (key % 64)) 8) else none) ∧
        (t.lq q).head = (s.lq q).head + 1 ∧ (t.lq q).checked = none ∧ t.mem = s.mem ∧ t.strand = s.strand) ∧
    (∀ (lid : BitVec 32) (die : Fin 4) (places : List GangPlace), let l := s.launchOf lid; let p := l.pkt
      let cl (g : GangPlace) : Nat := die.val * 40 + g.cluster.val
      lid ≠ 0 → s.takesLaunches = true → s.placesNext lid = true → s.placesFit p die places = true → l.saved = [] →
      (∀ g ∈ places, s.seatsFit p (cl g) g = true) → Completes (exec (.squadPlace lid die places) s) fun t =>
        (t.launchOf lid).nextSquad = l.nextSquad + 1 ∧ t.squads = s.squads ++ [⟨lid, l.nextSquad, die.val, none, [], false⟩] ∧
        t.gangs.length = s.gangs.length + places.length ∧
        (∀ g ∈ places, ∀ o, o < p.spad * 4096 → t.mem.get (spadKey (cl g) (g.spadPage.val * 4096 + o)) = 0) ∧
        ∃ new : List Strand, t.strands = s.strands ++ new ∧ new.length = p.g * p.t ∧ ∀ x ∈ new,
          x.id.lid = lid ∧ x.id.squad = l.nextSquad ∧ x.id.gang < p.g ∧ x.id.name < p.t ∧ x.id.lanes = p.l ∧
          x.acc = Slice.start p.entrya ∧ x.cmp = Slice.start p.entryc ∧ x.regs.comp = x.regs.user ∧
          (x.regs.user.get 3).toNat = x.id.name ∧ (x.regs.user.get 4).toNat = x.id.gang ∧ x.vec = VecState.zero ∧ x.q = Queues.empty ∧
          x.sys = SysRegs.start ∧ x.trap = TrapRegs.start (s.hub.rtvec &&& 0x00FFFFFFFFFFFFFE) l.ptbr) ∧
    (∀ lid : BitVec 32, let l := s.launchOf lid; let rest := s.launches.filter fun x => x.pkt.lid ≠ lid
      s.inFlight lid = true → l.parked = false → l.pkt.squads.toNat ≤ l.done → s.launchWaits lid = false → s.writesOnWay lid = false →
      l.ending = 0 → l.faulty = false →
      (∀ x ∈ s.l2, x.dirty = 0) →
        (l.pkt.doneaddr = 0 → Completes (exec (.launchComplete lid) s) fun t => t.launches = rest ∧
          RecordPosted s t ((lidRecord 0x01 0 lid [0] ++ List.replicate 64 0).take 64)) ∧
        (∀ k, l.pkt.doneaddr ≠ 0 → l.pkt.doneaddr.toNat % 8 = 0 → s.translate l.ptbr true .store l.pkt.doneaddr = .ok k → isFar k = false →
          s.MemoryCanonical → Completes (exec (.launchComplete lid) s) fun t => t.launches = rest ∧ ∃ m : Memory,
            m.readNat k 8 = l.pkt.doneval.toNat ∧ (∀ key, (key < k ∨ k + 8 ≤ key) → m.get key = s.mem.get key) ∧
            RecordPosted { s with mem := m } t ((lidRecord 0x01 0 lid [0] ++ List.replicate 64 0).take 64)) ∧
        (∀ c, l.pkt.doneaddr ≠ 0 → s.translate l.ptbr true .store l.pkt.doneaddr = .error c →
          Completes (exec (.launchComplete lid) s) fun t => t.launches = rest ∧
            RecordPosted s t ((lidRecord 0x01 0 lid [1] ++ List.replicate 64 0).take 64)))

/-- The strand in focus is resident and stands on core pair `k` of the package. -/
def inFocus (s : State) (k : Nat) : Prop := s.strand.resident = true ∧ s.strand.key = k

/-- The strand can be in deadlock (R51, R68): both slices run at U, and no cause of higher rank stands before it. -/
structure AtPeace (s : State) : Prop where
  user : s.strand.trap.priv = false ∧ s.strand.trap.held = false
  runs : s.strand.trap.dead = false ∧ s.strand.trap.parked = false ∧ s.strand.trap.loading = false
  first : s.strand.trap.accStop = none

/-- Grants, markers, arriving loads, timeouts and trap entry act on their strand as the rules say (R35, R43, R51, R55, R68, R71,
R90, R101, R167, R168, R223, R272). A grant marks the head of the matrix queue, unless it is a synchronous one, and its end takes it off; a marker at the
head of the queue is released unless a trap holds it; the oldest arrived slot becomes FULL; two slices that wait for each
other trap QUEUE; the timeout of R71 and TRAP_ENTRY enter the handler (R261) with the access slice's cause, with PREEMPT, or with MEMERR and
STATE = 1 for lost state (R272), which stays lost: that the event names the part and that every
later read finds it again are the model's readings (log 49); the VWAIT that waits at the head of the queue is checked again, leaves it once its flags are
as they should be, and leaves it at its timeout unless that is all ones: that it stands there while its slice goes on, and that it checks
its elements whatever VSTART holds, are the model's readings (logs 17 and 46); a waiting AMOFADD.DET traps DETERM; a throttle changes
nothing. -/
def Obligations.UnitEvents : Prop :=
  ∀ (s : State) (k : Nat), inFocus s k → let c := s.strand.cmp; let q := s.strand.q
    let queues (n : Queues) : State := { s with strand := { s.strand with q := n } }
    exec (.arbiterGrant k false) s = .next s ∧ exec (.grantOverrunThrottle k) s = .next s ∧
    (∀ e rest, q.mq = e :: rest →
      (isSyncMatrix e.ins = true → exec (.arbiterGrant k true) s = .next s) ∧
      (isSyncMatrix e.ins = false → e.granted = false → s.grantable e = true →
        exec (.arbiterGrant k true) s = .next (queues { q with mq := { e with granted := true } :: rest })) ∧
      (e.granted = false → exec (.matrixInstructionEnd k) s = .next s) ∧
      (e.granted = true → Completes (exec (.matrixInstructionEnd k) s) fun t =>
        t.strand.q = { q with mq := rest } ∧ t.strand.cmp = { c with fcsr := t.strand.cmp.fcsr } ∧ t.strand.acc = s.strand.acc ∧
        t.strand.regs = s.strand.regs ∧ t.strand.vec = s.strand.vec ∧ t.mem = s.mem ∧
        (∀ n fmt f, e.ins = .mzero n fmt → fmtParse e.fmtWord = some f → gangThere s s.strand.id →
          t.tile n.val = ⟨f.dst == .i32, 0⟩))) ∧
    (∀ e rest, q.viq = e :: rest →
      let free := queues { q with viq := { e with waiting := false } :: rest }
      (∀ b b', e.ins ∈ [Instr.barArrive b, .barSync b, .barArriveSq b', .barSyncSq b'] →
        exec (.arrivalMarkerFire k) s = .next (if s.strand.trap.held then s else free) ∧ exec (.convoyMarkerFire k) s = .next s) ∧
      (e.ins = .convoy →
        exec (.convoyMarkerFire k) s = .next (if s.strand.trap.held then s else free) ∧ exec (.arrivalMarkerFire k) s = .next s)) ∧
    (∀ n e, q.ldq[n]? = some e → e.arrived = true → e.full = false →
      (∀ m x, m < n → q.ldq[m]? = some x → x.arrived = true → x.full = true) →
      exec (.ldqSlotFull k) s = .next (queues { q with ldq := q.ldq.set n { e with full := true } })) ∧
    (AtPeace s →
      (s.strand.acc.halted = true ∨ (s.strand.acc.stall = some .cqEmpty ∧ q.cq = []) ∨
        (s.strand.acc.stall = some .aqFull ∧ 32 ≤ q.aq.length)) →
      (c.halted = true ∨ (c.stall = some .aqEmpty ∧ q.aq = []) ∨ (c.stall = some .cqFull ∧ 32 ≤ q.cq.length) ∨
        (c.stall = some .popUnreserved ∧ q.ldq = [])) →
      ¬ (s.strand.acc.halted = true ∧ c.halted = true) →
      Completes (exec (.queueDeadlockTimeout k) s) fun t => TookTrap s t 0x0E 0 false s.strand.acc.pc (stopPc s) s.strand.acc.vstart) ∧
    (c.stall = none → c.halted = false → exec (.queueDeadlockTimeout k) s = .next s) ∧
    (∀ f, s.strand.trap.accStop = some f → s.strand.trap.dead = false →
      let taken (t : State) : Prop := TookTrap s t (f.code.toNat % 128 + if f.code.getLsbD 7 then 0x10000 else 0)
        (if f.code.getLsbD 7 then 0 else f.addr) false s.strand.acc.pc (stopPc s) s.strand.acc.vstart
      (c.waitReq = none → q.matrixBegun = false → Completes (exec (.computeStopTimeout k) s) taken) ∧
      (s.computeStopped = true → Completes (exec (.trapEntry ⟨k, none⟩) s) taken) ∧
      (s.computeStopped = false → exec (.trapEntry ⟨k, none⟩) s = .next s)) ∧
    (s.preemptReady = true → Completes (exec (.trapEntry ⟨k, none⟩) s) fun t => let p := s.pastVlsync
      TookTrap p t 0x17 0 false p.strand.acc.pc (stopPc s) s.strand.acc.vstart ∧ t.strand.trap.preempt = false ∧ t.strand.trap.savearea = s.strand.trap.savearea) ∧
    (∀ part : LostPart, let cannot := s.strand.trap.dead || s.strand.trap.parked || s.strand.trap.loading || s.strand.completed || q.matrixBegun
      let compute := match part with
        | .reg side .. | .tcm side _ => side == .compute
        | .sdq | .cq => false
        | .vec _ | .ldq | .aq | .viq => true
      (cannot = true → exec (.trapEntry ⟨k, some part⟩) s = .next s) ∧
      (cannot = false → (s.strand.trap.priv = true → s.strand.trap.ack = true) →
        Completes (exec (.trapEntry ⟨k, some part⟩) s) fun t =>
          let p := ({ s with bad := t.bad, strand := { s.strand with lost := t.strand.lost } } : State).pastVlsync
          TookTrap p t 0x1000B 0 compute p.strand.acc.pc (if compute then c.pc else stopPc s)
            (if compute then c.vstart else s.strand.acc.vstart) ∧
          match part with
          | .tcm side line => t.strand.lost = s.strand.lost ∧
              t.bad = tcmKey s.strand.id.cluster s.strand.id.pair side (64 * line.val) :: s.bad
          | p => t.strand.lost = p :: s.strand.lost ∧ t.bad = s.bad)) ∧
    (∀ (a : VWaitArgs) (e : ViqEntry) (rest : List ViqEntry) (key : Nat → Nat), let v : State := { s with side := .compute }
      let on (i : Nat) : Bool := decide (i < c.vl.toNat) && s.governs a.gov i
      let u := beforeVector v (((List.range c.vl.toNat).filter on).flatMap fun i => memSlices s.strand.die (key i) 8) .r
      let unmet (i : Nat) : Bool := on i && u.mem.readNat (key i) 8 != s.vget a.vs2 64 i
      q.viq = e :: rest → e.ins = .vwait a → q.headStall = some .vwait → q.headReq = none → q.headReply = none → s.viqFrozen = false →
      s.isDet s.strand.id.lid = false → c.vl.toNat ≤ 4096 →
      (∀ i, on i = true → s.vget a.vs1 64 i % 8 = 0 ∧ isFar (key i + 7) = false ∧
        v.locate .global .load (BitVec.ofNat 64 (s.vget a.vs1 64 i)) = .ok (key i)) →
      let ends (t : State) : Prop :=
        (∀ i, (t.strand.vec.m.get a.md).getLsbD i = unmet i) ∧ (∀ m, m ≠ a.md → t.strand.vec.m.get m = s.strand.vec.m.get m) ∧
        t.strand.cmp = { u.strand.cmp with vstart := 0 } ∧ t.strand.acc = u.strand.acc ∧ t.strand.regs = u.strand.regs ∧
        t.strand.q = { u.strand.q with viq := rest, headStall := none } ∧ t.mem = u.mem ∧ t.side = s.side
      ((∀ i, unmet i = false) → Completes (exec (.vwaitRecheck k) s) ends) ∧
      ((∃ i, unmet i = true) → e.scalar ≠ 0 → Completes (exec (.vwaitRecheck k) s) fun t =>
        t.strand.vec = s.strand.vec ∧ t.strand.cmp = u.strand.cmp ∧ t.strand.q = u.strand.q ∧ t.mem = u.mem ∧ t.side = s.side) ∧
      (e.scalar ≠ BitVec.allOnes 64 → Completes (exec (.vwaitTimeout k) s) ends) ∧
      (e.scalar = BitVec.allOnes 64 → exec (.vwaitTimeout k) s = exec (.vwaitRecheck k) s)) ∧
    (∀ a : ADetArgs,
      (s.strand.acc.stall ≠ some .detSpace → c.stall = some .detSpace → s.strand.trap.held = false → s.strand.trap.accStop = none →
        s.strand.acc.waitReq = none →
        s.atPc .compute = some (.amofaddDet a) → Completes (exec (.detAddWaitTimeout k) s) fun t => let p := s.pastVlsync
          TookTrap p t 0x10 (({ s with side := .compute } : State).x a.rs1 &&& 0xFFFFFFFFFFFFFFF8) true p.strand.acc.pc c.pc c.vstart) ∧
      (s.strand.acc.stall = some .detSpace → s.strand.trap.priv = false → (∀ f, c.stall ≠ some (.fault f)) →
        s.atPc .access = some (.amofaddDet a) →
        Completes (exec (.detAddWaitTimeout k) s) fun t => let u := s.drain fun a => !a.loads.isEmpty && a.side == .access
          t.strand.acc = { u.strand.acc with stall := none, vstart := 0, waitReq := none, reply := none, sent := 0 } ∧
          (let addr := ({ s with side := .access } : State).x a.rs1 &&& 0xFFFFFFFFFFFFFFF8
           t.strand.trap = { s.strand.trap with accStop := some ⟨0x10, addr⟩ }) ∧
          t.strand.cmp = u.strand.cmp ∧ t.strand.regs = u.strand.regs ∧ SameBytes u t ∧ SameRest u { t with reqs := s.reqs }))

/-- An access is performed from the head of its FIFO, a dirty copy is written back, and the host's completions end their requests
(R61, R200, R203, R214, R216, R221, R272, R329, R333, R334, R406, 09_ordering.md). ACCESS_PERFORMED performs an access that none of
those before it has to come before: a store's bytes are written, a scalar load writes its
register from what stands there now, an element of a vector load reaches its slot, and an atomic brings the old value and writes the new one;
in fall-back a word whose tag holds a higher DETID is not written (R221).
WRITE_BACK of a copy of a host line sends every dirty byte to its address and leaves the copy clean, or posts the MEMERR record and leaves it
dirty; a clean copy leaves; a good completion of a fill makes the line the die's copy, dirty bytes keeping their values, and a failed one tells the slice that waits. That a
fill which may be older than what the die has done since is not installed, and that a launch's code does not show bytes sent home after it
started, are the model's readings (logs 11 and 56). -/
def Obligations.RequestsAndMemorySlices : Prop :=
  ∀ (s : State), let c := s.strand.cmp
    (∀ (k i : Nat) (st : Access), inFocus s k → s.strand.stores[i]? = some st →
      (∀ (j : Nat) (x : Access), j < i → s.strand.stores[j]? = some x →
        ¬ ComesBefore x st) →
      let same (t : State) : Prop := t.strand.stores = s.strand.stores.eraseIdx i ∧ t.strand.acc = s.strand.acc ∧
        t.strand.cmp = s.strand.cmp ∧ t.strand.vec = s.strand.vec ∧ t.strand.sys = s.strand.sys ∧ t.strand.trap = s.strand.trap ∧
        t.strand.id = s.strand.id ∧ SameRest s { t with det := { t.det with due := s.det.due } } ∧
        ((∀ x ∈ s.strand.stores, ∀ l ∈ x.loads, ∃ side priv rd z, l.dst = .reg side priv rd z) → t.strand.q = s.strand.q)
      (∀ key bs, st.bytes = atKeys key bs → st.half = [] → st.atom = none → st.loads = [] →
        s.det.fallback = [] ∨ s.isDet s.strand.id.lid = false → Completes (exec (.accessPerformed k i) s) fun t =>
        same t ∧ t.strand.regs = s.strand.regs ∧ (isFar (key + bs.length) = false → t.det = s.det) ∧
        (∀ j, j < bs.length → t.byteAt s.strand.die (key + j) = bs[j]?) ∧ SameBytesBut s t key bs.length) ∧
      (∀ key z side priv rd, st.bytes = [] → st.half = [] → st.atom = none → st.loads = [⟨key, ldBytes z, .reg side priv rd z⟩] →
        isFar (key + 7) = false → Completes (exec (.accessPerformed k i) s) fun t => same t ∧ SameBytes s t ∧ t.det = s.det ∧
          t.bankX side priv rd = (if rd = 0 then 0 else loadedWord z (valueOfBytes (s.mem.read key (ldBytes z)))) ∧
          (∀ (side' : Side) priv' r, ¬ (side' = side ∧ (side = .access → priv' = priv) ∧ r = rd) →
            t.bankX side' priv' r = s.bankX side' priv' r)) ∧
      (∀ key m j w hi e, st.bytes = [] → st.half = [] → st.atom = none → w ∈ [8, 16, 32, 64] →
        st.loads = [⟨key, w / 8, .slot (s.strand.q.ldqHead + BitVec.ofNat 3 m) j w hi⟩] → m < 8 → s.strand.q.ldq.length ≤ 8 →
        s.strand.q.ldq[m]? = some e → j * w + w ≤ 16384 → isFar (key + 7) = false → Completes (exec (.accessPerformed k i) s) fun t =>
          same t ∧ t.strand.regs = s.strand.regs ∧ SameBytes s t ∧ t.det = s.det ∧ ∃ e' : QSlot, t.strand.q.ldq[m]? = some e' ∧
          bits e'.payload.toNat (j * w) w = valueOfBytes (s.mem.read key (w / 8)) ∧ e'.count = e.count ∧ e'.full = e.full ∧
          ((∀ x ∈ s.strand.stores.eraseIdx i, x.loads = []) → e'.arrived = true ∧ e'.filled = e.count)) ∧
      (∀ key bs f, st.bytes = atKeys key bs → bs ≠ [] → key % 8 + bs.length ≤ 8 → st.half = [] → st.atom = none → st.loads = [] →
        s.isDet s.strand.id.lid = true → s.det.tagsOf (lineOf key) s.strand.die = some f →
        let higher := ∃ d, f.tags.lookup (key / 8) = some d ∧ s.strand.id.detid < d
        Completes (exec (.accessPerformed k i) s) fun t => (higher → SameBytes s t) ∧
          (¬ higher → (∀ j, j < bs.length → t.byteAt s.strand.die (key + j) = bs[j]?) ∧ SameBytesBut s t key bs.length)) ∧
      (∀ p rd, st.bytes = [] → st.half = [] → st.atom = some p → rd ≠ 0 → isFar (p.key + 8) = false →
        st.loads = [⟨p.key, atBytes p.size, .reg st.side false rd (match p.size with | .w => if p.op = .fadd then .wn else .w | .d => .d)⟩] →
        Completes (exec (.accessPerformed k i) s) fun t =>
          let n := atBytes p.size; let w := 8 * n; let old := s.mem.readNat p.key n
          let v := p.value.toNat % 2 ^ w; let less := (BitVec.ofNat w old).toInt < (BitVec.ofNat w v).toInt
          let fl := if p.op = .fadd then (atomicFadd p.size p.rnd old v).2 else Flags.none
          let flagged (side : Side) (c : Slice) : Slice := if side = st.side then { c with fcsr := c.fcsr ||| BitVec.setWidth 13 fl.toBits } else c
          t.strand.acc = flagged .access s.strand.acc ∧ t.strand.cmp = flagged .compute c ∧
          same { t with strand := { t.strand with acc := s.strand.acc, cmp := c } } ∧ t.det = s.det ∧ SameBytesBut s t p.key n ∧
          t.bankX st.side false rd = (if p.size = .w ∧ p.op ≠ .fadd then (BitVec.ofNat 32 old).signExtend 64 else BitVec.ofNat 64 old) ∧
          t.mem.readNat p.key n = (match p.op with
            | .add => (old + v) % 2 ^ w
            | .and => old &&& v
            | .or => old ||| v
            | .xor => old ^^^ v
            | .min => if less then old else v
            | .max => if less then v else old
            | .minn => min old v
            | .maxn => max old v
            | .swp => v
            | .cas => if old = p.expect.toNat % 2 ^ w then v else old
            | .fadd => (atomicFadd p.size p.rnd old v).1 % 2 ^ w))) ∧
    (∀ (i : Nat) (l : L2Line), s.l2[i]? = some l →
      (s.backInFlight l.die l.line = true → ∀ ok, exec (.writeBack i ok) s = .next s) ∧
      (l.dirty = 0 → s.backInFlight l.die l.line = false → l.line % 64 = 0 → ∀ ok, Completes (exec (.writeBack i ok) s) fun t =>
        t = { s with l2 := s.l2.filter fun x => !(x.die == l.die && x.line == l.line), reqs := t.reqs } ∧
        t.reqs = s.reqs.map fun r => if r.fill && r.die == l.die && r.addr == l.line then { r with stale := true } else r) ∧
      (l.dirty ≠ 0 → s.backInFlight l.die l.line = false → Completes (exec (.writeBack i false) s) fun t =>
        t = { s with mem := t.mem, hub := { s.hub with events := t.hub.events } } ∧
        RecordPosted s t ([7, 1, 0, 0, 0, 0, 0, 0] ++ leBytes 8 (if isRemote l.line then 3 else 2) ++
          leBytes 8 (if isRemote l.line then (remotePa l.line).2 else l.line - 2 ^ 60) ++ List.replicate 40 0)) ∧
      (l.dirty ≠ 0 → isRemote l.line = false → s.backInFlight l.die l.line = false → Completes (exec (.writeBack i true) s) fun t =>
        t.l2Line l.die l.line = some { l with dirty := 0, flying := 0 } ∧
        t = { s with
          l2 := t.l2, hostOut := t.hostOut, launches := t.launches
          reqs := s.reqs.map fun r => if r.fill && r.die == l.die && r.addr == l.line then { r with stale := true } else r } ∧
        t.launches.length = s.launches.length ∧
        (∀ (n : Nat) (x : Launch), s.launches[n]? = some x → ∃ c, t.launches[n]? = some { x with codeSent := c } ∧
          assocGet 0 c l.line = assocGet 0 x.codeSent l.line ||| l.dirty ∧ ∀ m, m ≠ l.line → assocGet 0 c m = assocGet 0 x.codeSent m) ∧
        (∀ d n, ¬ (d = l.die ∧ n = l.line) → t.l2Line d n = s.l2Line d n) ∧
        ∃ out, t.hostOut = s.hostOut ++ out ∧ ∀ j, j < 64 → l.dirty.getLsbD j = true →
          ∃ o ∈ out, o.addr ≤ l.line - 2 ^ 60 + j ∧
            o.bytes[l.line - 2 ^ 60 + j - o.addr]? = some (l.data.extractLsb' (8 * j) 8))) ∧
    (∀ (a : HostReply) (r : Request), s.reqs.find? (fun r => r.id == a.id && !r.remote) = some r → s.det.due = [] →
      (∀ l ∈ s.launches, l.atSystem = true → l.triggered = true) →
      let rest := s.reqs.filter fun x => x.id != r.id
      (a.ok = true → r.fill = true → r.stale = true → Completes (exec (.pcieCompletion a) s) fun t =>
        t.reqs = rest ∧ t.mem = s.mem ∧ t.l2 = s.l2) ∧
      (a.ok = true → r.fill = true → r.stale = false → Completes (exec (.pcieCompletion a) s) fun t => t.mem = s.mem ∧
        t.reqs = (rest.map fun x => if x.fill && x.die == r.die && x.addr == r.addr then { x with stale := true } else x) ∧
        ∃ l, t.l2Line r.die r.addr = some l ∧ l.filled = true ∧ ∀ i, i < 64 →
          l.data.extractLsb' (8 * i) 8 = match s.l2Line r.die r.addr with
            | some old => if old.dirty.getLsbD i || old.flying.getLsbD i then old.data.extractLsb' (8 * i) 8 else a.data.getD i 0
            | none => a.data.getD i 0) ∧
      (∀ k, r.who = .slice k .access → inFocus s k → s.strand.acc.waitReq = some r.id → s.strand.acc.reply = none →
        (∀ x ∈ s.others, ¬ (x.resident = true ∧ x.key = k)) →
        (a.ok = true → r.fill = false → r.mask = 0 → Completes (exec (.pcieCompletion a) s) fun t => t.reqs = rest ∧
          t.strand = { s.strand with acc := { s.strand.acc with reply := some ⟨r.addr, false, true, a.data⟩ } } ∧ t.mem = s.mem) ∧
        (a.ok = false → r.mask = 0 → Completes (exec (.pcieCompletion a) s) fun t => t.reqs = rest ∧
          t.strand = { s.strand with acc := { s.strand.acc with
            reply := some ⟨r.addr, s.strand.acc.stall == some .release, false, []⟩ } } ∧ t.mem = s.mem ∧ t.l2 = s.l2))) ∧
    (∀ a : HostReply, s.reqs.find? (fun r => r.id == a.id && !r.remote) = none → exec (.pcieCompletion a) s = .next s)

/-- Device-fatal errors, temperature, power and grants act as the module chapter says; background activities change nothing
(R15, R16, R17, R18, R89, R169, R272, R273, R276, R277, 01_module.md, 11_traps.md). A fatal error aborts every launch,
empties the launch queues, stops the fabric and sets FATAL; that the flits at the gateways are lost as those in custody are is the model's
reading (log 66); a die at 125 °C removes the power, at 115 °C is fatal, at 105 °C lowers the
thermal grants, which goes on until all are below 100 °C, and then they are restored; the measured power stays within 3,300 W, and above 3,000 W lowers the power grants;
how far grants are lowered is the model's choice (log 64); a grant update gives a cluster the lower of each pair of grants; a scrub
that finds an uncorrectable error marks the line and posts the MEMERR record; refresh, calibration and telemetry change nothing. -/
def Obligations.DeviceErrorsPowerAndGrants : Prop :=
  ∀ (s : State),
    (∀ (e : Instr) (warm : Bool), (e, warm) ∈ [(Instr.hubWatchdogExpiry, s.hub.warm || s.hub.auto),
        (.deviceFatal .thermal, s.hub.warm || s.hub.auto), (.deviceFatal .ucie, s.hub.warm || s.hub.auto),
        (.deviceFatal .internalState, s.hub.warm || s.hub.auto), (.deviceFatal .watchdog, s.hub.warm || s.hub.auto)] →
      Completes (exec e s) fun t => t.hub.fatal = true ∧ t.hub.warm = warm ∧ t.hub.busy = none ∧ t.launches = [] ∧
        (∀ q, (t.lq q).head = (s.lq q).tail ∧ (t.lq q).tail = (s.lq q).tail ∧ (t.lq q).checked = none) ∧
        (∀ x ∈ t.strands, s.inFlight x.id.lid = false) ∧ t.takesLaunches = false ∧ t.fab.gate = [] ∧ t.fab.custody = []) ∧
    (∀ (die : Fin 5) (n : Nat) (lanes : Fin 33) (rate : Fin 17),
      let p : Power := { s.power with celsius := s.power.celsius.set die.val n die.isLt }
      let hot (c : Nat) : Prop := ∃ d, c ≤ p.celsius.get d
      let lowered (now asked : Nat × Nat) : Nat × Nat :=
        if asked.1 < now.1 ∨ asked.2 < now.2 then (min now.1 asked.1, min now.2 asked.2) else (max 4 (now.1 - 1), max 1 (now.2 - 1))
      let asked := (max 4 lanes.val, max 1 rate.val)
      (hot 125 → Completes (exec (.thermalLimit die n lanes rate) s) fun t => t.power.on = false ∧ t = { s with power := t.power } ∧
        ((∀ i rest, s.agenda ≠ .event (.coldStart i) :: rest) → step t = .fault .powerOff)) ∧
      (hot 115 → ¬ hot 125 → Completes (exec (.thermalLimit die n lanes rate) s) fun t => t.hub.fatal = true ∧ t.launches = []) ∧
      (let lowering := s.power.thermalLanes ≠ 32 ∨ s.power.thermalRate ≠ 16
       (hot 105 ∨ (hot 100 ∧ lowering)) → ¬ hot 115 → let g := lowered (s.power.thermalLanes, s.power.thermalRate) asked
        exec (.thermalLimit die n lanes rate) s = .next { s with power := { p with thermalLanes := g.1, thermalRate := g.2 } }) ∧
      (¬ hot 100 → exec (.thermalLimit die n lanes rate) s = .next { s with power := { p with thermalLanes := 32, thermalRate := 16 } }) ∧
      (hot 100 → ¬ hot 105 → s.power.thermalLanes = 32 → s.power.thermalRate = 16 →
        exec (.thermalLimit die n lanes rate) s = .next { s with power := p }) ∧
      (let w := min n 3300000
       let g := if 3000000 < w then lowered (s.power.powerLanes, s.power.powerRate) asked else asked
       exec (.powerSample n lanes rate) s = .next { s with power := { s.power with milliwatt := w, powerLanes := g.1, powerRate := g.2 } })) ∧
    (∀ c : Fin 160, Completes (exec (.grantUpdate c) s) fun t =>
      t.lgrant c.val = min s.power.powerLanes s.power.thermalLanes ∧ t.mgrant c.val = min s.power.powerRate s.power.thermalRate ∧
      (∀ d, d ≠ c.val → t.lgrant d = s.lgrant d ∧ t.mgrant d = s.mgrant d) ∧
      t = { s with power := { s.power with lgrant := t.power.lgrant, mgrant := t.power.mgrant } }) ∧
    (∀ b, exec (.coolantFlowChange b) s = .next { s with power := { s.power with coolant := b } }) ∧
    (∀ (tier : Tier) (pa k : Nat), localKey tier pa = some k →
      (s.isBad k = false → exec (.scrub tier pa true) s = .next s) ∧
      (∀ ok, ok = false ∨ s.isBad k = true → Completes (exec (.scrub tier pa ok) s) fun t =>
        t.isBad k = true ∧ (∀ j, s.isBad j = true → t.isBad j = true) ∧
        (∀ j, t.isBad j = true → s.isBad j = true ∨ lineOf j = lineOf k) ∧ t.strand = s.strand ∧
        RecordPosted s t ([7, 0, 0, 0, 0, 0, 0, 0] ++ leBytes 8 (if tier = .hbm then 0 else 1) ++ leBytes 8 pa ++ List.replicate 40 0))) ∧
    exec .dramRefresh s = .next s ∧ exec .opticalCalibration s = .next s ∧ exec .telemetry s = .next s

/-- Cold and warm start pass their phases or stop in one, and management, attestation and BAR2 accesses do what the rules say
(R8, R13, R14, R17, R18, R19, R213, R274, R275, R279, 01_module.md, 11_traps.md). A cold start with coolant, readable fuses, verified firmware,
link 0 and good memory ends in phase 7 ready, with every cluster off the map whose vector unit two spare lanes cannot repair, memory
clear and nothing resident, and otherwise stops in its phase; at 115 °C it ends in a device-fatal error, at 125 °C without power; the trims are valid when their digest matches and every die is within 10 °C of its temperature when they were saved; a warm
start that is due passes the same phases or stops in one, leaves LQHEAD and LQTAIL of every queue 0, and keeps memory with KEEP and valid trims; an update is
pending for the next start; the monitor answers with the measured values; while link 0 is up the report comes, signed over digest, identity,
nonce and seals; a host write puts its enabled bytes into memory unless a seal covers them. The model's choices are that DEVSTAT shows phase 1
without coolant (log 68), that the rejection and the pending image stay as they were when no image verifies (log 67), where the parts of the
report stand (log 26), what memory holds where a cold start stops before or in its clear, and where a warm start stops before its clear (log 8), that a trained link reaches memory in any phase (log 69), and how faults map to clusters (log 4). -/
def Obligations.StartupManagementAndHostAccess : Prop :=
  ∀ (s : State) (i : StartInputs),
    (let newest := s.hub.pending.getD s.hub.image
     let up (l : BitVec 4) : Prop := l = 1 ∨ l = 2
     let ok (image : BitVec 256) : Prop := image ∉ i.badImages
     let good := s.hub.goodImage
     let valid := s.trimsValid i.trimsRead
     ((∃ d, 125 ≤ i.celsius.get d) → Completes (exec (.coldStart i) s) fun t =>
       t.power.on = false ∧ t.hub.ready = false ∧ t.hub.phase = 1 ∧ t.launches = [] ∧ t.strands = []) ∧
     ((∀ d, i.celsius.get d < 125) → Completes (exec (.coldStart i) s) fun t =>
       (t.hub.fatal = true ↔ ∃ d, 115 ≤ i.celsius.get d) ∧
       (s.power.coolant = false ∨ i.fuseOk = false → t.hub.ready = false ∧ t.hub.phase = 1)) ∧
     (s.power.coolant = true → i.fuseOk = true → (∀ d, i.celsius.get d < 125) → Completes (exec (.coldStart i) s) fun t =>
       t.mem = [] ∧ t.launches = [] ∧ t.strands = [] ∧ t.power.on = true ∧
       (∀ (die : Fin 4) k, k < 40 → ((t.hub.present.get die).getLsbD k = true ↔ (s.hub.present.get die).getLsbD k = true ∧
         ∀ l ∈ i.fuses, l.cluster.val = die.val * 40 + k →
           l.allRegs = true ∧ ((List.range 34).filter fun n => l.faulty.getLsbD n).length ≤ 2)) ∧
       (¬ ok newest → ¬ ok good → t.hub.phase = 2 ∧ t.hub.ready = false ∧ t.hub.imageRejected = s.hub.imageRejected ∧
         t.hub.pending = s.hub.pending) ∧
       (ok newest → t.hub.image = newest ∧ t.hub.goodImage = newest ∧ t.hub.imageRejected = false) ∧
       (¬ ok newest → ok good → t.hub.image = good ∧ t.hub.imageRejected = true) ∧
       (ok newest ∨ ok good →
         (¬ up i.link0 → t.hub.phase = 3 ∧ t.hub.ready = false) ∧
         (∀ f, up i.link0 → i.memFail = some f → t.hub.phase = 4 ∧ t.hub.fail = f ∧ t.hub.ready = false) ∧
         (up i.link0 → i.memFail = none → t.hub.phase = 7 ∧ t.hub.ready = i.clearOk ∧ t.hub.link1 = i.link1 ∧
           (i.fabric = none → ∀ p : Fin 128, (t.port p.val).lit = i.lit.get p ∧ (t.port p.val).lost = ~~~ (i.lit.get p))))) ∧
     (valid = true ↔ ∃ tr, s.hub.trims = some tr ∧ Config.sm3 (leBytes 32 i.trimsRead.toNat) = tr.digest ∧
       ∀ d, s.power.celsius.get d ≤ tr.celsius.get d + 10 ∧ tr.celsius.get d ≤ s.power.celsius.get d + 10) ∧
     (s.hub.warm = false → exec (.warmStart i) s = .next s) ∧
     (s.hub.warm = true → ok newest → (up s.hub.link0 ∨ up i.link0) → (valid = true ∨ i.memFail = none) →
       (s.hub.keep = true ∧ valid = true ∨ i.clearOk = true) → Completes (exec (.warmStart i) s) fun t =>
         t.hub.ready = true ∧ t.hub.phase = 7 ∧ t.hub.fatal = false ∧ t.hub.warm = false ∧ t.launches = [] ∧ t.strands = [] ∧ t.reqs = [] ∧
         t.hub.image = newest ∧ (∀ q, (t.lq q).en = false ∧ (t.lq q).head = 0 ∧ (t.lq q).tail = 0) ∧
         (s.hub.keep = true → valid = true → t.mem = s.mem ∧ t.hub.seals = s.hub.seals) ∧
         (s.hub.keep = false ∨ valid = false → t.mem = [] ∧ t.hub.seals = [])) ∧
     (s.hub.warm = true → let link := up s.hub.link0 ∨ up i.link0
       Completes (exec (.warmStart i) s) fun t =>
         t.hub.fatal = false ∧ t.hub.warm = false ∧ t.launches = [] ∧ t.strands = [] ∧ t.reqs = [] ∧
         (¬ ok newest → ¬ ok good → t.hub.phase = 2 ∧ t.hub.ready = false ∧ t.mem = s.mem) ∧
         (¬ ok newest → ok good → t.hub.image = good ∧ t.hub.imageRejected = true) ∧
         (ok newest ∨ ok good →
           (¬ link → t.hub.phase = 3 ∧ t.hub.ready = false ∧ t.mem = s.mem) ∧
           (∀ f, link → valid = false → i.memFail = some f →
             t.hub.phase = 4 ∧ t.hub.fail = f ∧ t.hub.ready = false ∧ t.mem = s.mem) ∧
           (link → valid = true ∨ i.memFail = none → s.hub.keep = false ∨ valid = false → i.clearOk = false →
             t.hub.phase = 7 ∧ t.hub.ready = false)))) ∧
    (∀ image, exec (.firmwareUpdate image) s = .next { s with hub := { s.hub with pending := some image } }) ∧
    Completes (exec .pldmMonitor s) (fun t => t = { s with hub := { s.hub with monitor := t.hub.monitor } } ∧
      s.power.milliwatt ∈ t.hub.monitor ∧ (∀ d, s.power.celsius.get d ∈ t.hub.monitor) ∧ s.hub.phase.toNat ∈ t.hub.monitor ∧
      ∀ d, (s.hub.present.get d).toNat ∈ t.hub.monitor) ∧
    (∀ nonce, ¬ linkUp s.hub.link0 = true → exec (.attestationReport nonce) s = .next s) ∧
    (∀ nonce, linkUp s.hub.link0 = true → Completes (exec (.attestationReport nonce) s) fun t => ∃ body : List Byte,
      t = { s with hub := { s.hub with report := body ++ leBytes 64 (Config.sm2Sign body).toNat } } ∧
      body.length = 96 + 48 * s.hub.seals.length ∧ body.take 32 = leBytes 32 (Config.sm3 (leBytes 32 s.hub.image.toNat)).toNat ∧
      (body.drop 64).take 32 = leBytes 32 nonce.toNat) ∧
    (∀ (link : Fin 2) (tier : Tier) (pa k : Nat), (if link.val = 0 then linkUp s.hub.link0 else linkUp s.hub.link1) = true →
      (∀ n, bar2Key tier pa n = some k → s.MemoryCanonical →
        exec (.hostBar2Access ⟨link, tier, pa, none, n⟩) s = .next { s with hostOut := s.hostOut ++ [⟨k, s.mem.read k n⟩] }) ∧
      (∀ (bs : List (Option Byte)) (n : Nat), bar2Key tier pa bs.length = some k →
        ((∀ j, j < bs.length → s.sealedKey (k + j) = false) → s.sealedKey k = false →
          Completes (exec (.hostBar2Access ⟨link, tier, pa, some bs, n⟩) s) fun t => t = { s with mem := t.mem } ∧
            (∀ (j : Nat) (b : Byte), bs[j]? = some (some b) → t.mem.get (k + j) = b) ∧
            (∀ key, (∀ (j : Nat) (b : Byte), bs[j]? = some (some b) → key ≠ k + j) → t.mem.get key = s.mem.get key)) ∧
        (∀ (j : Nat) (b : Byte), bs[j]? = some (some b) → s.sealedKey (k + j) = true →
          Completes (exec (.hostBar2Access ⟨link, tier, pa, some bs, n⟩) s) fun t => t.strand = s.strand ∧
            RecordPosted s t ((record 0x09 0 0 (List.replicate 12 0 ++ leBytes 8 pa) ++ List.replicate 64 0).take 64))))

/-- Of the whole machine only port `p` differs, and it is `x` now. -/
def OnlyPort (s t : State) (p : Nat) (x : Port) : Prop :=
  t.port p = x ∧ (∀ k, k ≠ p → t.port k = s.port k) ∧ t = { s with fab := { s.fab with ports := t.fab.ports } }

/-- An item stands in its place in a queue, with the older ones before it (R244): the rest of the queue is as it was. -/
def PlacedByAge (old new : List GateFlit) (g : GateFlit) : Prop :=
  ∃ a b, old = a ++ b ∧ new = a ++ g :: b ∧ (∀ h ∈ a, h.age < g.age) ∧ ∀ h, b.head? = some h → g.age ≤ h.age

/-- Writes of FABCFG, the calendar and PORTCTL, turns, lock, sending and losses of light act on their ports as the rules say
(R14, R229, R230, R231, R232, R233, R236, R238, R239, R244, R252, R254). A host write reaches its register while link 0 is up; FABCFG
keeps SELF, D and TIMEOUT while EN is 1 and sets CFGERR; a calendar entry takes the bytes that the write enables unless its port is
enabled; a turn start advances TURN and opens a new guard; a partner's turn-start flit is taken, one with a bad CRC leaves every relay
class 0, and two successive turns lock a port; four idle turns unlock it, and one that does so in the guard sends the turn-start flit of an
acquiring port; a slot carries the relay flit, then the queued flit, for the
partner, with its CRC; what a window end finds unacknowledged goes back and is sent again as it was, counted once in PORTRPLY of the port
that first sent it; a dark wavelength goes into
LOSTMASK and ends the sending, and a re-arm holds it back until a turn start. That a flit goes back to its place by age is the model's reading
(log 27); that a package which a device-fatal error has stopped sends nothing, that a locked port takes a turn-start flit with a bad CRC as its
calendar's partner's, and when the sequence spaces restart are the model's too (logs 66, 38 and 65). -/
def Obligations.PortsAndTurns : Prop :=
  ∀ (s : State), let up := linkUp s.hub.link0 = true
    (∀ v : Word, let self : BitVec 10 := v.extractLsb' 0 10
      let field := v.toNat / 2 ^ 10 % 2 ^ 11; let d := if field = 0 ∨ 1024 < field then 1 else field
      let timeout : BitVec 16 := if v.extractLsb' 40 16 = 0 then 1 else v.extractLsb' 40 16
      let clash := s.fab.en = true ∧ ¬ (self = s.fab.self ∧ d = s.fab.d ∧ timeout = s.fab.timeout)
      (¬ up → exec (.fabcfgWrite v) s = .next s) ∧
      (up → Completes (exec (.fabcfgWrite v) s) fun t =>
        t.fab.en = v.getLsbD 32 ∧ t.fab.rthresh = v.extractLsb' 28 4 ∧ t = { s with fab := t.fab } ∧
        (¬ clash → t.fab.self = self ∧ t.fab.d = d ∧ t.fab.timeout = timeout) ∧
        (clash → t.fab.self = s.fab.self ∧ t.fab.d = s.fab.d ∧ t.fab.timeout = s.fab.timeout ∧
          ∀ p : Fin 128, (t.port p.val).cfgerr = true) ∧
        (¬ clash → v.getLsbD 32 = true → ∀ p : Fin 128, let x := s.port p.val
          t.port p.val = { x with cfgerr := x.cfgerr || (x.en && !t.fab.columnOk p.val) }) ∧
        (¬ (v.getLsbD 32 = true ∧ s.fab.en = false) → t.fab.peers = s.fab.peers) ∧
        (v.getLsbD 32 = false → ∀ p : Fin 128, (s.port p.val).en = true →
          (t.port p.val).lock = false ∧ (t.port p.val).actmask = 0 ∧ (t.port p.val).sent = []))) ∧
    (∀ (off : Fin 2048) (n : Fin 9) (en : BitVec 8) (v : Word),
      (¬ up ∨ ¬ ((n.val = 2 ∨ n.val = 4 ∨ n.val = 8) ∧ off.val % n.val = 0) → exec (.calWrite off ⟨n, en⟩ v) s = .next s) ∧
      (up → (n.val = 2 ∨ n.val = 4 ∨ n.val = 8) → off.val % n.val = 0 → Completes (exec (.calWrite off ⟨n, en⟩ v) s) fun t =>
        t = { s with fab := { s.fab with cal := t.fab.cal, ports := t.fab.ports } } ∧
        (∀ k, k < n.val / 2 → let e := off.val / 2 + k
          let old := assocGet 0 s.fab.cal e; let new := assocGet 0 t.fab.cal e
          let touched := en.getLsbD (2 * k) || en.getLsbD (2 * k + 1)
          ((s.port (e % 128)).en = false → touched = false → new = old) ∧
          ((s.port (e % 128)).en = false → touched = true → ∀ b, b < 16 →
            new.getLsbD b = ((b < 10 || b == 15) &&
              if en.getLsbD (2 * k + b / 8) then v.getLsbD (16 * k + b) else old.getLsbD b)) ∧
          ((s.port (e % 128)).en = true → new = old ∧ (touched = true → (t.port (e % 128)).cfgerr = true))) ∧
        (∀ e, (e < off.val / 2 ∨ off.val / 2 + n.val / 2 ≤ e) → assocGet 0 t.fab.cal e = assocGet 0 s.fab.cal e))) ∧
    (∀ p : Fin 128, let x := s.port p.val; let sends := x.en && s.fab.en && !s.hub.fatal
      (¬ up → (∀ b, exec (.portctlEn p b) s = .next s) ∧ exec (.portctlRearm p) s = .next s) ∧
      (x.en = true → exec (.portctlEn p true) s = .next s) ∧
      (up → x.en = false → Completes (exec (.portctlEn p true) s) fun t =>
        OnlyPort s t p.val { x with en := true, cfgerr := x.cfgerr || !s.fab.columnOk p.val, seen := none, stopped := true }) ∧
      (up → Completes (exec (.portctlEn p false) s) fun t => (t.port p.val).en = false ∧ (t.port p.val).lock = false ∧
        (t.port p.val).actmask = 0 ∧ (t.port p.val).sent = [] ∧ t = { s with fab := t.fab }) ∧
      (up → Completes (exec (.portctlRearm p) s) fun t =>
        OnlyPort s t p.val { x with held := x.held ||| x.lost, lost := 0, rearm := true }) ∧
      (sends = false → exec (.turnStart p) s = .next s ∧ exec (.flitSend p) s = .next s ∧
        ∀ f, exec (.turnstart p f) s = .next s) ∧
      (sends = true →
        (x.lock = true → x.sent = [] → x.rearm = false → Completes (exec (.turnStart p) s) fun t => let y := t.port p.val
          y.turn = (x.turn + 1) % s.fab.turns ∧ y.turns = (if x.counts then x.turns + 1 else x.turns) ∧ y.slot = 0 ∧ y.window = false ∧
          y.stopped = false ∧ y.partner = none ∧ y.lock = true ∧ y.lost = x.lost ∧ y.acks = [] ∧
          y.idle = (if x.partner = none ∧ s.calPartner p.val ≠ none then x.idle + 1 else x.idle) ∧
          (∀ w, y.actmask.getLsbD w = true → x.lit.getLsbD w = true ∧ x.lost.getLsbD w = false ∧ x.held.getLsbD w = false) ∧
          (y.actmask = 0 → y.out = none) ∧
          (y.actmask ≠ 0 → ∃ f : TurnFlit, y.out = some f ∧ f.locked = true ∧ f.sender = BitVec.setWidth 16 s.fab.self ∧
            f.turn = BitVec.ofNat 8 y.turn ∧ f.port = BitVec.ofNat 8 p.val ∧ f.actmask = y.actmask ∧ f.crc = TurnFlit.crcOf f) ∧
          t = { s with fab := { s.fab with ports := t.fab.ports } }) ∧
        (∀ f : TurnFlit,
          (f.crc ≠ TurnFlit.crcOf f →
            (∀ z, x.lock = true → s.calPartner p.val = some z → Completes (exec (.turnstart p f) s) fun t => OnlyPort s t p.val { x with
              window := true, partner := some (BitVec.ofNat 16 z), partnerLocked := f.locked, classes := [], idle := 0 }) ∧
            (x.lock = false ∨ s.calPartner p.val = none → Completes (exec (.turnstart p f) s) fun t =>
              OnlyPort s t p.val { x with window := true })) ∧
          (f.crc = TurnFlit.crcOf f → x.lock = true → s.calPartner p.val = some f.sender.toNat →
            Completes (exec (.turnstart p f) s) fun t => OnlyPort s t p.val { x with
              window := true, partner := some f.sender, partnerLocked := f.locked, classes := f.classes
              partnerAct := f.actmask, idle := 0 }) ∧
          (∀ u n, f.crc = TurnFlit.crcOf f → x.lock = false → x.partner = none → x.seen = some u → (u + 1) % s.fab.turns = n →
            s.fab.columnOk p.val = true → (n, f.sender.toNat) ∈ s.fab.column p.val → Completes (exec (.turnstart p f) s) fun t =>
              (t.port p.val).lock = true ∧ (t.port p.val).turn = n ∧ (t.port p.val).turns = 0 ∧ (t.port p.val).counts = true ∧
              (t.port p.val).partner = some f.sender))) ∧
      (x.lock = true → 4 ≤ x.idle → let y : Port := { x with lock := false, started := false, idle := 0, seen := none }
        (x.window = true ∨ sends = false → Completes (exec (.lockLoss p) s) fun t => OnlyPort s t p.val y) ∧
        (x.window = false → sends = true → Completes (exec (.lockLoss p) s) fun t => ∃ o, OnlyPort s t p.val { y with out := o } ∧
          (x.actmask = 0 → o = none) ∧
          (x.actmask ≠ 0 → ∃ f : TurnFlit, o = some f ∧ f.locked = false ∧ f.turn = 0xFF ∧
            f.sender = BitVec.setWidth 16 s.fab.self ∧ f.port = BitVec.ofNat 8 p.val ∧ f.actmask = x.actmask ∧ f.crc = TurnFlit.crcOf f))) ∧
      (x.lock = false ∨ x.idle < 4 → exec (.lockLoss p) s = .next s) ∧
      (∀ z : BitVec 16, s.maySend p.val = true → x.partner = some z →
        let leaves (t : State) (g : GateFlit) : Prop := (t.port p.val).slot = x.slot + 1 ∧
          (t.port p.val).sent = x.sent ++ [⟨x.slot, { g with flit := { g.flit with crc := Flit.crcOf g.flit } }, false⟩]
        (∀ g rest, s.fab.custody = g :: rest → g.flit.dst = z → Completes (exec (.flitSend p) s) fun t => t.fab.custody = rest ∧
          t.fab.gate = s.fab.gate ∧ leaves t g) ∧
        (∀ g rest, s.fab.custody = [] → s.fab.gate = g :: rest → (∀ h ∈ rest, h.cls = 3) → s.duePacks = [] → g.cls = 3 → g.flit.dst = z →
          s.mayLeave p.val g = true → Completes (exec (.flitSend p) s) fun t => t.fab.gate = rest ∧ leaves t g)) ∧
      (∀ acked : List Bool, Completes (exec (.windowEnd p acked) s) fun t =>
        (t.port p.val).sent = [] ∧ (t.port p.val).stopped = true ∧ t = { s with fab := t.fab } ∧
        ((∀ i ∈ x.sent, i.failed = false ∧ acked.getD i.slot false = true) →
          t.fab.gate = s.fab.gate ∧ t.fab.custody = s.fab.custody ∧ (t.port p.val).rply = x.rply) ∧
        (∀ i, x.sent = [i] → (i.failed = true ∨ acked.getD i.slot false = false) →
          let first := some (i.item.port.getD p.val)
          (i.item.cls = 0 → PlacedByAge s.fab.custody t.fab.custody { i.item with port := first } ∧ t.fab.gate = s.fab.gate) ∧
          (i.item.cls ≠ 0 → t.fab.custody = s.fab.custody ∧
            PlacedByAge s.fab.gate t.fab.gate { i.item with cls := 1, port := first }) ∧
          (t.port p.val).rply = x.rply + if i.item.port = none then 1 else 0)) ∧
      (∀ m : BitVec 16,
        Completes (exec (.rxLossDetect p m) s) (fun t => OnlyPort s t p.val { x with report := x.report ||| (m &&& x.partnerAct) }) ∧
        Completes (exec (.lightReturn p m) s) (fun t => OnlyPort s t p.val { x with lit := x.lit ||| m }) ∧
        (∀ e ∈ [Instr.laserLoss p m, .lossReportReceive p m], Completes (exec e s) fun t => let y := t.port p.val
          y.lost = x.lost ||| m ∧ y.lit = (if e = .laserLoss p m then x.lit &&& ~~~ m else x.lit) ∧
          (∀ k, k ≠ p.val → t.port k = s.port k) ∧ t.strand = s.strand ∧
          (m &&& ~~~ x.lost ≠ 0 → x.window = true → sends = true → y.stopped = true ∧ y.actmask = x.actmask ∧
            ∀ i ∈ x.sent, x.slot ≤ i.slot + 1 → { i with failed := true } ∈ y.sent) ∧
          (e = .laserLoss p m → x.window = false → y.stopped = x.stopped ∧ y.sent = x.sent))))

/-- A flit of type `typ` reaches this package on a port that receives, its CRC holds and every field of it has a listed value (R234). -/
structure Received (s : State) (p : Fin 128) (f : Flit) (typ : BitVec 8) : Prop where
  port : s.receives p.val = true
  fits : Flit.fits f = true
  kind : f.typ = typ
  here : f.dst.toNat = s.fab.self.toNat

/-- The flit is the next ORDERED one of its source, and none waits behind it (R245). -/
structure NextOrdered (s : State) (p : Fin 128) (f : Flit) (typ : BitVec 8) : Prop extends Received s p f typ where
  cls : f.flags.toNat % 4 = 0
  next : f.seq = (s.peer f.src).nexto
  alone : (s.peer f.src).window = []

/-- The flit has been performed in its sequence space: NEXTO has passed it and a PACK is due (R245, R246). -/
def PassedOrdered (s t : State) (f : Flit) : Prop :=
  (t.peer f.src).nexto = (s.peer f.src).nexto + 1 ∧ (t.peer f.src).window = [] ∧ (t.peer f.src).packDue = true

/-- Byte `j` of a flit's payload. -/
def payloadByte (f : Flit) (j : Nat) : Byte := f.payload.getD j 0

/-- Received flits of the ten types, duplicates, relayed flits and the ends of time act as the fabric chapter says (R234, R235, R238,
R239, R245, R246, R248, R249, R250, R251, R256, 10_tsugil.md). A flit whose CRC or a field does not fit is dropped unacknowledged, a
relayed one for another package goes into custody behind the others, and a duplicate is acknowledged and nothing else; the next ORDERED
WRITE puts its bytes into memory, RDREQ and ATOMIC answer with the bytes and the old value, a VECREQ of one load with its element, replies
end the request that waits for them, a RELMARK waits for LOWF and returns a NOTICE when its address fails its checks, a PACK moves the
acknowledged numbers up, and a NOTICE or a timeout fails the operation it names. The layouts of OPX and the payload of an ATOMIC (log 14), of a
vector packet (log 18) and of a NOTICE (log 29), which malformed flits are dropped (log 37), and that a flit for another package that is not
relayed is dropped (log 48), are the model's choices. -/
def Obligations.FlitsAndAcknowledgements : Prop :=
  ∀ (s : State) (p : Fin 128) (a : Arrival), let f := a.flit; let q := s.peer f.src; let len := f.len.toNat
    let acked (t : State) : Prop := t.port p.val = { s.port p.val with acks := (s.port p.val).acks ++ [a.slot.val] }
    let queued (g : Flit) (cls : Nat) : List GateFlit := s.fab.gate ++ [⟨g, cls, none, s.fab.order⟩]
    (∀ (e : Instr) (typ : BitVec 8), (e, typ) ∈ [(Instr.write p a, 1), (.rdreq p a, 2), (.rdreply p a, 3), (.atomic p a, 4),
        (.atreply p a, 5), (.vecreq p a, 6), (.vecreply p a, 7), (.relmark p a, 8), (.pack p a, 9), (.notice p a, 10)] →
      (f.crc ≠ Flit.crcOf f ∨ Flit.fits f = false ∨ f.typ ≠ typ ∨ s.receives p.val = false ∨
        (f.dst.toNat ≠ s.fab.self.toNat ∧ f.flags.getLsbD 2 = false) → exec e s = .next s) ∧
      (s.receives p.val = true → Flit.fits f = true → f.typ = typ → f.dst.toNat ≠ s.fab.self.toNat → f.flags.getLsbD 2 = true →
        Completes (exec e s) fun t => t.fab.custody = s.fab.custody ++ [⟨f, 0, none, s.fab.order⟩] ∧ t.fab.order = s.fab.order + 1 ∧ acked t ∧
          t = { s with fab := { s.fab with custody := t.fab.custody, order := t.fab.order, ports := t.fab.ports } })) ∧
    (∀ k, homeKey f.addr.toNat (max 1 len) = some k → s.sealedAt k len = false → s.badMerge k (max 1 len) = false →
      let wrote (t : State) : Prop := (∀ j, j < len → t.mem.get (k + j) = payloadByte f j) ∧
        (∀ key, (key < k ∨ k + len ≤ key) → t.mem.get key = s.mem.get key) ∧ t.strand = s.strand ∧ t.fab.gate = s.fab.gate ∧ acked t
      (NextOrdered s p f 1 → Completes (exec (.write p a) s) fun t => wrote t ∧ PassedOrdered s t f) ∧
      (Received s p f 1 → f.flags.toNat % 4 = 1 → f.seq = q.lowf → q.freeDone = [] → q.window = [] →
        Completes (exec (.write p a) s) fun t => wrote t ∧ (t.peer f.src).lowf = q.lowf + 1 ∧ (t.peer f.src).packDue = true)) ∧
    (Received s p f 1 → f.flags.toNat % 4 = 0 → 4096 ≤ (f.seq - q.nexto).toNat → Completes (exec (.write p a) s) fun t => acked t ∧
      t = { s with fab := { s.fab with ports := t.fab.ports } }) ∧
    (∀ k, NextOrdered s p f 2 → homeKey f.addr.toNat f.opx.toNat = some k → s.badRead k f.opx.toNat = false → s.MemoryCanonical →
      Completes (exec (.rdreq p a) s) fun t => t.mem = s.mem ∧ PassedOrdered s t f ∧ acked t ∧ ∃ g : Flit,
        t.fab.gate = queued g 3 ∧ g.typ = 3 ∧ g.dst = f.src ∧ g.mark = f.seq ∧ g.len.toNat = f.opx.toNat ∧
        g.payload = s.mem.read k f.opx.toNat) ∧
    (∀ k op sz rnd, NextOrdered s p f 4 → Flit.atomicOp f = some (op, sz, rnd) → homeKey f.addr.toNat (atBytes sz) = some k →
      k % atBytes sz = 0 → s.sealedAt k (atBytes sz) = false → s.badRead k (atBytes sz) = false →
      let n := atBytes sz; let old := s.mem.readNat k n
      let v := leNat ((List.range n).map fun j => if j < len then payloadByte f j else 0)
      let x := leNat ((List.range n).map fun j => if n + j < len then payloadByte f (n + j) else 0)
      2 * n ≤ len → Completes (exec (.atomic p a) s) fun t => PassedOrdered s t f ∧
        (∀ w, (op.new sz rnd old v x).1 = some w → t.mem.readNat k n = w % 2 ^ (8 * n)) ∧
        ((op.new sz rnd old v x).1 = none → t.mem = s.mem) ∧
        (∀ key, (key < k ∨ k + n ≤ key) → t.mem.get key = s.mem.get key) ∧ ∃ g : Flit,
          t.fab.gate = queued g 3 ∧ g.typ = 5 ∧ g.dst = f.src ∧ g.mark = f.seq ∧ g.payload = leBytes n old ∧
          (f.seq, g) ∈ (t.peer f.src).replies) ∧
    (∀ k, NextOrdered s p f 6 → q.vec = [] → f.opx.toNat = len → len = 32 → f.payload.length = 32 →
      leNat (f.payload.take 8) = 2 ^ 32 + 4 * 2 ^ 8 → leNat (f.payload.drop 24) = 1 →
      homeKey (leNat ((f.payload.drop 8).take 8)) 8 = some k → s.badRead k 8 = false → s.MemoryCanonical → Completes (exec (.vecreq p a) s) fun t => t.mem = s.mem ∧ PassedOrdered s t f ∧ ∃ g : Flit,
        t.fab.gate = queued g 3 ∧ g.typ = 7 ∧ g.dst = f.src ∧ g.mark = f.seq ∧ g.payload = s.mem.read k 8) ∧
    (NextOrdered s p f 8 → Completes (exec (.relmark p a) s) fun t => t.mem = s.mem ∧ t.strand = s.strand ∧
      (let fails := ∀ k, homeKey f.addr.toNat 1 = some k → s.sealedAt k 1 = true ∨ s.badMerge k 1 = true
       (q.lowf - f.mark).toNat < 2 ^ 31 → PassedOrdered s t f ∧ (¬ fails → t.fab.gate = s.fab.gate) ∧
        (fails → ∃ n : Flit, t.fab.gate = queued n 2 ∧ n.typ = 10 ∧ n.dst = f.src ∧
          n.payload = leBytes 4 f.seq.toNat ++ [0, 0] ++ leBytes 2 f.dst.toNat)) ∧
      (2 ^ 31 ≤ (q.lowf - f.mark).toNat → t.fab.gate = s.fab.gate) ∧
      (2 ^ 31 ≤ (q.lowf - f.mark).toNat → (t.peer f.src).nexto = q.nexto ∧ (t.peer f.src).window = [f])) ∧
    (Received s p f 9 → len = 8 → s.reqs = [] →
      let o := BitVec.ofNat 32 (leNat ((List.range 4).map (payloadByte f)))
      let l := BitVec.ofNat 32 (leNat ((List.range 4).map fun j => payloadByte f (4 + j)))
      Completes (exec (.pack p a) s) fun t => t.mem = s.mem ∧ t.strand = s.strand ∧
        (t.peer f.src).ordAcked = (if (o - q.ordAcked).toNat < 2 ^ 31 then o else q.ordAcked) ∧
        (t.peer f.src).freeAcked = (if (l - q.freeAcked).toNat < 2 ^ 31 then l else q.freeAcked)) ∧
    (∀ (r : Request) (k : Nat), s.reqs = [r] → r.remote = true → r.mask = 0 → r.who = .slice k .access → inFocus s k →
      (∀ x ∈ s.others, ¬ (x.resident = true ∧ x.key = k)) → s.strand.acc.waitReq = some r.id → s.det.due = [] →
      (∀ l ∈ s.launches, l.atSystem = true → l.triggered = true) →
      let answered (t : State) (v : Reply) : Prop := t.reqs = [] ∧ t.mem = s.mem ∧
        t.strand = { s.strand with acc := { s.strand.acc with reply := some v } }
      (∀ (e : Instr) (typ : BitVec 8), (e, typ) ∈ [(Instr.rdreply p a, 3), (.atreply p a, 5), (.vecreply p a, 7)] →
        NextOrdered s p f typ → (typ = 7 → q.vec = [] ∧ f.opx.toNat ≤ len) → r.dst = f.src → r.cls = 0 → r.seq = f.mark →
        r.fill = false → s.strand.acc.reply = none → Completes (exec e s) fun t => PassedOrdered s t f ∧
          ∃ bs : List Byte, bs.length = len ∧ (∀ j, j < len → bs[j]? = some (payloadByte f j)) ∧ answered t ⟨r.addr, false, true, bs⟩) ∧
      (∀ (dst : BitVec 16) (cls : BitVec 2) (seq : BitVec 32), r.dst = dst → r.flits = [(cls, seq, 1)] →
        let failed (t : State) : Prop := answered t ⟨r.addr, s.strand.acc.stall == some .release, false, []⟩
        Completes (exec (.deliveryTimeout dst cls seq) s) failed ∧
        (Received s p f 10 → f.payload = leBytes 4 seq.toNat ++ leBytes 1 cls.toNat ++ [0] ++ leBytes 2 dst.toNat → len = 8 →
          Completes (exec (.notice p a) s) failed))) ∧
    (∀ (i : Nat) (g : GateFlit), s.fab.custody[i]? = some g → Completes (exec (.relayTimeout i) s) fun t =>
      t.fab.custody = s.fab.custody.eraseIdx i ∧ t.mem = s.mem ∧ t.strand = s.strand ∧ ∃ n : Flit,
        t.fab.gate = queued n 2 ∧ n.typ = 10 ∧ n.dst = g.flit.src ∧ (n.payload.take 4) = leBytes 4 g.flit.seq.toNat)

/-- The bytes from the program counter on are those of the well-formed instruction `i`, at the key `k` of this package, as memory held them
when the launch started; its slice may run it now, no trap stands before it, no pop has ordered an older instruction of the vector instruction
queue before it and no FENCE waits there before a scalar access, its slice waits for no line of code, and it has no hazard (R61, R98, R198,
R281, R282, R357). -/
structure AtInstruction (s : State) (i : Instr) (k : Nat) : Prop where
  wellFormed : i.isEncoded = true ∧ i.wellFormed = true
  even : s.pc.getLsbD 0 = false
  maps : ∀ j, j < encodeLength i / 2 →
    s.translate s.strand.trap.ptbr (s.side == Side.access && s.strand.trap.priv) .fetch (s.pc + BitVec.ofNat 64 (2 * j)) = .ok (k + 2 * j) ∧
    isFar (k + 2 * j + 1) = false ∧ s.isBad (k + 2 * j) = false
  bytes : (s.launchOf s.strand.id.lid).code.read k (encodeLength i) = encodeBytes i
  runs : s.canRun = true ∧ s.preemptNow = false ∧ s.determReady = false ∧ s.strand.trap.accStop = none ∧ s.stoppedOn = none
  behind : s.behindPops i = false ∧ s.behindFence i = false
  fetching : s.cur.stall ≠ some .fetch
  turn : s.side = .compute → s.strand.q.holdsDispatch = false
  ready : s.ready i = true

/-- A step at the bytes of a well-formed instruction is exec of that instruction, then the vector queue, then the next turn
(R50, R98, R198, R272, R281, R282, 12_formats.md, 02_strands.md). With power and an empty agenda the step runs exec at the same state, notes
which entries of the vector instruction queue the instruction has overtaken, lets the queue go on (settle) and passes the turn; a turn of a
resident slice on the agenda does the same for that slice without passing the turn; an instruction that its slice and its mode may execute and
that reads storage with an uncorrectable error traps MEMERR with STATE = 1 in its place, a VSAVE with the strand's state unchanged; an event on the agenda is exec of the event; without power only a cold start on the agenda is
run, and any other step faults. Agenda and turns are the model's choice (log 2). -/
def Obligations.StepRunsDecodedInstruction : Prop :=
  ∀ (s : State) (i : Instr) (k : Nat),
    (s.power.on = false →
      (∀ c rest, s.agenda = .event (.coldStart c) :: rest →
        step s = andThen (exec (.coldStart c) { s with agenda := rest }) State.settle) ∧
      ((∀ c rest, s.agenda ≠ .event (.coldStart c) :: rest) → step s = .fault .powerOff)) ∧
    (s.power.on = true →
      (s.agenda = [] → AtInstruction s i k →
        (s.lostNow i = false → step s =
          andThen (andThen (exec i s) fun u => (u.overtake s.strand.q.viq.length i).settle) State.passTurn) ∧
        (s.lostNow i = true → (∀ x, i ≠ .vsave x) → step s = .next (s.raise ⟨0x8B, 0⟩).settle.passTurn) ∧
        (s.lostNow i = true → (∃ x, i = .vsave x) → step s = .next (s.raiseAt ⟨0x8B, 0⟩).settle.passTurn)) ∧
      (∀ strand side rest, s.agenda = .slice strand side :: rest → s.isResident strand = true →
        let u := { s with agenda := rest }.turnTo strand side
        AtInstruction u i k → u.lostNow i = false →
          step s = andThen (exec i u) fun v => (v.overtake u.strand.q.viq.length i).settle) ∧
      (∀ e rest, s.agenda = .event e :: rest → e.isEncoded = false →
        step s = andThen (exec e { s with agenda := rest }) State.settle))

/-- Words that the specification works out, and words written out from its layouts, decode to their instructions (R158, R283,
R284, R287, R290, R291, 12_formats.md). The worked words of ADDI x5,x5,-1, LD.W.SPAD x6,16(x7), BNE x5,x0,-2, MFS x9,LGRANT,
VFADD v3,v1,v2, H.ADDI x5,-1 and MMA acc3,p5,v8,x25, and words of ADD, SLLI, LUI, POPC, NOP, TACK and CONVOY, decode to
them; a word of the unassigned major 0x3F and the halfword 0 decode to none. -/
def Obligations.DecodingSanityWords : Prop :=
  decodeTableWord 32 0xFFF0A509 = some (.addi ⟨5, 5, 0xFFF⟩) ∧ decodeTableWord 32 0x0540E629 = some (.ld ⟨.w, .spad, 6, 7, 16⟩) ∧
  decodeTableWord 32 0xFC80BF21 = some (.bne ⟨5, 0, 0x7FF⟩) ∧ decodeTableWord 32 0x01000949 = some (.mfs 9 0x010) ∧
  decodeTableWord 32 0x000823A1 = some (.vfadd ⟨0, .none, .vv 2, 1, 3⟩) ∧ decodeTableWord 16 0xFE50 = some (.hAddi 5 0x7F) ∧
  decodeTableWord 64 0x000000040041AA43 = some (.mma ⟨3, 5, 8, 1⟩) ∧ decodeTableWord 32 0x001CC501 = some (.add ⟨5, 6, 7⟩) ∧
  decodeTableWord 32 0x0100E711 = some (.slli ⟨7, 7, 16⟩) ∧ decodeTableWord 32 0x00021015 = some (.lui ⟨16, 16⟩) ∧
  decodeTableWord 32 0x0400C505 = some (.popc ⟨5, 6⟩) ∧ decodeTableWord 32 0x0000004D = some .nop ∧
  decodeTableWord 32 0x0100004D = some .tack ∧ decodeTableWord 32 0x0200004D = some .convoy ∧
  decodeTableWord 32 0x000000FD = none ∧ decodeTableWord 16 0x0000 = none

/-- Every well-formed instruction is read back from its bytes, whatever follows them (R1, R281, R282, R283, R284, R285, R286,
R287, R291, 12_formats.md). For each encoded instruction, with every operand at every value that its encoding admits, the
decoder reads from its bytes, followed by any bytes, that instruction and its length, which is 2, 4 or 8; and two well-
formed instructions with the same bytes are the same. -/
def Obligations.EncodedBytesDecodeBack : Prop :=
  ∀ (i : Instr), i.isEncoded = true → i.wellFormed = true →
    (∀ rest, decodeBytes (encodeBytes i ++ rest) = .ok (i, encodeLength i)) ∧
    (encodeBytes i).length = encodeLength i ∧ encodeLength i ∈ [2, 4, 8] ∧
    ∀ j : Instr, j.isEncoded = true → j.wellFormed = true → encodeBytes j = encodeBytes i → j = i

/-- Every step keeps the memory in canonical form and the hub within its bounds (R27, R280, 02_strands.md, 08_memory.md,
11_traps.md). From every state, reached or not, whose memory is in canonical form, with at most 1,024 LIDs of rejected
launches and at most 4,096 held records, each step that answers a next state answers one of which the same is true. The
canonical form of memory is the model's (log 8). -/
def Obligations.StepKeepsSound : Prop :=
  ∀ (s t : State), s.Sound → step s = .next t → t.Sound

/-- The machine after reset meets the invariant and holds the reset values of the maps, and those of logs 3 and 5 (R8, R89,
R169, R231, R274, R280, 01_module.md, 11_traps.md). After reset memory lists nothing, no launch is in flight and no strand
is resident; DEVSTAT is in phase 1, not ready and not fatal; every cluster's grants are 32 lanes and rate 16; launch queues
and the event queue are off and empty; FABCFG has D = 1, TIMEOUT = 1,000, EN = 0; every port is off and unlocked. That
start-up begins in phase 1 and that queues start empty and off is the model's (logs 3 and 5). -/
def Obligations.ResetIsSound : Prop :=
  let s := State.reset
  s.Sound ∧ s.mem = [] ∧ s.launches = [] ∧ s.strands = [] ∧ s.hub.phase = 1 ∧ s.hub.ready = false ∧ s.hub.fatal = false ∧
  s.takesLaunches = false ∧ s.hub.saveBase = 0 ∧ s.hub.rejected = [] ∧ s.hub.seals = [] ∧ s.hub.busy = none ∧
  (∀ c, s.lgrant c = 32 ∧ s.mgrant c = 16) ∧
  (∀ q, (s.lq q).en = false ∧ (s.lq q).head = 0 ∧ (s.lq q).tail = 0 ∧ (s.lq q).err = false) ∧
  s.hub.events.en = false ∧ s.hub.events.head = 0 ∧ s.hub.events.tail = 0 ∧ s.hub.events.held = [] ∧
  s.fab.self = 0 ∧ s.fab.d = 1 ∧ s.fab.en = false ∧ s.fab.timeout = 1000 ∧
  (∀ p, (s.port p).en = false ∧ (s.port p).lock = false ∧ (s.port p).lost = 0)
end

