-- ==== Sys2Proof/Laws/Encoding.lean ====
section
/-! SUPPORT. Decoding undoes encoding, layout by layout: the decoder's reading of each field of an encoded word. -/

namespace Sys2Proof.Laws

set_option Elab.async false

theorem space_code (x : Space) : Space.ofCode x.code = x := by cases x <;> rfl
theorem space_lt (x : Space) : x.code < 4 := by cases x <;> decide
theorem scope_code (x : Scope) : Scope.ofCode x.code = some x := by cases x <;> rfl
theorem scope_lt (x : Scope) : x.code < 8 := by cases x <;> decide
theorem ldSize_code (x : LdSize) : LdSize.ofCode x.code = some x := by cases x <;> rfl
theorem ldSize_lt (x : LdSize) : x.code < 8 := by cases x <;> decide
theorem stSize_code (x : StSize) : StSize.ofCode x.code = some x := by cases x <;> rfl
theorem stSize_lt (x : StSize) : x.code < 8 := by cases x <;> decide
theorem atSize_code (x : AtSize) : AtSize.ofCode x.code = x := by cases x <;> rfl
theorem atSize_lt (x : AtSize) : x.code < 2 := by cases x <;> decide
theorem order_code (x : Order) : Order.ofCode x.code = x := by
  cases x with
  | plain => rfl
  | acq s => cases s <;> rfl
  | rel s => cases s <;> rfl
  | ar s => cases s <;> rfl
theorem order_lt (x : Order) : x.code < 16 := by
  cases x with
  | plain => decide
  | acq s => cases s <;> decide
  | rel s => cases s <;> decide
  | ar s => cases s <;> decide
theorem fenceKind_code (x : FenceKind) : FenceKind.ofCode x.code = some x := by cases x <;> rfl
theorem fenceKind_lt (x : FenceKind) : x.code < 4 := by cases x <;> decide
theorem eWidth_code (x : EWidth) : EWidth.ofCode x.code = some x := by cases x <;> rfl
theorem eWidth_lt (x : EWidth) : x.code < 8 := by cases x <;> decide
theorem amoOp_code (x : AmoOp) : AmoOp.ofCode x.code = some x := by cases x <;> rfl
theorem amoOp_lt (x : AmoOp) : x.code < 16 := by cases x <;> decide
theorem iCond_code (x : ICond) : ICond.ofCode x.code = x := by cases x <;> rfl
theorem iCond_lt (x : ICond) : x.code < 4 := by cases x <;> decide
theorem fCond_code (x : FCond) : FCond.ofCode x.code = x := by cases x <;> rfl
theorem fCond_lt (x : FCond) : x.code < 4 := by cases x <;> decide
theorem gov_code (x : Gov) : Gov.ofCode x.code = x := by cases x <;> rfl
theorem gov_lt (x : Gov) : x.code < 4 := by cases x <;> decide
theorem prec_code (x : Prec) : Prec.ofCode x.code = x := by cases x <;> rfl
theorem prec_lt (x : Prec) : x.code < 2 := by cases x <;> decide
theorem pMode_code (x : PMode) : PMode.ofCode x.code = some x := by cases x <;> rfl
theorem pMode_lt (x : PMode) : x.code < 4 := by cases x <;> decide
theorem pDir_code (x : PDir) : PDir.ofCode x.code = some x := by cases x <;> rfl
theorem pDir_lt (x : PDir) : x.code < 4 := by cases x <;> decide
theorem cvtCode_code (x : CvtCode) : CvtCode.ofCode x.code = some x := by
  cases x with
  | sd => rfl
  | ds => rfl
  | toInt t f => cases t <;> cases f <;> rfl
  | ofInt f t => cases t <;> cases f <;> rfl
theorem cvtCode_lt (x : CvtCode) : x.code < 32 := by
  cases x with
  | sd => decide
  | ds => decide
  | toInt t f => cases t <;> cases f <;> decide
  | ofInt f t => cases t <;> cases f <;> decide
theorem vwaitScope_code (x : Option Scope) (h : x ≠ some .strand) : VWaitArgs.scopeOfCode (VWaitArgs.scopeCode x) = some x := by
  rcases x with _ | s
  · rfl
  · cases s <;> first | rfl | exact absurd rfl h
theorem vwaitScope_lt (x : Option Scope) : VWaitArgs.scopeCode x < 8 := by
  rcases x with _ | s
  · decide
  · exact scope_lt s
theorem src2_code (x : Src2) : Src2.ofCode x.form x.field = some x := by
  cases x with
  | vv v => simp [Src2.form, Src2.field, Src2.ofCode, Fin.ofNat, Nat.mod_eq_of_lt v.isLt]
  | vs v => simp [Src2.form, Src2.field, Src2.ofCode, Fin.ofNat, Nat.mod_eq_of_lt v.isLt]
  | vi v => simp [Src2.form, Src2.field, Src2.ofCode]
theorem src2_form_lt (x : Src2) : x.form < 4 := by cases x <;> simp [Src2.form]
theorem src2_field_lt (x : Src2) : x.field < 32 := by
  cases x with
  | vv v => exact v.isLt
  | vs v => exact v.isLt
  | vi v => exact v.isLt

/-- A five-bit register field holds what stands there. -/
theorem reg_eq {w lo : Nat} {r : Fin 32} (h : bits w lo 5 = r.val) : reg w lo = r := by
  apply Fin.ext; simp [reg, Fin.ofNat, h]
/-- A three-bit register field holds what stands there. -/
theorem reg3_eq {w lo : Nat} {r : Fin 8} (h : bits w lo 3 = r.val) : reg3 w lo = r := by
  apply Fin.ext; simp [reg3, Fin.ofNat, h]
/-- A four-bit field holds what stands there. -/
theorem num4_eq {w lo : Nat} {r : Fin 16} (h : bits w lo 4 = r.val) : num4 w lo = r := by
  apply Fin.ext; simp [num4, Fin.ofNat, h]
/-- An immediate field holds what stands there. -/
theorem imm_eq {n x : Nat} {i : BitVec n} (h : x = i.toNat) : BitVec.ofNat n x = i := by simp [h]

/-- The two parts of a branch offset, joined. -/
theorem bOff_join (x : BitVec 11) : BitVec.ofNat 11 (x.toNat / 32 * 32 + x.toNat % 32) = x := by
  rw [show x.toNat / 32 * 32 + x.toNat % 32 = x.toNat by omega]; simp

/-- The two parts of an offset of nine bits, joined. -/
theorem imm9_join (x : BitVec 9) : BitVec.ofNat 9 (x.toNat / 32 * 32 + x.toNat % 32) = x := by
  rw [show x.toNat / 32 * 32 + x.toNat % 32 = x.toNat by omega]; simp

/-- Layout R. -/
theorem rt_R {m f : Nat} (k : R3 → Instr) (a : R3) (hm : m < 64) (hf : f < 16)
    (h : ∀ w, bits w 2 6 = m → bits w 23 4 = f → decode32 w = decR w k) : decode32 (encR3 m f a) = .ok (k a) := by
  rw [h _ (by simp only [bits, encR3, encR, maj]; omega) (by simp only [bits, encR3, encR, maj]; omega)]
  have b0 : bits (encR3 m f a) 27 5 = 0 := by simp only [bits, encR3, encR, maj]; omega
  have r0 : reg (encR3 m f a) 8 = a.rd := reg_eq (by simp only [bits, encR3, encR, maj]; omega)
  have r1 : reg (encR3 m f a) 13 = a.rs1 := reg_eq (by simp only [bits, encR3, encR, maj]; omega)
  have r2 : reg (encR3 m f a) 18 = a.rs2 := reg_eq (by simp only [bits, encR3, encR, maj]; omega)
  simp [decR, zero, b0, r0, r1, r2]

/-- Layout R1. -/
theorem rt_R1 {m f : Nat} (k : R2 → Instr) (a : R2) (hm : m < 64) (hf : f < 16)
    (h : ∀ w, bits w 2 6 = m → bits w 23 4 = f → decode32 w = decR1 w k) : decode32 (encR m f a.rd a.rs1 0 0) = .ok (k a) := by
  rw [h _ (by simp only [bits, encR, maj]; omega) (by simp only [bits, encR, maj]; omega)]
  have b0 : bits (encR m f a.rd a.rs1 0 0) 27 5 = 0 := by simp only [bits, encR, maj]; omega
  have b1 : bits (encR m f a.rd a.rs1 0 0) 18 5 = 0 := by simp only [bits, encR, maj]; omega
  have r0 : reg (encR m f a.rd a.rs1 0 0) 8 = a.rd := reg_eq (by simp only [bits, encR, maj]; omega)
  have r1 : reg (encR m f a.rd a.rs1 0 0) 13 = a.rs1 := reg_eq (by simp only [bits, encR, maj]; omega)
  simp [decR1, zero, b0, b1, r0, r1]

/-- Layout I. -/
theorem rt_I {m f : Nat} (k : IArgs → Instr) (a : IArgs) (hm : m < 64) (hf : f < 4)
    (h : ∀ w, bits w 2 6 = m → bits w 18 2 = f → decode32 w = decI w k) : decode32 (encI m f a.rd a.rs1 a.imm.toNat) = .ok (k a) := by
  rw [h _ (by simp only [bits, encI, maj]; omega) (by simp only [bits, encI, maj]; omega)]
  have b0 : bits (encI m f a.rd a.rs1 a.imm.toNat) 20 12 = a.imm.toNat := by simp only [bits, encI, maj]; omega
  have r0 : reg (encI m f a.rd a.rs1 a.imm.toNat) 8 = a.rd := reg_eq (by simp only [bits, encI, maj]; omega)
  have r1 : reg (encI m f a.rd a.rs1 a.imm.toNat) 13 = a.rs1 := reg_eq (by simp only [bits, encI, maj]; omega)
  simp [decI, b0, r0, r1]

/-- Layout Sh. -/
theorem rt_Sh {m f : Nat} (k : ShArgs → Instr) (a : ShArgs) (hm : m < 64) (hf : f < 4)
    (h : ∀ w, bits w 2 6 = m → bits w 18 2 = f → decode32 w = decSh w k) : decode32 (encI m f a.rd a.rs1 a.count.toNat) = .ok (k a) := by
  rw [h _ (by simp only [bits, encI, maj]; omega) (by simp only [bits, encI, maj]; omega)]
  have b0 : bits (encI m f a.rd a.rs1 a.count.toNat) 26 6 = 0 := by simp only [bits, encI, maj]; omega
  have b1 : bits (encI m f a.rd a.rs1 a.count.toNat) 20 6 = a.count.toNat := by simp only [bits, encI, maj]; omega
  have r0 : reg (encI m f a.rd a.rs1 a.count.toNat) 8 = a.rd := reg_eq (by simp only [bits, encI, maj]; omega)
  have r1 : reg (encI m f a.rd a.rs1 a.count.toNat) 13 = a.rs1 := reg_eq (by simp only [bits, encI, maj]; omega)
  simp [decSh, zero, b0, b1, r0, r1]

/-- Layout B. -/
theorem rt_B {m f : Nat} (k : BArgs → Instr) (a : BArgs) (hm : m < 64) (hf : f < 8)
    (h : ∀ w, bits w 2 6 = m → bits w 23 3 = f → decode32 w = decB w k) : decode32 (encB m f a.rs1 a.rs2 a.off.toNat) = .ok (k a) := by
  rw [h _ (by
    have h1 : a.off.toNat / 32 < 64 := by omega
    have h2 : a.off.toNat % 32 < 32 := by omega
    simp only [bits, encB, maj]; generalize a.off.toNat / 32 = hi at *; generalize a.off.toNat % 32 = lo at *; omega) (by
    have h1 : a.off.toNat / 32 < 64 := by omega
    have h2 : a.off.toNat % 32 < 32 := by omega
    simp only [bits, encB, maj]; generalize a.off.toNat / 32 = hi at *; generalize a.off.toNat % 32 = lo at *; omega)]
  have b0 : bits (encB m f a.rs1 a.rs2 a.off.toNat) 26 6 = a.off.toNat / 32 := by
    have h1 : a.off.toNat / 32 < 64 := by omega
    have h2 : a.off.toNat % 32 < 32 := by omega
    simp only [bits, encB, maj]; generalize a.off.toNat / 32 = hi at *; generalize a.off.toNat % 32 = lo at *; omega
  have b1 : bits (encB m f a.rs1 a.rs2 a.off.toNat) 8 5 = a.off.toNat % 32 := by
    have h1 : a.off.toNat / 32 < 64 := by omega
    have h2 : a.off.toNat % 32 < 32 := by omega
    simp only [bits, encB, maj]; generalize a.off.toNat / 32 = hi at *; generalize a.off.toNat % 32 = lo at *; omega
  have r0 : reg (encB m f a.rs1 a.rs2 a.off.toNat) 13 = a.rs1 := reg_eq (by
    have h1 : a.off.toNat / 32 < 64 := by omega
    have h2 : a.off.toNat % 32 < 32 := by omega
    simp only [bits, encB, maj]; generalize a.off.toNat / 32 = hi at *; generalize a.off.toNat % 32 = lo at *; omega)
  have r1 : reg (encB m f a.rs1 a.rs2 a.off.toNat) 18 = a.rs2 := reg_eq (by
    have h1 : a.off.toNat / 32 < 64 := by omega
    have h2 : a.off.toNat % 32 < 32 := by omega
    simp only [bits, encB, maj]; generalize a.off.toNat / 32 = hi at *; generalize a.off.toNat % 32 = lo at *; omega)
  simp [decB, b0, b1, r0, r1, bOff, bOff_join]

/-- Layout MB. -/
theorem rt_MB {m f : Nat} (k : MBArgs → Instr) (a : MBArgs) (hm : m < 64) (hf : f < 8)
    (h : ∀ w, bits w 2 6 = m → bits w 23 3 = f → decode32 w = decMB w k) : decode32 (encB m f a.md 0 a.off.toNat) = .ok (k a) := by
  rw [h _ (by
    have h1 : a.off.toNat / 32 < 64 := by omega
    have h2 : a.off.toNat % 32 < 32 := by omega
    simp only [bits, encB, maj]; generalize a.off.toNat / 32 = hi at *; generalize a.off.toNat % 32 = lo at *; omega) (by
    have h1 : a.off.toNat / 32 < 64 := by omega
    have h2 : a.off.toNat % 32 < 32 := by omega
    simp only [bits, encB, maj]; generalize a.off.toNat / 32 = hi at *; generalize a.off.toNat % 32 = lo at *; omega)]
  have b0 : bits (encB m f a.md 0 a.off.toNat) 18 5 = 0 := by
    have h1 : a.off.toNat / 32 < 64 := by omega
    have h2 : a.off.toNat % 32 < 32 := by omega
    simp only [bits, encB, maj]; generalize a.off.toNat / 32 = hi at *; generalize a.off.toNat % 32 = lo at *; omega
  have b1 : bits (encB m f a.md 0 a.off.toNat) 16 2 = 0 := by
    have h1 : a.off.toNat / 32 < 64 := by omega
    have h2 : a.off.toNat % 32 < 32 := by omega
    simp only [bits, encB, maj]; generalize a.off.toNat / 32 = hi at *; generalize a.off.toNat % 32 = lo at *; omega
  have b2 : bits (encB m f a.md 0 a.off.toNat) 26 6 = a.off.toNat / 32 := by
    have h1 : a.off.toNat / 32 < 64 := by omega
    have h2 : a.off.toNat % 32 < 32 := by omega
    simp only [bits, encB, maj]; generalize a.off.toNat / 32 = hi at *; generalize a.off.toNat % 32 = lo at *; omega
  have b3 : bits (encB m f a.md 0 a.off.toNat) 8 5 = a.off.toNat % 32 := by
    have h1 : a.off.toNat / 32 < 64 := by omega
    have h2 : a.off.toNat % 32 < 32 := by omega
    simp only [bits, encB, maj]; generalize a.off.toNat / 32 = hi at *; generalize a.off.toNat % 32 = lo at *; omega
  have r0 : reg3 (encB m f a.md 0 a.off.toNat) 13 = a.md := reg3_eq (by
    have h1 : a.off.toNat / 32 < 64 := by omega
    have h2 : a.off.toNat % 32 < 32 := by omega
    simp only [bits, encB, maj]; generalize a.off.toNat / 32 = hi at *; generalize a.off.toNat % 32 = lo at *; omega)
  simp [decMB, zero, b0, b1, b2, b3, r0, bOff, bOff_join]

/-- Layout BQ. -/
theorem rt_BQ {m f : Nat} (k : BitVec 11 → Instr) (a : BitVec 11) (hm : m < 64) (hf : f < 8)
    (h : ∀ w, bits w 2 6 = m → bits w 23 3 = f → decode32 w = decBQ w k) : decode32 (encB m f 0 0 a.toNat) = .ok (k a) := by
  rw [h _ (by
    have h1 : a.toNat / 32 < 64 := by omega
    have h2 : a.toNat % 32 < 32 := by omega
    simp only [bits, encB, maj]; generalize a.toNat / 32 = hi at *; generalize a.toNat % 32 = lo at *; omega) (by
    have h1 : a.toNat / 32 < 64 := by omega
    have h2 : a.toNat % 32 < 32 := by omega
    simp only [bits, encB, maj]; generalize a.toNat / 32 = hi at *; generalize a.toNat % 32 = lo at *; omega)]
  have b0 : bits (encB m f 0 0 a.toNat) 18 5 = 0 := by
    have h1 : a.toNat / 32 < 64 := by omega
    have h2 : a.toNat % 32 < 32 := by omega
    simp only [bits, encB, maj]; generalize a.toNat / 32 = hi at *; generalize a.toNat % 32 = lo at *; omega
  have b1 : bits (encB m f 0 0 a.toNat) 13 5 = 0 := by
    have h1 : a.toNat / 32 < 64 := by omega
    have h2 : a.toNat % 32 < 32 := by omega
    simp only [bits, encB, maj]; generalize a.toNat / 32 = hi at *; generalize a.toNat % 32 = lo at *; omega
  have b2 : bits (encB m f 0 0 a.toNat) 26 6 = a.toNat / 32 := by
    have h1 : a.toNat / 32 < 64 := by omega
    have h2 : a.toNat % 32 < 32 := by omega
    simp only [bits, encB, maj]; generalize a.toNat / 32 = hi at *; generalize a.toNat % 32 = lo at *; omega
  have b3 : bits (encB m f 0 0 a.toNat) 8 5 = a.toNat % 32 := by
    have h1 : a.toNat / 32 < 64 := by omega
    have h2 : a.toNat % 32 < 32 := by omega
    simp only [bits, encB, maj]; generalize a.toNat / 32 = hi at *; generalize a.toNat % 32 = lo at *; omega
  simp [decBQ, zero, b0, b1, b2, b3, bOff, bOff_join]

/-- Layout A. -/
theorem rt_A {m f : Nat} (k : AArgs → Instr) (a : AArgs) (hm : m < 64) (hf : f < 4)
    (h : ∀ w, bits w 2 6 = m → bits w 30 2 = f → decode32 w = decA w k) : decode32 (encAA m f a) = .ok (k a) := by
  have := order_lt a.order
  have := space_lt a.space
  have := atSize_lt a.size
  rw [h _ (by simp only [bits, encAA, encA, maj]; omega) (by simp only [bits, encAA, encA, maj]; omega)]
  have b0 : bits (encAA m f a) 26 4 = a.order.code := by simp only [bits, encAA, encA, maj]; omega
  have b1 : bits (encAA m f a) 24 2 = a.space.code := by simp only [bits, encAA, encA, maj]; omega
  have b2 : bits (encAA m f a) 23 1 = a.size.code := by simp only [bits, encAA, encA, maj]; omega
  have r0 : reg (encAA m f a) 8 = a.rd := reg_eq (by simp only [bits, encAA, encA, maj]; omega)
  have r1 : reg (encAA m f a) 13 = a.rs1 := reg_eq (by simp only [bits, encAA, encA, maj]; omega)
  have r2 : reg (encAA m f a) 18 = a.rs2 := reg_eq (by simp only [bits, encAA, encA, maj]; omega)
  simp [decA, b0, b1, b2, r0, r1, r2, order_code, space_code, atSize_code]

/-- Layout Plain. -/
theorem rt_Plain {m f : Nat} (k : Instr) (hm : m < 64) (hf : f < 16)
    (h : ∀ w, bits w 2 6 = m → bits w 23 4 = f → decode32 w = decPlain w k) : decode32 (encR m f 0 0 0 0) = .ok (k) := by
  rw [h _ (by simp only [bits, encR, maj]; omega) (by simp only [bits, encR, maj]; omega)]
  have b0 : bits (encR m f 0 0 0 0) 27 5 = 0 := by simp only [bits, encR, maj]; omega
  have b1 : bits (encR m f 0 0 0 0) 8 15 = 0 := by simp only [bits, encR, maj]; omega
  simp [decPlain, zero, b0, b1]

/-- Layout Xs1. -/
theorem rt_Xs1 {m f : Nat} (k : Reg → Instr) (x : Reg) (hm : m < 64) (hf : f < 16)
    (h : ∀ w, bits w 2 6 = m → bits w 23 4 = f → decode32 w = decXs1 w k) : decode32 (encR m f 0 x 0 0) = .ok (k x) := by
  rw [h _ (by simp only [bits, encR, maj]; omega) (by simp only [bits, encR, maj]; omega)]
  have b0 : bits (encR m f 0 x 0 0) 27 5 = 0 := by simp only [bits, encR, maj]; omega
  have b1 : bits (encR m f 0 x 0 0) 18 5 = 0 := by simp only [bits, encR, maj]; omega
  have b2 : bits (encR m f 0 x 0 0) 8 5 = 0 := by simp only [bits, encR, maj]; omega
  have r0 : reg (encR m f 0 x 0 0) 13 = x := reg_eq (by simp only [bits, encR, maj]; omega)
  simp [decXs1, zero, b0, b1, b2, r0]

/-- Layout Qs. -/
theorem rt_Qs {m f : Nat} (k : Reg → Instr) (x : Reg) (hm : m < 64) (hf : f < 16)
    (h : ∀ w, bits w 2 6 = m → bits w 23 4 = f → decode32 w = decQs w k) : decode32 (encR m f 0 0 x 0) = .ok (k x) := by
  rw [h _ (by simp only [bits, encR, maj]; omega) (by simp only [bits, encR, maj]; omega)]
  have b0 : bits (encR m f 0 0 x 0) 27 5 = 0 := by simp only [bits, encR, maj]; omega
  have b1 : bits (encR m f 0 0 x 0) 8 10 = 0 := by simp only [bits, encR, maj]; omega
  have r0 : reg (encR m f 0 0 x 0) 18 = x := reg_eq (by simp only [bits, encR, maj]; omega)
  simp [decQs, zero, b0, b1, r0]

/-- Layout Qd. -/
theorem rt_Qd {m f : Nat} (k : Reg → Instr) (x : Reg) (hm : m < 64) (hf : f < 16)
    (h : ∀ w, bits w 2 6 = m → bits w 23 4 = f → decode32 w = decQd w k) : decode32 (encR m f x 0 0 0) = .ok (k x) := by
  rw [h _ (by simp only [bits, encR, maj]; omega) (by simp only [bits, encR, maj]; omega)]
  have b0 : bits (encR m f x 0 0 0) 27 5 = 0 := by simp only [bits, encR, maj]; omega
  have b1 : bits (encR m f x 0 0 0) 13 10 = 0 := by simp only [bits, encR, maj]; omega
  have r0 : reg (encR m f x 0 0 0) 8 = x := reg_eq (by simp only [bits, encR, maj]; omega)
  simp [decQd, zero, b0, b1, r0]

/-- Layout M1. -/
theorem rt_M1 {m f : Nat} (k : Reg → Instr) (x : Reg) (hm : m < 64) (hf : f < 4)
    (h : ∀ w, bits w 2 6 = m → bits w 30 2 = f → decode32 w = decM1 w k) : decode32 (encM m f 0 x 0) = .ok (k x) := by
  rw [h _ (by simp only [bits, encM, maj]; omega) (by simp only [bits, encM, maj]; omega)]
  have b0 : bits (encM m f 0 x 0) 23 7 = 0 := by simp only [bits, encM, maj]; omega
  have b1 : bits (encM m f 0 x 0) 18 5 = 0 := by simp only [bits, encM, maj]; omega
  have b2 : bits (encM m f 0 x 0) 8 5 = 0 := by simp only [bits, encM, maj]; omega
  have r0 : reg (encM m f 0 x 0) 13 = x := reg_eq (by simp only [bits, encM, maj]; omega)
  simp [decM1, zero, b0, b1, b2, r0]

/-- Layout M2. -/
theorem rt_M2 {m f : Nat} (k : Reg → Reg → Instr) (x y : Reg) (hm : m < 64) (hf : f < 4)
    (h : ∀ w, bits w 2 6 = m → bits w 30 2 = f → decode32 w = decM2 w k) : decode32 (encM m f 0 x y) = .ok (k x y) := by
  rw [h _ (by simp only [bits, encM, maj]; omega) (by simp only [bits, encM, maj]; omega)]
  have b0 : bits (encM m f 0 x y) 23 7 = 0 := by simp only [bits, encM, maj]; omega
  have b1 : bits (encM m f 0 x y) 8 5 = 0 := by simp only [bits, encM, maj]; omega
  have r0 : reg (encM m f 0 x y) 13 = x := reg_eq (by simp only [bits, encM, maj]; omega)
  have r1 : reg (encM m f 0 x y) 18 = y := reg_eq (by simp only [bits, encM, maj]; omega)
  simp [decM2, zero, b0, b1, r0, r1]

/-- A field of the V layout. -/
theorem encVf_maj {m f fmt gov form src vs1 vd : Nat} (h : m < 64 ∧ f < 4 ∧ fmt < 8 ∧ gov < 4 ∧ form < 4 ∧ src < 32 ∧
    vs1 < 32 ∧ vd < 32) : bits (encVf m f fmt gov form src vs1 vd) 2 6 = m := by
  simp only [bits, encVf, maj]; omega

/-- A field of the V layout. -/
theorem encVf_vd {m f fmt gov form src vs1 vd : Nat} (h : m < 64 ∧ f < 4 ∧ fmt < 8 ∧ gov < 4 ∧ form < 4 ∧ src < 32 ∧
    vs1 < 32 ∧ vd < 32) : bits (encVf m f fmt gov form src vs1 vd) 8 5 = vd := by
  simp only [bits, encVf, maj]; omega

/-- A field of the V layout. -/
theorem encVf_vs1 {m f fmt gov form src vs1 vd : Nat} (h : m < 64 ∧ f < 4 ∧ fmt < 8 ∧ gov < 4 ∧ form < 4 ∧ src < 32 ∧
    vs1 < 32 ∧ vd < 32) : bits (encVf m f fmt gov form src vs1 vd) 13 5 = vs1 := by
  simp only [bits, encVf, maj]; omega

/-- A field of the V layout. -/
theorem encVf_src {m f fmt gov form src vs1 vd : Nat} (h : m < 64 ∧ f < 4 ∧ fmt < 8 ∧ gov < 4 ∧ form < 4 ∧ src < 32 ∧
    vs1 < 32 ∧ vd < 32) : bits (encVf m f fmt gov form src vs1 vd) 18 5 = src := by
  simp only [bits, encVf, maj]; omega

/-- A field of the V layout. -/
theorem encVf_form {m f fmt gov form src vs1 vd : Nat} (h : m < 64 ∧ f < 4 ∧ fmt < 8 ∧ gov < 4 ∧ form < 4 ∧ src < 32 ∧
    vs1 < 32 ∧ vd < 32) : bits (encVf m f fmt gov form src vs1 vd) 23 2 = form := by
  simp only [bits, encVf, maj]; omega

/-- A field of the V layout. -/
theorem encVf_gov {m f fmt gov form src vs1 vd : Nat} (h : m < 64 ∧ f < 4 ∧ fmt < 8 ∧ gov < 4 ∧ form < 4 ∧ src < 32 ∧
    vs1 < 32 ∧ vd < 32) : bits (encVf m f fmt gov form src vs1 vd) 25 2 = gov := by
  simp only [bits, encVf, maj]; omega

/-- A field of the V layout. -/
theorem encVf_fmt {m f fmt gov form src vs1 vd : Nat} (h : m < 64 ∧ f < 4 ∧ fmt < 8 ∧ gov < 4 ∧ form < 4 ∧ src < 32 ∧
    vs1 < 32 ∧ vd < 32) : bits (encVf m f fmt gov form src vs1 vd) 27 3 = fmt := by
  simp only [bits, encVf, maj]; omega

/-- A field of the V layout. -/
theorem encVf_minor {m f fmt gov form src vs1 vd : Nat} (h : m < 64 ∧ f < 4 ∧ fmt < 8 ∧ gov < 4 ∧ form < 4 ∧ src < 32 ∧
    vs1 < 32 ∧ vd < 32) : bits (encVf m f fmt gov form src vs1 vd) 30 2 = f := by
  simp only [bits, encVf, maj]; omega

/-- Layout V. -/
theorem rt_V {m f : Nat} (k : VArgs → Instr) (a : VArgs) (hm : m < 64) (hf : f < 4)
    (h : ∀ w, bits w 2 6 = m → bits w 30 2 = f → decode32 w = decV w k) : decode32 (encV m f a) = .ok (k a) := by
  have g := And.intro hm (And.intro hf (And.intro a.fmt.isLt (And.intro (gov_lt a.gov) (And.intro (src2_form_lt a.src2)
    (And.intro (src2_field_lt a.src2) (And.intro a.vs1.isLt a.vd.isLt))))))
  have e1 := reg3_eq (encVf_fmt g)
  have e2 := reg_eq (encVf_vs1 g)
  have e3 := reg_eq (encVf_vd g)
  have e4 := encVf_form g
  have e5 := encVf_src g
  have e6 := encVf_gov g
  rw [encV, h _ (encVf_maj g) (encVf_minor g), decV, e4, e5, src2_code, coded, e1, e2, e3, e6, gov_code]

/-- Layout VU. -/
theorem rt_VU {m f : Nat} (k : VUArgs → Instr) (a : VUArgs) (hm : m < 64) (hf : f < 4)
    (h : ∀ w, bits w 2 6 = m → bits w 30 2 = f → decode32 w = decVU w k) : decode32 (encVU m f a) = .ok (k a) := by
  have := gov_lt a.gov
  rw [h _ (by simp only [bits, encVU, encVf, maj]; omega) (by simp only [bits, encVU, encVf, maj]; omega)]
  have b0 : bits (encVU m f a) 18 7 = 0 := by simp only [bits, encVU, encVf, maj]; omega
  have b1 : bits (encVU m f a) 25 2 = a.gov.code := by simp only [bits, encVU, encVf, maj]; omega
  have r0 : reg3 (encVU m f a) 27 = a.fmt := reg3_eq (by simp only [bits, encVU, encVf, maj]; omega)
  have r1 : reg (encVU m f a) 13 = a.vs1 := reg_eq (by simp only [bits, encVU, encVf, maj]; omega)
  have r2 : reg (encVU m f a) 8 = a.vd := reg_eq (by simp only [bits, encVU, encVf, maj]; omega)
  simp [decVU, zero, b0, b1, r0, r1, r2, gov_code]

/-- Layout MM. -/
theorem rt_MM {m f : Nat} (k : MMArgs → Instr) (a : MMArgs) (hm : m < 64) (hf : f < 4)
    (h : ∀ w, bits w 2 6 = m → bits w 30 2 = f → decode32 w = decMM w k) : decode32 (encMM m f a) = .ok (k a) := by
  rw [h _ (by simp only [bits, encMM, encVf, maj]; omega) (by simp only [bits, encMM, encVf, maj]; omega)]
  have b0 : bits (encMM m f a) 23 7 = 0 := by simp only [bits, encMM, encVf, maj]; omega
  have b1 : bits (encMM m f a) 21 2 = 0 := by simp only [bits, encMM, encVf, maj]; omega
  have b2 : bits (encMM m f a) 16 2 = 0 := by simp only [bits, encMM, encVf, maj]; omega
  have b3 : bits (encMM m f a) 11 2 = 0 := by simp only [bits, encMM, encVf, maj]; omega
  have r0 : reg3 (encMM m f a) 8 = a.md := reg3_eq (by simp only [bits, encMM, encVf, maj]; omega)
  have r1 : reg3 (encMM m f a) 13 = a.ms1 := reg3_eq (by simp only [bits, encMM, encVf, maj]; omega)
  have r2 : reg3 (encMM m f a) 18 = a.ms2 := reg3_eq (by simp only [bits, encMM, encVf, maj]; omega)
  simp [decMM, zero, b0, b1, b2, b3, r0, r1, r2]

/-- Layout MX. -/
theorem rt_MX {m f : Nat} (k : MXArgs → Instr) (a : MXArgs) (hm : m < 64) (hf : f < 4)
    (h : ∀ w, bits w 2 6 = m → bits w 30 2 = f → decode32 w = decMX w k) : decode32 (encVf m f 0 a.gov.code 0 0 a.ms a.rd) = .ok (k a) := by
  have := gov_lt a.gov
  rw [h _ (by simp only [bits, encVf, maj]; omega) (by simp only [bits, encVf, maj]; omega)]
  have b0 : bits (encVf m f 0 a.gov.code 0 0 a.ms a.rd) 27 3 = 0 := by simp only [bits, encVf, maj]; omega
  have b1 : bits (encVf m f 0 a.gov.code 0 0 a.ms a.rd) 18 7 = 0 := by simp only [bits, encVf, maj]; omega
  have b2 : bits (encVf m f 0 a.gov.code 0 0 a.ms a.rd) 16 2 = 0 := by simp only [bits, encVf, maj]; omega
  have b3 : bits (encVf m f 0 a.gov.code 0 0 a.ms a.rd) 25 2 = a.gov.code := by simp only [bits, encVf, maj]; omega
  have r0 : reg (encVf m f 0 a.gov.code 0 0 a.ms a.rd) 8 = a.rd := reg_eq (by simp only [bits, encVf, maj]; omega)
  have r1 : reg3 (encVf m f 0 a.gov.code 0 0 a.ms a.rd) 13 = a.ms := reg3_eq (by simp only [bits, encVf, maj]; omega)
  simp [decMX, zero, b0, b1, b2, b3, r0, r1, gov_code]

/-- Layout MG. -/
theorem rt_MG {m f : Nat} (k : MGArgs → Instr) (a : MGArgs) (hm : m < 64) (hf : f < 4)
    (h : ∀ w, bits w 2 6 = m → bits w 30 2 = f → decode32 w = decMG w k) : decode32 (encMG m f a) = .ok (k a) := by
  have := gov_lt a.gov
  rw [h _ (by simp only [bits, encMG, encVf, maj]; omega) (by simp only [bits, encMG, encVf, maj]; omega)]
  have b0 : bits (encMG m f a) 27 3 = 0 := by simp only [bits, encMG, encVf, maj]; omega
  have b1 : bits (encMG m f a) 18 7 = 0 := by simp only [bits, encMG, encVf, maj]; omega
  have b2 : bits (encMG m f a) 16 2 = 0 := by simp only [bits, encMG, encVf, maj]; omega
  have b3 : bits (encMG m f a) 11 2 = 0 := by simp only [bits, encMG, encVf, maj]; omega
  have b4 : bits (encMG m f a) 25 2 = a.gov.code := by simp only [bits, encMG, encVf, maj]; omega
  have r0 : reg3 (encMG m f a) 8 = a.md := reg3_eq (by simp only [bits, encMG, encVf, maj]; omega)
  have r1 : reg3 (encMG m f a) 13 = a.ms := reg3_eq (by simp only [bits, encMG, encVf, maj]; omega)
  simp [decMG, zero, b0, b1, b2, b3, b4, r0, r1, gov_code]

/-- Layout Sp. -/
theorem rt_Sp {m f : Nat} (k : SpArgs → Instr) (a : SpArgs) (hm : m < 64) (hf : f < 4)
    (h : ∀ w, bits w 2 6 = m → bits w 30 2 = f → decode32 w = decSp w k) : decode32 (encVf m f a.fmt 0 0 a.vs2 a.vs1 a.vd) = .ok (k a) := by
  rw [h _ (by simp only [bits, encVf, maj]; omega) (by simp only [bits, encVf, maj]; omega)]
  have b0 : bits (encVf m f a.fmt 0 0 a.vs2 a.vs1 a.vd) 23 4 = 0 := by simp only [bits, encVf, maj]; omega
  have r0 : reg3 (encVf m f a.fmt 0 0 a.vs2 a.vs1 a.vd) 27 = a.fmt := reg3_eq (by simp only [bits, encVf, maj]; omega)
  have r1 : reg (encVf m f a.fmt 0 0 a.vs2 a.vs1 a.vd) 8 = a.vd := reg_eq (by simp only [bits, encVf, maj]; omega)
  have r2 : reg (encVf m f a.fmt 0 0 a.vs2 a.vs1 a.vd) 13 = a.vs1 := reg_eq (by simp only [bits, encVf, maj]; omega)
  have r3 : reg (encVf m f a.fmt 0 0 a.vs2 a.vs1 a.vd) 18 = a.vs2 := reg_eq (by simp only [bits, encVf, maj]; omega)
  simp [decSp, zero, b0, r0, r1, r2, r3]

/-- Layout Prune. -/
theorem rt_Prune {m f : Nat} (k : VPruneArgs → Instr) (a : VPruneArgs) (hm : m < 64) (hf : f < 4)
    (h : ∀ w, bits w 2 6 = m → bits w 30 2 = f → decode32 w = decPrune w k) : decode32 (encPrune m f a) = .ok (k a) := by
  rw [h _ (by simp only [bits, encPrune, encVf, maj]; omega) (by simp only [bits, encPrune, encVf, maj]; omega)]
  have b0 : bits (encPrune m f a) 18 9 = 0 := by simp only [bits, encPrune, encVf, maj]; omega
  have r0 : reg3 (encPrune m f a) 27 = a.fmt := reg3_eq (by simp only [bits, encPrune, encVf, maj]; omega)
  have r1 : reg (encPrune m f a) 8 = a.vd := reg_eq (by simp only [bits, encPrune, encVf, maj]; omega)
  have r2 : reg (encPrune m f a) 13 = a.vs := reg_eq (by simp only [bits, encPrune, encVf, maj]; omega)
  simp [decPrune, zero, b0, r0, r1, r2]

/-- Layout F3: funct4 2n and 2n + 1. -/
theorem rt_F3 {m n : Nat} (k : F3 → Instr) (a : F3) (hm : m < 64) (hf : n < 8)
    (h : ∀ w, bits w 2 6 = m → bits w 23 4 / 2 = n → decode32 w = decF3 w k) : decode32 (encF3 m n a) = .ok (k a) := by
  have := prec_lt a.p
  rw [h _ (by simp only [bits, encF3, encR, maj]; omega) (by simp only [bits, encF3, encR, maj]; omega)]
  have b0 : bits (encF3 m n a) 27 5 = 0 := by simp only [bits, encF3, encR, maj]; omega
  have b1 : bits (encF3 m n a) 23 1 = a.p.code := by simp only [bits, encF3, encR, maj]; omega
  have r0 : reg (encF3 m n a) 8 = a.rd := reg_eq (by simp only [bits, encF3, encR, maj]; omega)
  have r1 : reg (encF3 m n a) 13 = a.rs1 := reg_eq (by simp only [bits, encF3, encR, maj]; omega)
  have r2 : reg (encF3 m n a) 18 = a.rs2 := reg_eq (by simp only [bits, encF3, encR, maj]; omega)
  simp [decF3, zero, b0, b1, r0, r1, r2, prec_code]

/-- Layout F2: funct4 2n and 2n + 1. -/
theorem rt_F2 {m n : Nat} (k : F2 → Instr) (a : F2) (hm : m < 64) (hf : n < 8)
    (h : ∀ w, bits w 2 6 = m → bits w 23 4 / 2 = n → decode32 w = decF2 w k) : decode32 (encF2 m n a) = .ok (k a) := by
  have := prec_lt a.p
  rw [h _ (by simp only [bits, encF2, encR, maj]; omega) (by simp only [bits, encF2, encR, maj]; omega)]
  have b0 : bits (encF2 m n a) 27 5 = 0 := by simp only [bits, encF2, encR, maj]; omega
  have b1 : bits (encF2 m n a) 18 5 = 0 := by simp only [bits, encF2, encR, maj]; omega
  have b2 : bits (encF2 m n a) 23 1 = a.p.code := by simp only [bits, encF2, encR, maj]; omega
  have r0 : reg (encF2 m n a) 8 = a.rd := reg_eq (by simp only [bits, encF2, encR, maj]; omega)
  have r1 : reg (encF2 m n a) 13 = a.rs1 := reg_eq (by simp only [bits, encF2, encR, maj]; omega)
  simp [decF2, zero, b0, b1, b2, r0, r1, prec_code]

/-- Layout U. -/
theorem rt_U {m : Nat} (k : UArgs → Instr) (a : UArgs) (hm : m < 64) (h : ∀ w, bits w 2 6 = m → decode32 w = decU w k) :
    decode32 (encU m a) = .ok (k a) := by
  rw [h _ (by simp only [bits, encU, maj]; omega)]
  have b0 : bits (encU m a) 13 19 = a.imm.toNat := by simp only [bits, encU, maj]; omega
  have r0 : reg (encU m a) 8 = a.rd := reg_eq (by simp only [bits, encU, maj]; omega)
  simp [decU, b0, r0]

/-- Layout PWin of the function instructions. -/
theorem rt_PWin {f : Nat} (k : PWinArgs → Instr) (a : PWinArgs) (hf : f < 8)
    (h : ∀ w, bits w 2 6 = 45 → bits w 29 3 = f → decode32 w = decPWin w k) : decode32 (encPWin f a) = .ok (k a) := by
  have := gov_lt a.gov
  rw [h _ (by simp only [bits, encPWin, encP, maj]; omega) (by simp only [bits, encPWin, encP, maj]; omega)]
  have b0 : bits (encPWin f a) 27 2 = a.gov.code := by simp only [bits, encPWin, encP, maj]; omega
  have r0 : reg3 (encPWin f a) 8 = a.fd := reg3_eq (by simp only [bits, encPWin, encP, maj]; omega)
  have r1 : reg3 (encPWin f a) 11 = a.fs1 := reg3_eq (by simp only [bits, encPWin, encP, maj]; omega)
  have r2 : reg3 (encPWin f a) 14 = a.fs2 := reg3_eq (by simp only [bits, encPWin, encP, maj]; omega)
  have r3 : reg (encPWin f a) 17 = a.vs := reg_eq (by simp only [bits, encPWin, encP, maj]; omega)
  have r4 : reg (encPWin f a) 22 = a.xs := reg_eq (by simp only [bits, encPWin, encP, maj]; omega)
  simp [decPWin, b0, r0, r1, r2, r3, r4, gov_code]

/-- Layout PVec of the function instructions. -/
theorem rt_PVec {f : Nat} (k : PVecArgs → Instr) (a : PVecArgs) (hf : f < 8)
    (h : ∀ w, bits w 2 6 = 45 → bits w 29 3 = f → decode32 w = decPVec w k) : decode32 (encPVec f a) = .ok (k a) := by
  have := gov_lt a.gov
  rw [h _ (by simp only [bits, encPVec, encP, maj]; omega) (by simp only [bits, encPVec, encP, maj]; omega)]
  have b0 : bits (encPVec f a) 14 3 = 0 := by simp only [bits, encPVec, encP, maj]; omega
  have b1 : bits (encPVec f a) 8 3 = 0 := by simp only [bits, encPVec, encP, maj]; omega
  have b2 : bits (encPVec f a) 27 2 = a.gov.code := by simp only [bits, encPVec, encP, maj]; omega
  have r0 : reg3 (encPVec f a) 11 = a.fs1 := reg3_eq (by simp only [bits, encPVec, encP, maj]; omega)
  have r1 : reg (encPVec f a) 17 = a.vd := reg_eq (by simp only [bits, encPVec, encP, maj]; omega)
  have r2 : reg (encPVec f a) 22 = a.xs := reg_eq (by simp only [bits, encPVec, encP, maj]; omega)
  simp [decPVec, zero, b0, b1, b2, r0, r1, r2, gov_code]

/-- Layout P3 of the function instructions. -/
theorem rt_P3 {f c : Nat} (k : P3 → Instr) (a : P3) (hf : f < 8) (hc : c < 4)
    (h : ∀ w, bits w 2 6 = 44 → bits w 29 3 = f → bits w 27 2 = c → decode32 w = decP3 w k) : decode32 (encP3 f c a) = .ok (k a) := by
  rw [h _ (by simp only [bits, encP3, encP, maj]; omega) (by simp only [bits, encP3, encP, maj]; omega) (by simp only [bits, encP3, encP, maj]; omega)]
  have b0 : bits (encP3 f c a) 17 10 = 0 := by simp only [bits, encP3, encP, maj]; omega
  have r0 : reg3 (encP3 f c a) 8 = a.fd := reg3_eq (by simp only [bits, encP3, encP, maj]; omega)
  have r1 : reg3 (encP3 f c a) 11 = a.fs1 := reg3_eq (by simp only [bits, encP3, encP, maj]; omega)
  have r2 : reg3 (encP3 f c a) 14 = a.fs2 := reg3_eq (by simp only [bits, encP3, encP, maj]; omega)
  simp [decP3, zero, b0, r0, r1, r2]

/-- Layout Pd of the function instructions. -/
theorem rt_Pd {f c : Nat} (k : FReg → Reg → Instr) (d : FReg) (x : Reg) (hf : f < 8) (hc : c < 4)
    (h : ∀ w, bits w 2 6 = 45 → bits w 29 3 = f → bits w 27 2 = c → decode32 w = decPd w k) : decode32 (encP 0x2D f c x 0 0 0 d) = .ok (k d x) := by
  rw [h _ (by simp only [bits, encP, maj]; omega) (by simp only [bits, encP, maj]; omega) (by simp only [bits, encP, maj]; omega)]
  have b0 : bits (encP 0x2D f c x 0 0 0 d) 11 11 = 0 := by simp only [bits, encP, maj]; omega
  have r0 : reg3 (encP 0x2D f c x 0 0 0 d) 8 = d := reg3_eq (by simp only [bits, encP, maj]; omega)
  have r1 : reg (encP 0x2D f c x 0 0 0 d) 22 = x := reg_eq (by simp only [bits, encP, maj]; omega)
  simp [decPd, zero, b0, r0, r1]

/-- Layout Ps of the function instructions. -/
theorem rt_Ps {f c : Nat} (k : FReg → Reg → Instr) (d : FReg) (x : Reg) (hf : f < 8) (hc : c < 4)
    (h : ∀ w, bits w 2 6 = 45 → bits w 29 3 = f → bits w 27 2 = c → decode32 w = decPs w k) : decode32 (encP 0x2D f c x 0 0 d 0) = .ok (k d x) := by
  rw [h _ (by simp only [bits, encP, maj]; omega) (by simp only [bits, encP, maj]; omega) (by simp only [bits, encP, maj]; omega)]
  have b0 : bits (encP 0x2D f c x 0 0 d 0) 14 8 = 0 := by simp only [bits, encP, maj]; omega
  have b1 : bits (encP 0x2D f c x 0 0 d 0) 8 3 = 0 := by simp only [bits, encP, maj]; omega
  have r0 : reg3 (encP 0x2D f c x 0 0 d 0) 11 = d := reg3_eq (by simp only [bits, encP, maj]; omega)
  have r1 : reg (encP 0x2D f c x 0 0 d 0) 22 = x := reg_eq (by simp only [bits, encP, maj]; omega)
  simp [decPs, zero, b0, b1, r0, r1]

/-! The map of R286, major by major. -/

theorem major_00 {w : Nat} (h : bits w 2 6 = 0x00) : decode32 w = dec00 w (bits w 23 4) := by simp [decode32, h]
theorem major_01 {w : Nat} (h : bits w 2 6 = 0x01) : decode32 w = dec01 w (bits w 23 4) := by simp [decode32, h]
theorem major_02 {w : Nat} (h : bits w 2 6 = 0x02) : decode32 w = dec02 w (bits w 18 2) := by simp [decode32, h]
theorem major_03 {w : Nat} (h : bits w 2 6 = 0x03) : decode32 w = dec03 w (bits w 18 2) := by simp [decode32, h]
theorem major_04 {w : Nat} (h : bits w 2 6 = 0x04) : decode32 w = dec04 w (bits w 18 2) := by simp [decode32, h]
theorem major_05 {w : Nat} (h : bits w 2 6 = 0x05) : decode32 w = decU w .lui := by simp [decode32, h]
theorem major_06 {w : Nat} (h : bits w 2 6 = 0x06) : decode32 w = decU w .auipc := by simp [decode32, h]
theorem major_07 {w : Nat} (h : bits w 2 6 = 0x07) : decode32 w = decU w .jal := by simp [decode32, h]
theorem major_08 {w : Nat} (h : bits w 2 6 = 0x08) : decode32 w = dec08 w (bits w 23 3) := by simp [decode32, h]
theorem major_09 {w : Nat} (h : bits w 2 6 = 0x09) : decode32 w = dec09 w (bits w 23 3) := by simp [decode32, h]
theorem major_0A {w : Nat} (h : bits w 2 6 = 0x0A) : decode32 w = dec0A w := by simp [decode32, h]
theorem major_0B {w : Nat} (h : bits w 2 6 = 0x0B) : decode32 w = dec0B w := by simp [decode32, h]
theorem major_0C {w : Nat} (h : bits w 2 6 = 0x0C) : decode32 w = dec0C w := by simp [decode32, h]
theorem major_0D {w : Nat} (h : bits w 2 6 = 0x0D) : decode32 w = dec0D w (bits w 30 2) := by simp [decode32, h]
theorem major_0E {w : Nat} (h : bits w 2 6 = 0x0E) : decode32 w = dec0E w (bits w 30 2) := by simp [decode32, h]
theorem major_0F {w : Nat} (h : bits w 2 6 = 0x0F) : decode32 w = dec0F w (bits w 30 2) := by simp [decode32, h]
theorem major_10 {w : Nat} (h : bits w 2 6 = 0x10) : decode32 w = dec10 w (bits w 23 4) := by simp [decode32, h]
theorem major_11 {w : Nat} (h : bits w 2 6 = 0x11) : decode32 w = dec11 w (bits w 23 4) := by simp [decode32, h]
theorem major_12 {w : Nat} (h : bits w 2 6 = 0x12) : decode32 w = dec12 w (bits w 18 2) := by simp [decode32, h]
theorem major_13 {w : Nat} (h : bits w 2 6 = 0x13) : decode32 w = dec13 w (bits w 23 4) := by simp [decode32, h]
theorem major_14 {w : Nat} (h : bits w 2 6 = 0x14) : decode32 w = dec14 w (bits w 23 4) := by simp [decode32, h]
theorem major_15 {w : Nat} (h : bits w 2 6 = 0x15) : decode32 w = dec15 w (bits w 13 3) := by simp [decode32, h]
theorem major_20 {w : Nat} (h : bits w 2 6 = 0x20) : decode32 w = dec20 w (bits w 30 2) := by simp [decode32, h]
theorem major_21 {w : Nat} (h : bits w 2 6 = 0x21) : decode32 w = dec21 w (bits w 30 2) := by simp [decode32, h]
theorem major_22 {w : Nat} (h : bits w 2 6 = 0x22) : decode32 w = dec22 w (bits w 30 2) := by simp [decode32, h]
theorem major_24 {w : Nat} (h : bits w 2 6 = 0x24) : decode32 w = dec24 w (bits w 30 2) := by simp [decode32, h]
theorem major_25 {w : Nat} (h : bits w 2 6 = 0x25) : decode32 w = dec25 w (bits w 30 2) := by simp [decode32, h]
theorem major_26 {w : Nat} (h : bits w 2 6 = 0x26) : decode32 w = dec26 w (bits w 30 2) := by simp [decode32, h]
theorem major_27 {w : Nat} (h : bits w 2 6 = 0x27) : decode32 w = dec27 w (bits w 30 2) := by simp [decode32, h]
theorem major_28 {w : Nat} (h : bits w 2 6 = 0x28) : decode32 w = dec28 w (bits w 30 2) := by simp [decode32, h]
theorem major_29 {w : Nat} (h : bits w 2 6 = 0x29) : decode32 w = dec29 w (bits w 30 2) := by simp [decode32, h]
theorem major_2A {w : Nat} (h : bits w 2 6 = 0x2A) : decode32 w = dec2A w (bits w 30 2) := by simp [decode32, h]
theorem major_2B {w : Nat} (h : bits w 2 6 = 0x2B) : decode32 w = dec2B w := by simp [decode32, h]
theorem major_2C {w : Nat} (h : bits w 2 6 = 0x2C) : decode32 w = dec2C w (bits w 29 3) := by simp [decode32, h]
theorem major_2D {w : Nat} (h : bits w 2 6 = 0x2D) : decode32 w = dec2D w (bits w 29 3) := by simp [decode32, h]
theorem major_30 {w : Nat} (h : bits w 2 6 = 0x30) : decode32 w = dec30 w (bits w 30 2) := by simp [decode32, h]
theorem major_31 {w : Nat} (h : bits w 2 6 = 0x31) : decode32 w = dec31 w (bits w 30 2) := by simp [decode32, h]
theorem major_32 {w : Nat} (h : bits w 2 6 = 0x32) : decode32 w = dec32m w (bits w 30 2) := by simp [decode32, h]
theorem major_33 {w : Nat} (h : bits w 2 6 = 0x33) : decode32 w = dec33 w (bits w 30 2) := by simp [decode32, h]
theorem major_34 {w : Nat} (h : bits w 2 6 = 0x34) : decode32 w = dec34 w (bits w 30 2) := by simp [decode32, h]
theorem major_35 {w : Nat} (h : bits w 2 6 = 0x35) : decode32 w = dec35 w (bits w 30 2) := by simp [decode32, h]
theorem major_36 {w : Nat} (h : bits w 2 6 = 0x36) : decode32 w = dec36 w (bits w 30 2) := by simp [decode32, h]
theorem major_37 {w : Nat} (h : bits w 2 6 = 0x37) : decode32 w = dec37 w (bits w 30 2) := by simp [decode32, h]
theorem major_38 {w : Nat} (h : bits w 2 6 = 0x38) : decode32 w = dec38 w (bits w 30 2) := by simp [decode32, h]
theorem major_39 {w : Nat} (h : bits w 2 6 = 0x39) : decode32 w = dec39 w (bits w 30 2) := by simp [decode32, h]

end Sys2Proof.Laws
end

