-- ==== Sys2Proof/Laws/State.lean ====
section
/-! SUPPORT. What each update of the state leaves alone, one lemma for each field. -/

namespace Sys2Proof.Laws

open Sys2Proof.Machine

/-- The slice in turn is one of the two. -/
theorem setCur_eq (s : State) (c : Slice) : s.setCur c = { s with strand := { s.strand with
    acc := if s.side = .access then c else s.strand.acc, cmp := if s.side = .access then s.strand.cmp else c } } := by
  unfold State.setCur; split <;> rfl

/-- The bank in turn is one of the three. -/
theorem setBank_eq (s : State) (b : Vector Word 32) : s.setBank b = { s with strand := { s.strand with regs :=
    { user := if s.side = .compute ∨ s.strand.trap.priv = true then s.strand.regs.user else b
      super := if s.side = .compute then s.strand.regs.super else if s.strand.trap.priv then b else s.strand.regs.super
      comp := if s.side = .compute then b else s.strand.regs.comp } } } := by
  unfold State.setBank
  by_cases h : s.side = .compute
  · simp [h]
  · by_cases h' : s.strand.trap.priv = true <;> simp [h, h']

@[simp] theorem setCur_others (s : State) (c : Slice) : (s.setCur c).others = s.others := by rw [setCur_eq]
@[simp] theorem setCur_gangs (s : State) (c : Slice) : (s.setCur c).gangs = s.gangs := by rw [setCur_eq]
@[simp] theorem setCur_squads (s : State) (c : Slice) : (s.setCur c).squads = s.squads := by rw [setCur_eq]
@[simp] theorem setCur_launches (s : State) (c : Slice) : (s.setCur c).launches = s.launches := by rw [setCur_eq]
@[simp] theorem setCur_mem (s : State) (c : Slice) : (s.setCur c).mem = s.mem := by rw [setCur_eq]
@[simp] theorem setCur_bad (s : State) (c : Slice) : (s.setCur c).bad = s.bad := by rw [setCur_eq]
@[simp] theorem setCur_tlb (s : State) (c : Slice) : (s.setCur c).tlb = s.tlb := by rw [setCur_eq]
@[simp] theorem setCur_l2 (s : State) (c : Slice) : (s.setCur c).l2 = s.l2 := by rw [setCur_eq]
@[simp] theorem setCur_reqs (s : State) (c : Slice) : (s.setCur c).reqs = s.reqs := by rw [setCur_eq]
@[simp] theorem setCur_reqNext (s : State) (c : Slice) : (s.setCur c).reqNext = s.reqNext := by rw [setCur_eq]
@[simp] theorem setCur_hostOut (s : State) (c : Slice) : (s.setCur c).hostOut = s.hostOut := by rw [setCur_eq]
@[simp] theorem setCur_engines (s : State) (c : Slice) : (s.setCur c).engines = s.engines := by rw [setCur_eq]
@[simp] theorem setCur_det (s : State) (c : Slice) : (s.setCur c).det = s.det := by rw [setCur_eq]
@[simp] theorem setCur_power (s : State) (c : Slice) : (s.setCur c).power = s.power := by rw [setCur_eq]
@[simp] theorem setCur_hub (s : State) (c : Slice) : (s.setCur c).hub = s.hub := by rw [setCur_eq]
@[simp] theorem setCur_fab (s : State) (c : Slice) : (s.setCur c).fab = s.fab := by rw [setCur_eq]
@[simp] theorem setCur_side (s : State) (c : Slice) : (s.setCur c).side = s.side := by rw [setCur_eq]
@[simp] theorem setCur_agenda (s : State) (c : Slice) : (s.setCur c).agenda = s.agenda := by rw [setCur_eq]
@[simp] theorem setCur_delays (s : State) (c : Slice) : (s.setCur c).delays = s.delays := by rw [setCur_eq]
@[simp] theorem setCur_fresh (s : State) (c : Slice) : (s.setCur c).fresh = s.fresh := by rw [setCur_eq]
@[simp] theorem setCur_stamp (s : State) (c : Slice) : (s.setCur c).stamp = s.stamp := by rw [setCur_eq]
@[simp] theorem setCur_stops (s : State) (c : Slice) : (s.setCur c).stops = s.stops := by rw [setCur_eq]
@[simp] theorem setCur_strand_id (s : State) (c : Slice) : (s.setCur c).strand.id = s.strand.id := by rw [setCur_eq]
@[simp] theorem setCur_strand_vec (s : State) (c : Slice) : (s.setCur c).strand.vec = s.strand.vec := by rw [setCur_eq]
@[simp] theorem setCur_strand_q (s : State) (c : Slice) : (s.setCur c).strand.q = s.strand.q := by rw [setCur_eq]
@[simp] theorem setCur_strand_sys (s : State) (c : Slice) : (s.setCur c).strand.sys = s.strand.sys := by rw [setCur_eq]
@[simp] theorem setCur_strand_trap (s : State) (c : Slice) : (s.setCur c).strand.trap = s.strand.trap := by rw [setCur_eq]
@[simp] theorem setCur_strand_stores (s : State) (c : Slice) : (s.setCur c).strand.stores = s.strand.stores := by rw [setCur_eq]
@[simp] theorem setCur_strand_issued (s : State) (c : Slice) : (s.setCur c).strand.issued = s.strand.issued := by rw [setCur_eq]
@[simp] theorem setCur_strand_lost (s : State) (c : Slice) : (s.setCur c).strand.lost = s.strand.lost := by rw [setCur_eq]
@[simp] theorem setCur_strand_regs (s : State) (c : Slice) : (s.setCur c).strand.regs = s.strand.regs := by rw [setCur_eq]
@[simp] theorem setBank_others (s : State) (b : Vector Word 32) : (s.setBank b).others = s.others := by rw [setBank_eq]
@[simp] theorem setBank_gangs (s : State) (b : Vector Word 32) : (s.setBank b).gangs = s.gangs := by rw [setBank_eq]
@[simp] theorem setBank_squads (s : State) (b : Vector Word 32) : (s.setBank b).squads = s.squads := by rw [setBank_eq]
@[simp] theorem setBank_launches (s : State) (b : Vector Word 32) : (s.setBank b).launches = s.launches := by rw [setBank_eq]
@[simp] theorem setBank_mem (s : State) (b : Vector Word 32) : (s.setBank b).mem = s.mem := by rw [setBank_eq]
@[simp] theorem setBank_bad (s : State) (b : Vector Word 32) : (s.setBank b).bad = s.bad := by rw [setBank_eq]
@[simp] theorem setBank_tlb (s : State) (b : Vector Word 32) : (s.setBank b).tlb = s.tlb := by rw [setBank_eq]
@[simp] theorem setBank_l2 (s : State) (b : Vector Word 32) : (s.setBank b).l2 = s.l2 := by rw [setBank_eq]
@[simp] theorem setBank_reqs (s : State) (b : Vector Word 32) : (s.setBank b).reqs = s.reqs := by rw [setBank_eq]
@[simp] theorem setBank_reqNext (s : State) (b : Vector Word 32) : (s.setBank b).reqNext = s.reqNext := by rw [setBank_eq]
@[simp] theorem setBank_hostOut (s : State) (b : Vector Word 32) : (s.setBank b).hostOut = s.hostOut := by rw [setBank_eq]
@[simp] theorem setBank_engines (s : State) (b : Vector Word 32) : (s.setBank b).engines = s.engines := by rw [setBank_eq]
@[simp] theorem setBank_det (s : State) (b : Vector Word 32) : (s.setBank b).det = s.det := by rw [setBank_eq]
@[simp] theorem setBank_power (s : State) (b : Vector Word 32) : (s.setBank b).power = s.power := by rw [setBank_eq]
@[simp] theorem setBank_hub (s : State) (b : Vector Word 32) : (s.setBank b).hub = s.hub := by rw [setBank_eq]
@[simp] theorem setBank_fab (s : State) (b : Vector Word 32) : (s.setBank b).fab = s.fab := by rw [setBank_eq]
@[simp] theorem setBank_side (s : State) (b : Vector Word 32) : (s.setBank b).side = s.side := by rw [setBank_eq]
@[simp] theorem setBank_agenda (s : State) (b : Vector Word 32) : (s.setBank b).agenda = s.agenda := by rw [setBank_eq]
@[simp] theorem setBank_delays (s : State) (b : Vector Word 32) : (s.setBank b).delays = s.delays := by rw [setBank_eq]
@[simp] theorem setBank_fresh (s : State) (b : Vector Word 32) : (s.setBank b).fresh = s.fresh := by rw [setBank_eq]
@[simp] theorem setBank_stamp (s : State) (b : Vector Word 32) : (s.setBank b).stamp = s.stamp := by rw [setBank_eq]
@[simp] theorem setBank_stops (s : State) (b : Vector Word 32) : (s.setBank b).stops = s.stops := by rw [setBank_eq]
@[simp] theorem setBank_strand_id (s : State) (b : Vector Word 32) : (s.setBank b).strand.id = s.strand.id := by rw [setBank_eq]
@[simp] theorem setBank_strand_vec (s : State) (b : Vector Word 32) : (s.setBank b).strand.vec = s.strand.vec := by rw [setBank_eq]
@[simp] theorem setBank_strand_q (s : State) (b : Vector Word 32) : (s.setBank b).strand.q = s.strand.q := by rw [setBank_eq]
@[simp] theorem setBank_strand_sys (s : State) (b : Vector Word 32) : (s.setBank b).strand.sys = s.strand.sys := by rw [setBank_eq]
@[simp] theorem setBank_strand_trap (s : State) (b : Vector Word 32) : (s.setBank b).strand.trap = s.strand.trap := by rw [setBank_eq]
@[simp] theorem setBank_strand_stores (s : State) (b : Vector Word 32) : (s.setBank b).strand.stores = s.strand.stores := by rw [setBank_eq]
@[simp] theorem setBank_strand_issued (s : State) (b : Vector Word 32) : (s.setBank b).strand.issued = s.strand.issued := by rw [setBank_eq]
@[simp] theorem setBank_strand_lost (s : State) (b : Vector Word 32) : (s.setBank b).strand.lost = s.strand.lost := by rw [setBank_eq]
@[simp] theorem setBank_strand_acc (s : State) (b : Vector Word 32) : (s.setBank b).strand.acc = s.strand.acc := by rw [setBank_eq]
@[simp] theorem setBank_strand_cmp (s : State) (b : Vector Word 32) : (s.setBank b).strand.cmp = s.strand.cmp := by rw [setBank_eq]
@[simp] theorem setX_others (s : State) (r : Reg) (v : Word) : (s.setX r v).others = s.others := by unfold State.setX; split <;> simp
@[simp] theorem setX_gangs (s : State) (r : Reg) (v : Word) : (s.setX r v).gangs = s.gangs := by unfold State.setX; split <;> simp
@[simp] theorem setX_squads (s : State) (r : Reg) (v : Word) : (s.setX r v).squads = s.squads := by unfold State.setX; split <;> simp
@[simp] theorem setX_launches (s : State) (r : Reg) (v : Word) : (s.setX r v).launches = s.launches := by unfold State.setX; split <;> simp
@[simp] theorem setX_mem (s : State) (r : Reg) (v : Word) : (s.setX r v).mem = s.mem := by unfold State.setX; split <;> simp
@[simp] theorem setX_bad (s : State) (r : Reg) (v : Word) : (s.setX r v).bad = s.bad := by unfold State.setX; split <;> simp
@[simp] theorem setX_tlb (s : State) (r : Reg) (v : Word) : (s.setX r v).tlb = s.tlb := by unfold State.setX; split <;> simp
@[simp] theorem setX_l2 (s : State) (r : Reg) (v : Word) : (s.setX r v).l2 = s.l2 := by unfold State.setX; split <;> simp
@[simp] theorem setX_reqs (s : State) (r : Reg) (v : Word) : (s.setX r v).reqs = s.reqs := by unfold State.setX; split <;> simp
@[simp] theorem setX_reqNext (s : State) (r : Reg) (v : Word) : (s.setX r v).reqNext = s.reqNext := by unfold State.setX; split <;> simp
@[simp] theorem setX_hostOut (s : State) (r : Reg) (v : Word) : (s.setX r v).hostOut = s.hostOut := by unfold State.setX; split <;> simp
@[simp] theorem setX_engines (s : State) (r : Reg) (v : Word) : (s.setX r v).engines = s.engines := by unfold State.setX; split <;> simp
@[simp] theorem setX_det (s : State) (r : Reg) (v : Word) : (s.setX r v).det = s.det := by unfold State.setX; split <;> simp
@[simp] theorem setX_power (s : State) (r : Reg) (v : Word) : (s.setX r v).power = s.power := by unfold State.setX; split <;> simp
@[simp] theorem setX_hub (s : State) (r : Reg) (v : Word) : (s.setX r v).hub = s.hub := by unfold State.setX; split <;> simp
@[simp] theorem setX_fab (s : State) (r : Reg) (v : Word) : (s.setX r v).fab = s.fab := by unfold State.setX; split <;> simp
@[simp] theorem setX_side (s : State) (r : Reg) (v : Word) : (s.setX r v).side = s.side := by unfold State.setX; split <;> simp
@[simp] theorem setX_agenda (s : State) (r : Reg) (v : Word) : (s.setX r v).agenda = s.agenda := by unfold State.setX; split <;> simp
@[simp] theorem setX_delays (s : State) (r : Reg) (v : Word) : (s.setX r v).delays = s.delays := by unfold State.setX; split <;> simp
@[simp] theorem setX_fresh (s : State) (r : Reg) (v : Word) : (s.setX r v).fresh = s.fresh := by unfold State.setX; split <;> simp
@[simp] theorem setX_stamp (s : State) (r : Reg) (v : Word) : (s.setX r v).stamp = s.stamp := by unfold State.setX; split <;> simp
@[simp] theorem setX_stops (s : State) (r : Reg) (v : Word) : (s.setX r v).stops = s.stops := by unfold State.setX; split <;> simp
@[simp] theorem setX_strand_id (s : State) (r : Reg) (v : Word) : (s.setX r v).strand.id = s.strand.id := by unfold State.setX; split <;> simp
@[simp] theorem setX_strand_vec (s : State) (r : Reg) (v : Word) : (s.setX r v).strand.vec = s.strand.vec := by unfold State.setX; split <;> simp
@[simp] theorem setX_strand_q (s : State) (r : Reg) (v : Word) : (s.setX r v).strand.q = s.strand.q := by unfold State.setX; split <;> simp
@[simp] theorem setX_strand_sys (s : State) (r : Reg) (v : Word) : (s.setX r v).strand.sys = s.strand.sys := by unfold State.setX; split <;> simp
@[simp] theorem setX_strand_trap (s : State) (r : Reg) (v : Word) : (s.setX r v).strand.trap = s.strand.trap := by unfold State.setX; split <;> simp
@[simp] theorem setX_strand_stores (s : State) (r : Reg) (v : Word) : (s.setX r v).strand.stores = s.strand.stores := by unfold State.setX; split <;> simp
@[simp] theorem setX_strand_issued (s : State) (r : Reg) (v : Word) : (s.setX r v).strand.issued = s.strand.issued := by unfold State.setX; split <;> simp
@[simp] theorem setX_strand_lost (s : State) (r : Reg) (v : Word) : (s.setX r v).strand.lost = s.strand.lost := by unfold State.setX; split <;> simp
@[simp] theorem setX_strand_acc (s : State) (r : Reg) (v : Word) : (s.setX r v).strand.acc = s.strand.acc := by unfold State.setX; split <;> simp
@[simp] theorem setX_strand_cmp (s : State) (r : Reg) (v : Word) : (s.setX r v).strand.cmp = s.strand.cmp := by unfold State.setX; split <;> simp
@[simp] theorem goto_others (s : State) (pc : Word) : (s.goto pc).others = s.others := setCur_others _ _
@[simp] theorem goto_gangs (s : State) (pc : Word) : (s.goto pc).gangs = s.gangs := setCur_gangs _ _
@[simp] theorem goto_squads (s : State) (pc : Word) : (s.goto pc).squads = s.squads := setCur_squads _ _
@[simp] theorem goto_launches (s : State) (pc : Word) : (s.goto pc).launches = s.launches := setCur_launches _ _
@[simp] theorem goto_mem (s : State) (pc : Word) : (s.goto pc).mem = s.mem := setCur_mem _ _
@[simp] theorem goto_bad (s : State) (pc : Word) : (s.goto pc).bad = s.bad := setCur_bad _ _
@[simp] theorem goto_tlb (s : State) (pc : Word) : (s.goto pc).tlb = s.tlb := setCur_tlb _ _
@[simp] theorem goto_l2 (s : State) (pc : Word) : (s.goto pc).l2 = s.l2 := setCur_l2 _ _
@[simp] theorem goto_reqs (s : State) (pc : Word) : (s.goto pc).reqs = s.reqs := setCur_reqs _ _
@[simp] theorem goto_reqNext (s : State) (pc : Word) : (s.goto pc).reqNext = s.reqNext := setCur_reqNext _ _
@[simp] theorem goto_hostOut (s : State) (pc : Word) : (s.goto pc).hostOut = s.hostOut := setCur_hostOut _ _
@[simp] theorem goto_engines (s : State) (pc : Word) : (s.goto pc).engines = s.engines := setCur_engines _ _
@[simp] theorem goto_det (s : State) (pc : Word) : (s.goto pc).det = s.det := setCur_det _ _
@[simp] theorem goto_power (s : State) (pc : Word) : (s.goto pc).power = s.power := setCur_power _ _
@[simp] theorem goto_hub (s : State) (pc : Word) : (s.goto pc).hub = s.hub := setCur_hub _ _
@[simp] theorem goto_fab (s : State) (pc : Word) : (s.goto pc).fab = s.fab := setCur_fab _ _
@[simp] theorem goto_side (s : State) (pc : Word) : (s.goto pc).side = s.side := setCur_side _ _
@[simp] theorem goto_agenda (s : State) (pc : Word) : (s.goto pc).agenda = s.agenda := setCur_agenda _ _
@[simp] theorem goto_delays (s : State) (pc : Word) : (s.goto pc).delays = s.delays := setCur_delays _ _
@[simp] theorem goto_fresh (s : State) (pc : Word) : (s.goto pc).fresh = s.fresh := setCur_fresh _ _
@[simp] theorem goto_stamp (s : State) (pc : Word) : (s.goto pc).stamp = s.stamp := setCur_stamp _ _
@[simp] theorem goto_stops (s : State) (pc : Word) : (s.goto pc).stops = s.stops := setCur_stops _ _
@[simp] theorem goto_strand_id (s : State) (pc : Word) : (s.goto pc).strand.id = s.strand.id := setCur_strand_id _ _
@[simp] theorem goto_strand_vec (s : State) (pc : Word) : (s.goto pc).strand.vec = s.strand.vec := setCur_strand_vec _ _
@[simp] theorem goto_strand_q (s : State) (pc : Word) : (s.goto pc).strand.q = s.strand.q := setCur_strand_q _ _
@[simp] theorem goto_strand_sys (s : State) (pc : Word) : (s.goto pc).strand.sys = s.strand.sys := setCur_strand_sys _ _
@[simp] theorem goto_strand_trap (s : State) (pc : Word) : (s.goto pc).strand.trap = s.strand.trap := setCur_strand_trap _ _
@[simp] theorem goto_strand_stores (s : State) (pc : Word) : (s.goto pc).strand.stores = s.strand.stores := setCur_strand_stores _ _
@[simp] theorem goto_strand_issued (s : State) (pc : Word) : (s.goto pc).strand.issued = s.strand.issued := setCur_strand_issued _ _
@[simp] theorem goto_strand_lost (s : State) (pc : Word) : (s.goto pc).strand.lost = s.strand.lost := setCur_strand_lost _ _
@[simp] theorem goto_strand_regs (s : State) (pc : Word) : (s.goto pc).strand.regs = s.strand.regs := setCur_strand_regs _ _
@[simp] theorem advance_others (s : State) (n : Nat) : (s.advance n).others = s.others := setCur_others _ _
@[simp] theorem advance_gangs (s : State) (n : Nat) : (s.advance n).gangs = s.gangs := setCur_gangs _ _
@[simp] theorem advance_squads (s : State) (n : Nat) : (s.advance n).squads = s.squads := setCur_squads _ _
@[simp] theorem advance_launches (s : State) (n : Nat) : (s.advance n).launches = s.launches := setCur_launches _ _
@[simp] theorem advance_mem (s : State) (n : Nat) : (s.advance n).mem = s.mem := setCur_mem _ _
@[simp] theorem advance_bad (s : State) (n : Nat) : (s.advance n).bad = s.bad := setCur_bad _ _
@[simp] theorem advance_tlb (s : State) (n : Nat) : (s.advance n).tlb = s.tlb := setCur_tlb _ _
@[simp] theorem advance_l2 (s : State) (n : Nat) : (s.advance n).l2 = s.l2 := setCur_l2 _ _
@[simp] theorem advance_reqs (s : State) (n : Nat) : (s.advance n).reqs = s.reqs := setCur_reqs _ _
@[simp] theorem advance_reqNext (s : State) (n : Nat) : (s.advance n).reqNext = s.reqNext := setCur_reqNext _ _
@[simp] theorem advance_hostOut (s : State) (n : Nat) : (s.advance n).hostOut = s.hostOut := setCur_hostOut _ _
@[simp] theorem advance_engines (s : State) (n : Nat) : (s.advance n).engines = s.engines := setCur_engines _ _
@[simp] theorem advance_det (s : State) (n : Nat) : (s.advance n).det = s.det := setCur_det _ _
@[simp] theorem advance_power (s : State) (n : Nat) : (s.advance n).power = s.power := setCur_power _ _
@[simp] theorem advance_hub (s : State) (n : Nat) : (s.advance n).hub = s.hub := setCur_hub _ _
@[simp] theorem advance_fab (s : State) (n : Nat) : (s.advance n).fab = s.fab := setCur_fab _ _
@[simp] theorem advance_side (s : State) (n : Nat) : (s.advance n).side = s.side := setCur_side _ _
@[simp] theorem advance_agenda (s : State) (n : Nat) : (s.advance n).agenda = s.agenda := setCur_agenda _ _
@[simp] theorem advance_delays (s : State) (n : Nat) : (s.advance n).delays = s.delays := setCur_delays _ _
@[simp] theorem advance_fresh (s : State) (n : Nat) : (s.advance n).fresh = s.fresh := setCur_fresh _ _
@[simp] theorem advance_stamp (s : State) (n : Nat) : (s.advance n).stamp = s.stamp := setCur_stamp _ _
@[simp] theorem advance_stops (s : State) (n : Nat) : (s.advance n).stops = s.stops := setCur_stops _ _
@[simp] theorem advance_strand_id (s : State) (n : Nat) : (s.advance n).strand.id = s.strand.id := setCur_strand_id _ _
@[simp] theorem advance_strand_vec (s : State) (n : Nat) : (s.advance n).strand.vec = s.strand.vec := setCur_strand_vec _ _
@[simp] theorem advance_strand_q (s : State) (n : Nat) : (s.advance n).strand.q = s.strand.q := setCur_strand_q _ _
@[simp] theorem advance_strand_sys (s : State) (n : Nat) : (s.advance n).strand.sys = s.strand.sys := setCur_strand_sys _ _
@[simp] theorem advance_strand_trap (s : State) (n : Nat) : (s.advance n).strand.trap = s.strand.trap := setCur_strand_trap _ _
@[simp] theorem advance_strand_stores (s : State) (n : Nat) : (s.advance n).strand.stores = s.strand.stores := setCur_strand_stores _ _
@[simp] theorem advance_strand_issued (s : State) (n : Nat) : (s.advance n).strand.issued = s.strand.issued := setCur_strand_issued _ _
@[simp] theorem advance_strand_lost (s : State) (n : Nat) : (s.advance n).strand.lost = s.strand.lost := setCur_strand_lost _ _
@[simp] theorem advance_strand_regs (s : State) (n : Nat) : (s.advance n).strand.regs = s.strand.regs := setCur_strand_regs _ _
@[simp] theorem wait_others (s : State) (w : Stall) : (s.wait w).others = s.others := setCur_others _ _
@[simp] theorem wait_gangs (s : State) (w : Stall) : (s.wait w).gangs = s.gangs := setCur_gangs _ _
@[simp] theorem wait_squads (s : State) (w : Stall) : (s.wait w).squads = s.squads := setCur_squads _ _
@[simp] theorem wait_launches (s : State) (w : Stall) : (s.wait w).launches = s.launches := setCur_launches _ _
@[simp] theorem wait_mem (s : State) (w : Stall) : (s.wait w).mem = s.mem := setCur_mem _ _
@[simp] theorem wait_bad (s : State) (w : Stall) : (s.wait w).bad = s.bad := setCur_bad _ _
@[simp] theorem wait_tlb (s : State) (w : Stall) : (s.wait w).tlb = s.tlb := setCur_tlb _ _
@[simp] theorem wait_l2 (s : State) (w : Stall) : (s.wait w).l2 = s.l2 := setCur_l2 _ _
@[simp] theorem wait_reqs (s : State) (w : Stall) : (s.wait w).reqs = s.reqs := setCur_reqs _ _
@[simp] theorem wait_reqNext (s : State) (w : Stall) : (s.wait w).reqNext = s.reqNext := setCur_reqNext _ _
@[simp] theorem wait_hostOut (s : State) (w : Stall) : (s.wait w).hostOut = s.hostOut := setCur_hostOut _ _
@[simp] theorem wait_engines (s : State) (w : Stall) : (s.wait w).engines = s.engines := setCur_engines _ _
@[simp] theorem wait_det (s : State) (w : Stall) : (s.wait w).det = s.det := setCur_det _ _
@[simp] theorem wait_power (s : State) (w : Stall) : (s.wait w).power = s.power := setCur_power _ _
@[simp] theorem wait_hub (s : State) (w : Stall) : (s.wait w).hub = s.hub := setCur_hub _ _
@[simp] theorem wait_fab (s : State) (w : Stall) : (s.wait w).fab = s.fab := setCur_fab _ _
@[simp] theorem wait_side (s : State) (w : Stall) : (s.wait w).side = s.side := setCur_side _ _
@[simp] theorem wait_agenda (s : State) (w : Stall) : (s.wait w).agenda = s.agenda := setCur_agenda _ _
@[simp] theorem wait_delays (s : State) (w : Stall) : (s.wait w).delays = s.delays := setCur_delays _ _
@[simp] theorem wait_fresh (s : State) (w : Stall) : (s.wait w).fresh = s.fresh := setCur_fresh _ _
@[simp] theorem wait_stamp (s : State) (w : Stall) : (s.wait w).stamp = s.stamp := setCur_stamp _ _
@[simp] theorem wait_stops (s : State) (w : Stall) : (s.wait w).stops = s.stops := setCur_stops _ _
@[simp] theorem wait_strand_id (s : State) (w : Stall) : (s.wait w).strand.id = s.strand.id := setCur_strand_id _ _
@[simp] theorem wait_strand_vec (s : State) (w : Stall) : (s.wait w).strand.vec = s.strand.vec := setCur_strand_vec _ _
@[simp] theorem wait_strand_q (s : State) (w : Stall) : (s.wait w).strand.q = s.strand.q := setCur_strand_q _ _
@[simp] theorem wait_strand_sys (s : State) (w : Stall) : (s.wait w).strand.sys = s.strand.sys := setCur_strand_sys _ _
@[simp] theorem wait_strand_trap (s : State) (w : Stall) : (s.wait w).strand.trap = s.strand.trap := setCur_strand_trap _ _
@[simp] theorem wait_strand_stores (s : State) (w : Stall) : (s.wait w).strand.stores = s.strand.stores := setCur_strand_stores _ _
@[simp] theorem wait_strand_issued (s : State) (w : Stall) : (s.wait w).strand.issued = s.strand.issued := setCur_strand_issued _ _
@[simp] theorem wait_strand_lost (s : State) (w : Stall) : (s.wait w).strand.lost = s.strand.lost := setCur_strand_lost _ _
@[simp] theorem wait_strand_regs (s : State) (w : Stall) : (s.wait w).strand.regs = s.strand.regs := setCur_strand_regs _ _
@[simp] theorem result_others (s : State) (r : Reg) (v : Word) (n : Nat) : (s.result r v n).others = s.others := by simp [State.result]
@[simp] theorem result_gangs (s : State) (r : Reg) (v : Word) (n : Nat) : (s.result r v n).gangs = s.gangs := by simp [State.result]
@[simp] theorem result_squads (s : State) (r : Reg) (v : Word) (n : Nat) : (s.result r v n).squads = s.squads := by simp [State.result]
@[simp] theorem result_launches (s : State) (r : Reg) (v : Word) (n : Nat) : (s.result r v n).launches = s.launches := by simp [State.result]
@[simp] theorem result_mem (s : State) (r : Reg) (v : Word) (n : Nat) : (s.result r v n).mem = s.mem := by simp [State.result]
@[simp] theorem result_bad (s : State) (r : Reg) (v : Word) (n : Nat) : (s.result r v n).bad = s.bad := by simp [State.result]
@[simp] theorem result_tlb (s : State) (r : Reg) (v : Word) (n : Nat) : (s.result r v n).tlb = s.tlb := by simp [State.result]
@[simp] theorem result_l2 (s : State) (r : Reg) (v : Word) (n : Nat) : (s.result r v n).l2 = s.l2 := by simp [State.result]
@[simp] theorem result_reqs (s : State) (r : Reg) (v : Word) (n : Nat) : (s.result r v n).reqs = s.reqs := by simp [State.result]
@[simp] theorem result_reqNext (s : State) (r : Reg) (v : Word) (n : Nat) : (s.result r v n).reqNext = s.reqNext := by simp [State.result]
@[simp] theorem result_hostOut (s : State) (r : Reg) (v : Word) (n : Nat) : (s.result r v n).hostOut = s.hostOut := by simp [State.result]
@[simp] theorem result_engines (s : State) (r : Reg) (v : Word) (n : Nat) : (s.result r v n).engines = s.engines := by simp [State.result]
@[simp] theorem result_det (s : State) (r : Reg) (v : Word) (n : Nat) : (s.result r v n).det = s.det := by simp [State.result]
@[simp] theorem result_power (s : State) (r : Reg) (v : Word) (n : Nat) : (s.result r v n).power = s.power := by simp [State.result]
@[simp] theorem result_hub (s : State) (r : Reg) (v : Word) (n : Nat) : (s.result r v n).hub = s.hub := by simp [State.result]
@[simp] theorem result_fab (s : State) (r : Reg) (v : Word) (n : Nat) : (s.result r v n).fab = s.fab := by simp [State.result]
@[simp] theorem result_side (s : State) (r : Reg) (v : Word) (n : Nat) : (s.result r v n).side = s.side := by simp [State.result]
@[simp] theorem result_agenda (s : State) (r : Reg) (v : Word) (n : Nat) : (s.result r v n).agenda = s.agenda := by simp [State.result]
@[simp] theorem result_delays (s : State) (r : Reg) (v : Word) (n : Nat) : (s.result r v n).delays = s.delays := by simp [State.result]
@[simp] theorem result_fresh (s : State) (r : Reg) (v : Word) (n : Nat) : (s.result r v n).fresh = s.fresh := by simp [State.result]
@[simp] theorem result_stamp (s : State) (r : Reg) (v : Word) (n : Nat) : (s.result r v n).stamp = s.stamp := by simp [State.result]
@[simp] theorem result_stops (s : State) (r : Reg) (v : Word) (n : Nat) : (s.result r v n).stops = s.stops := by simp [State.result]
@[simp] theorem result_strand_id (s : State) (r : Reg) (v : Word) (n : Nat) : (s.result r v n).strand.id = s.strand.id := by simp [State.result]
@[simp] theorem result_strand_vec (s : State) (r : Reg) (v : Word) (n : Nat) : (s.result r v n).strand.vec = s.strand.vec := by simp [State.result]
@[simp] theorem result_strand_q (s : State) (r : Reg) (v : Word) (n : Nat) : (s.result r v n).strand.q = s.strand.q := by simp [State.result]
@[simp] theorem result_strand_sys (s : State) (r : Reg) (v : Word) (n : Nat) : (s.result r v n).strand.sys = s.strand.sys := by simp [State.result]
@[simp] theorem result_strand_trap (s : State) (r : Reg) (v : Word) (n : Nat) : (s.result r v n).strand.trap = s.strand.trap := by simp [State.result]
@[simp] theorem result_strand_stores (s : State) (r : Reg) (v : Word) (n : Nat) : (s.result r v n).strand.stores = s.strand.stores := by simp [State.result]
@[simp] theorem result_strand_issued (s : State) (r : Reg) (v : Word) (n : Nat) : (s.result r v n).strand.issued = s.strand.issued := by simp [State.result]
@[simp] theorem result_strand_lost (s : State) (r : Reg) (v : Word) (n : Nat) : (s.result r v n).strand.lost = s.strand.lost := by simp [State.result]
@[simp] theorem mapSys_others (s : State) (f : SysRegs → SysRegs) : (s.mapSys f).others = s.others := rfl
@[simp] theorem mapSys_gangs (s : State) (f : SysRegs → SysRegs) : (s.mapSys f).gangs = s.gangs := rfl
@[simp] theorem mapSys_squads (s : State) (f : SysRegs → SysRegs) : (s.mapSys f).squads = s.squads := rfl
@[simp] theorem mapSys_launches (s : State) (f : SysRegs → SysRegs) : (s.mapSys f).launches = s.launches := rfl
@[simp] theorem mapSys_mem (s : State) (f : SysRegs → SysRegs) : (s.mapSys f).mem = s.mem := rfl
@[simp] theorem mapSys_bad (s : State) (f : SysRegs → SysRegs) : (s.mapSys f).bad = s.bad := rfl
@[simp] theorem mapSys_tlb (s : State) (f : SysRegs → SysRegs) : (s.mapSys f).tlb = s.tlb := rfl
@[simp] theorem mapSys_l2 (s : State) (f : SysRegs → SysRegs) : (s.mapSys f).l2 = s.l2 := rfl
@[simp] theorem mapSys_reqs (s : State) (f : SysRegs → SysRegs) : (s.mapSys f).reqs = s.reqs := rfl
@[simp] theorem mapSys_reqNext (s : State) (f : SysRegs → SysRegs) : (s.mapSys f).reqNext = s.reqNext := rfl
@[simp] theorem mapSys_hostOut (s : State) (f : SysRegs → SysRegs) : (s.mapSys f).hostOut = s.hostOut := rfl
@[simp] theorem mapSys_engines (s : State) (f : SysRegs → SysRegs) : (s.mapSys f).engines = s.engines := rfl
@[simp] theorem mapSys_det (s : State) (f : SysRegs → SysRegs) : (s.mapSys f).det = s.det := rfl
@[simp] theorem mapSys_power (s : State) (f : SysRegs → SysRegs) : (s.mapSys f).power = s.power := rfl
@[simp] theorem mapSys_hub (s : State) (f : SysRegs → SysRegs) : (s.mapSys f).hub = s.hub := rfl
@[simp] theorem mapSys_fab (s : State) (f : SysRegs → SysRegs) : (s.mapSys f).fab = s.fab := rfl
@[simp] theorem mapSys_side (s : State) (f : SysRegs → SysRegs) : (s.mapSys f).side = s.side := rfl
@[simp] theorem mapSys_agenda (s : State) (f : SysRegs → SysRegs) : (s.mapSys f).agenda = s.agenda := rfl
@[simp] theorem mapSys_delays (s : State) (f : SysRegs → SysRegs) : (s.mapSys f).delays = s.delays := rfl
@[simp] theorem mapSys_fresh (s : State) (f : SysRegs → SysRegs) : (s.mapSys f).fresh = s.fresh := rfl
@[simp] theorem mapSys_stamp (s : State) (f : SysRegs → SysRegs) : (s.mapSys f).stamp = s.stamp := rfl
@[simp] theorem mapSys_stops (s : State) (f : SysRegs → SysRegs) : (s.mapSys f).stops = s.stops := rfl
@[simp] theorem mapSys_strand_id (s : State) (f : SysRegs → SysRegs) : (s.mapSys f).strand.id = s.strand.id := rfl
@[simp] theorem mapSys_strand_vec (s : State) (f : SysRegs → SysRegs) : (s.mapSys f).strand.vec = s.strand.vec := rfl
@[simp] theorem mapSys_strand_q (s : State) (f : SysRegs → SysRegs) : (s.mapSys f).strand.q = s.strand.q := rfl
@[simp] theorem mapSys_strand_sys (s : State) (f : SysRegs → SysRegs) : (s.mapSys f).strand.sys = f s.strand.sys := rfl
@[simp] theorem mapSys_strand_trap (s : State) (f : SysRegs → SysRegs) : (s.mapSys f).strand.trap = s.strand.trap := rfl
@[simp] theorem mapSys_strand_stores (s : State) (f : SysRegs → SysRegs) : (s.mapSys f).strand.stores = s.strand.stores := rfl
@[simp] theorem mapSys_strand_issued (s : State) (f : SysRegs → SysRegs) : (s.mapSys f).strand.issued = s.strand.issued := rfl
@[simp] theorem mapSys_strand_lost (s : State) (f : SysRegs → SysRegs) : (s.mapSys f).strand.lost = s.strand.lost := rfl
@[simp] theorem mapSys_strand_regs (s : State) (f : SysRegs → SysRegs) : (s.mapSys f).strand.regs = s.strand.regs := rfl
@[simp] theorem mapSys_strand_acc (s : State) (f : SysRegs → SysRegs) : (s.mapSys f).strand.acc = s.strand.acc := rfl
@[simp] theorem mapSys_strand_cmp (s : State) (f : SysRegs → SysRegs) : (s.mapSys f).strand.cmp = s.strand.cmp := rfl
@[simp] theorem mapTrap_others (s : State) (f : TrapRegs → TrapRegs) : (s.mapTrap f).others = s.others := rfl
@[simp] theorem mapTrap_gangs (s : State) (f : TrapRegs → TrapRegs) : (s.mapTrap f).gangs = s.gangs := rfl
@[simp] theorem mapTrap_squads (s : State) (f : TrapRegs → TrapRegs) : (s.mapTrap f).squads = s.squads := rfl
@[simp] theorem mapTrap_launches (s : State) (f : TrapRegs → TrapRegs) : (s.mapTrap f).launches = s.launches := rfl
@[simp] theorem mapTrap_mem (s : State) (f : TrapRegs → TrapRegs) : (s.mapTrap f).mem = s.mem := rfl
@[simp] theorem mapTrap_bad (s : State) (f : TrapRegs → TrapRegs) : (s.mapTrap f).bad = s.bad := rfl
@[simp] theorem mapTrap_tlb (s : State) (f : TrapRegs → TrapRegs) : (s.mapTrap f).tlb = s.tlb := rfl
@[simp] theorem mapTrap_l2 (s : State) (f : TrapRegs → TrapRegs) : (s.mapTrap f).l2 = s.l2 := rfl
@[simp] theorem mapTrap_reqs (s : State) (f : TrapRegs → TrapRegs) : (s.mapTrap f).reqs = s.reqs := rfl
@[simp] theorem mapTrap_reqNext (s : State) (f : TrapRegs → TrapRegs) : (s.mapTrap f).reqNext = s.reqNext := rfl
@[simp] theorem mapTrap_hostOut (s : State) (f : TrapRegs → TrapRegs) : (s.mapTrap f).hostOut = s.hostOut := rfl
@[simp] theorem mapTrap_engines (s : State) (f : TrapRegs → TrapRegs) : (s.mapTrap f).engines = s.engines := rfl
@[simp] theorem mapTrap_det (s : State) (f : TrapRegs → TrapRegs) : (s.mapTrap f).det = s.det := rfl
@[simp] theorem mapTrap_power (s : State) (f : TrapRegs → TrapRegs) : (s.mapTrap f).power = s.power := rfl
@[simp] theorem mapTrap_hub (s : State) (f : TrapRegs → TrapRegs) : (s.mapTrap f).hub = s.hub := rfl
@[simp] theorem mapTrap_fab (s : State) (f : TrapRegs → TrapRegs) : (s.mapTrap f).fab = s.fab := rfl
@[simp] theorem mapTrap_side (s : State) (f : TrapRegs → TrapRegs) : (s.mapTrap f).side = s.side := rfl
@[simp] theorem mapTrap_agenda (s : State) (f : TrapRegs → TrapRegs) : (s.mapTrap f).agenda = s.agenda := rfl
@[simp] theorem mapTrap_delays (s : State) (f : TrapRegs → TrapRegs) : (s.mapTrap f).delays = s.delays := rfl
@[simp] theorem mapTrap_fresh (s : State) (f : TrapRegs → TrapRegs) : (s.mapTrap f).fresh = s.fresh := rfl
@[simp] theorem mapTrap_stamp (s : State) (f : TrapRegs → TrapRegs) : (s.mapTrap f).stamp = s.stamp := rfl
@[simp] theorem mapTrap_stops (s : State) (f : TrapRegs → TrapRegs) : (s.mapTrap f).stops = s.stops := rfl
@[simp] theorem mapTrap_strand_id (s : State) (f : TrapRegs → TrapRegs) : (s.mapTrap f).strand.id = s.strand.id := rfl
@[simp] theorem mapTrap_strand_vec (s : State) (f : TrapRegs → TrapRegs) : (s.mapTrap f).strand.vec = s.strand.vec := rfl
@[simp] theorem mapTrap_strand_q (s : State) (f : TrapRegs → TrapRegs) : (s.mapTrap f).strand.q = s.strand.q := rfl
@[simp] theorem mapTrap_strand_sys (s : State) (f : TrapRegs → TrapRegs) : (s.mapTrap f).strand.sys = s.strand.sys := rfl
@[simp] theorem mapTrap_strand_trap (s : State) (f : TrapRegs → TrapRegs) : (s.mapTrap f).strand.trap = f s.strand.trap := rfl
@[simp] theorem mapTrap_strand_stores (s : State) (f : TrapRegs → TrapRegs) : (s.mapTrap f).strand.stores = s.strand.stores := rfl
@[simp] theorem mapTrap_strand_issued (s : State) (f : TrapRegs → TrapRegs) : (s.mapTrap f).strand.issued = s.strand.issued := rfl
@[simp] theorem mapTrap_strand_lost (s : State) (f : TrapRegs → TrapRegs) : (s.mapTrap f).strand.lost = s.strand.lost := rfl
@[simp] theorem mapTrap_strand_regs (s : State) (f : TrapRegs → TrapRegs) : (s.mapTrap f).strand.regs = s.strand.regs := rfl
@[simp] theorem mapTrap_strand_acc (s : State) (f : TrapRegs → TrapRegs) : (s.mapTrap f).strand.acc = s.strand.acc := rfl
@[simp] theorem mapTrap_strand_cmp (s : State) (f : TrapRegs → TrapRegs) : (s.mapTrap f).strand.cmp = s.strand.cmp := rfl
@[simp] theorem mapQ_others (s : State) (f : Queues → Queues) : (s.mapQ f).others = s.others := rfl
@[simp] theorem mapQ_gangs (s : State) (f : Queues → Queues) : (s.mapQ f).gangs = s.gangs := rfl
@[simp] theorem mapQ_squads (s : State) (f : Queues → Queues) : (s.mapQ f).squads = s.squads := rfl
@[simp] theorem mapQ_launches (s : State) (f : Queues → Queues) : (s.mapQ f).launches = s.launches := rfl
@[simp] theorem mapQ_mem (s : State) (f : Queues → Queues) : (s.mapQ f).mem = s.mem := rfl
@[simp] theorem mapQ_bad (s : State) (f : Queues → Queues) : (s.mapQ f).bad = s.bad := rfl
@[simp] theorem mapQ_tlb (s : State) (f : Queues → Queues) : (s.mapQ f).tlb = s.tlb := rfl
@[simp] theorem mapQ_l2 (s : State) (f : Queues → Queues) : (s.mapQ f).l2 = s.l2 := rfl
@[simp] theorem mapQ_reqs (s : State) (f : Queues → Queues) : (s.mapQ f).reqs = s.reqs := rfl
@[simp] theorem mapQ_reqNext (s : State) (f : Queues → Queues) : (s.mapQ f).reqNext = s.reqNext := rfl
@[simp] theorem mapQ_hostOut (s : State) (f : Queues → Queues) : (s.mapQ f).hostOut = s.hostOut := rfl
@[simp] theorem mapQ_engines (s : State) (f : Queues → Queues) : (s.mapQ f).engines = s.engines := rfl
@[simp] theorem mapQ_det (s : State) (f : Queues → Queues) : (s.mapQ f).det = s.det := rfl
@[simp] theorem mapQ_power (s : State) (f : Queues → Queues) : (s.mapQ f).power = s.power := rfl
@[simp] theorem mapQ_hub (s : State) (f : Queues → Queues) : (s.mapQ f).hub = s.hub := rfl
@[simp] theorem mapQ_fab (s : State) (f : Queues → Queues) : (s.mapQ f).fab = s.fab := rfl
@[simp] theorem mapQ_side (s : State) (f : Queues → Queues) : (s.mapQ f).side = s.side := rfl
@[simp] theorem mapQ_agenda (s : State) (f : Queues → Queues) : (s.mapQ f).agenda = s.agenda := rfl
@[simp] theorem mapQ_delays (s : State) (f : Queues → Queues) : (s.mapQ f).delays = s.delays := rfl
@[simp] theorem mapQ_fresh (s : State) (f : Queues → Queues) : (s.mapQ f).fresh = s.fresh := rfl
@[simp] theorem mapQ_stamp (s : State) (f : Queues → Queues) : (s.mapQ f).stamp = s.stamp := rfl
@[simp] theorem mapQ_stops (s : State) (f : Queues → Queues) : (s.mapQ f).stops = s.stops := rfl
@[simp] theorem mapQ_strand_id (s : State) (f : Queues → Queues) : (s.mapQ f).strand.id = s.strand.id := rfl
@[simp] theorem mapQ_strand_vec (s : State) (f : Queues → Queues) : (s.mapQ f).strand.vec = s.strand.vec := rfl
@[simp] theorem mapQ_strand_q (s : State) (f : Queues → Queues) : (s.mapQ f).strand.q = f s.strand.q := rfl
@[simp] theorem mapQ_strand_sys (s : State) (f : Queues → Queues) : (s.mapQ f).strand.sys = s.strand.sys := rfl
@[simp] theorem mapQ_strand_trap (s : State) (f : Queues → Queues) : (s.mapQ f).strand.trap = s.strand.trap := rfl
@[simp] theorem mapQ_strand_stores (s : State) (f : Queues → Queues) : (s.mapQ f).strand.stores = s.strand.stores := rfl
@[simp] theorem mapQ_strand_issued (s : State) (f : Queues → Queues) : (s.mapQ f).strand.issued = s.strand.issued := rfl
@[simp] theorem mapQ_strand_lost (s : State) (f : Queues → Queues) : (s.mapQ f).strand.lost = s.strand.lost := rfl
@[simp] theorem mapQ_strand_regs (s : State) (f : Queues → Queues) : (s.mapQ f).strand.regs = s.strand.regs := rfl
@[simp] theorem mapQ_strand_acc (s : State) (f : Queues → Queues) : (s.mapQ f).strand.acc = s.strand.acc := rfl
@[simp] theorem mapQ_strand_cmp (s : State) (f : Queues → Queues) : (s.mapQ f).strand.cmp = s.strand.cmp := rfl
@[simp] theorem mapVec_others (s : State) (f : VecState → VecState) : (s.mapVec f).others = s.others := rfl
@[simp] theorem mapVec_gangs (s : State) (f : VecState → VecState) : (s.mapVec f).gangs = s.gangs := rfl
@[simp] theorem mapVec_squads (s : State) (f : VecState → VecState) : (s.mapVec f).squads = s.squads := rfl
@[simp] theorem mapVec_launches (s : State) (f : VecState → VecState) : (s.mapVec f).launches = s.launches := rfl
@[simp] theorem mapVec_mem (s : State) (f : VecState → VecState) : (s.mapVec f).mem = s.mem := rfl
@[simp] theorem mapVec_bad (s : State) (f : VecState → VecState) : (s.mapVec f).bad = s.bad := rfl
@[simp] theorem mapVec_tlb (s : State) (f : VecState → VecState) : (s.mapVec f).tlb = s.tlb := rfl
@[simp] theorem mapVec_l2 (s : State) (f : VecState → VecState) : (s.mapVec f).l2 = s.l2 := rfl
@[simp] theorem mapVec_reqs (s : State) (f : VecState → VecState) : (s.mapVec f).reqs = s.reqs := rfl
@[simp] theorem mapVec_reqNext (s : State) (f : VecState → VecState) : (s.mapVec f).reqNext = s.reqNext := rfl
@[simp] theorem mapVec_hostOut (s : State) (f : VecState → VecState) : (s.mapVec f).hostOut = s.hostOut := rfl
@[simp] theorem mapVec_engines (s : State) (f : VecState → VecState) : (s.mapVec f).engines = s.engines := rfl
@[simp] theorem mapVec_det (s : State) (f : VecState → VecState) : (s.mapVec f).det = s.det := rfl
@[simp] theorem mapVec_power (s : State) (f : VecState → VecState) : (s.mapVec f).power = s.power := rfl
@[simp] theorem mapVec_hub (s : State) (f : VecState → VecState) : (s.mapVec f).hub = s.hub := rfl
@[simp] theorem mapVec_fab (s : State) (f : VecState → VecState) : (s.mapVec f).fab = s.fab := rfl
@[simp] theorem mapVec_side (s : State) (f : VecState → VecState) : (s.mapVec f).side = s.side := rfl
@[simp] theorem mapVec_agenda (s : State) (f : VecState → VecState) : (s.mapVec f).agenda = s.agenda := rfl
@[simp] theorem mapVec_delays (s : State) (f : VecState → VecState) : (s.mapVec f).delays = s.delays := rfl
@[simp] theorem mapVec_fresh (s : State) (f : VecState → VecState) : (s.mapVec f).fresh = s.fresh := rfl
@[simp] theorem mapVec_stamp (s : State) (f : VecState → VecState) : (s.mapVec f).stamp = s.stamp := rfl
@[simp] theorem mapVec_stops (s : State) (f : VecState → VecState) : (s.mapVec f).stops = s.stops := rfl
@[simp] theorem mapVec_strand_id (s : State) (f : VecState → VecState) : (s.mapVec f).strand.id = s.strand.id := rfl
@[simp] theorem mapVec_strand_vec (s : State) (f : VecState → VecState) : (s.mapVec f).strand.vec = f s.strand.vec := rfl
@[simp] theorem mapVec_strand_q (s : State) (f : VecState → VecState) : (s.mapVec f).strand.q = s.strand.q := rfl
@[simp] theorem mapVec_strand_sys (s : State) (f : VecState → VecState) : (s.mapVec f).strand.sys = s.strand.sys := rfl
@[simp] theorem mapVec_strand_trap (s : State) (f : VecState → VecState) : (s.mapVec f).strand.trap = s.strand.trap := rfl
@[simp] theorem mapVec_strand_stores (s : State) (f : VecState → VecState) : (s.mapVec f).strand.stores = s.strand.stores := rfl
@[simp] theorem mapVec_strand_issued (s : State) (f : VecState → VecState) : (s.mapVec f).strand.issued = s.strand.issued := rfl
@[simp] theorem mapVec_strand_lost (s : State) (f : VecState → VecState) : (s.mapVec f).strand.lost = s.strand.lost := rfl
@[simp] theorem mapVec_strand_regs (s : State) (f : VecState → VecState) : (s.mapVec f).strand.regs = s.strand.regs := rfl
@[simp] theorem mapVec_strand_acc (s : State) (f : VecState → VecState) : (s.mapVec f).strand.acc = s.strand.acc := rfl
@[simp] theorem mapVec_strand_cmp (s : State) (f : VecState → VecState) : (s.mapVec f).strand.cmp = s.strand.cmp := rfl
@[simp] theorem mapAcc_others (s : State) (f : Slice → Slice) : (s.mapAcc f).others = s.others := rfl
@[simp] theorem mapAcc_gangs (s : State) (f : Slice → Slice) : (s.mapAcc f).gangs = s.gangs := rfl
@[simp] theorem mapAcc_squads (s : State) (f : Slice → Slice) : (s.mapAcc f).squads = s.squads := rfl
@[simp] theorem mapAcc_launches (s : State) (f : Slice → Slice) : (s.mapAcc f).launches = s.launches := rfl
@[simp] theorem mapAcc_mem (s : State) (f : Slice → Slice) : (s.mapAcc f).mem = s.mem := rfl
@[simp] theorem mapAcc_bad (s : State) (f : Slice → Slice) : (s.mapAcc f).bad = s.bad := rfl
@[simp] theorem mapAcc_tlb (s : State) (f : Slice → Slice) : (s.mapAcc f).tlb = s.tlb := rfl
@[simp] theorem mapAcc_l2 (s : State) (f : Slice → Slice) : (s.mapAcc f).l2 = s.l2 := rfl
@[simp] theorem mapAcc_reqs (s : State) (f : Slice → Slice) : (s.mapAcc f).reqs = s.reqs := rfl
@[simp] theorem mapAcc_reqNext (s : State) (f : Slice → Slice) : (s.mapAcc f).reqNext = s.reqNext := rfl
@[simp] theorem mapAcc_hostOut (s : State) (f : Slice → Slice) : (s.mapAcc f).hostOut = s.hostOut := rfl
@[simp] theorem mapAcc_engines (s : State) (f : Slice → Slice) : (s.mapAcc f).engines = s.engines := rfl
@[simp] theorem mapAcc_det (s : State) (f : Slice → Slice) : (s.mapAcc f).det = s.det := rfl
@[simp] theorem mapAcc_power (s : State) (f : Slice → Slice) : (s.mapAcc f).power = s.power := rfl
@[simp] theorem mapAcc_hub (s : State) (f : Slice → Slice) : (s.mapAcc f).hub = s.hub := rfl
@[simp] theorem mapAcc_fab (s : State) (f : Slice → Slice) : (s.mapAcc f).fab = s.fab := rfl
@[simp] theorem mapAcc_side (s : State) (f : Slice → Slice) : (s.mapAcc f).side = s.side := rfl
@[simp] theorem mapAcc_agenda (s : State) (f : Slice → Slice) : (s.mapAcc f).agenda = s.agenda := rfl
@[simp] theorem mapAcc_delays (s : State) (f : Slice → Slice) : (s.mapAcc f).delays = s.delays := rfl
@[simp] theorem mapAcc_fresh (s : State) (f : Slice → Slice) : (s.mapAcc f).fresh = s.fresh := rfl
@[simp] theorem mapAcc_stamp (s : State) (f : Slice → Slice) : (s.mapAcc f).stamp = s.stamp := rfl
@[simp] theorem mapAcc_stops (s : State) (f : Slice → Slice) : (s.mapAcc f).stops = s.stops := rfl
@[simp] theorem mapAcc_strand_id (s : State) (f : Slice → Slice) : (s.mapAcc f).strand.id = s.strand.id := rfl
@[simp] theorem mapAcc_strand_vec (s : State) (f : Slice → Slice) : (s.mapAcc f).strand.vec = s.strand.vec := rfl
@[simp] theorem mapAcc_strand_q (s : State) (f : Slice → Slice) : (s.mapAcc f).strand.q = s.strand.q := rfl
@[simp] theorem mapAcc_strand_sys (s : State) (f : Slice → Slice) : (s.mapAcc f).strand.sys = s.strand.sys := rfl
@[simp] theorem mapAcc_strand_trap (s : State) (f : Slice → Slice) : (s.mapAcc f).strand.trap = s.strand.trap := rfl
@[simp] theorem mapAcc_strand_stores (s : State) (f : Slice → Slice) : (s.mapAcc f).strand.stores = s.strand.stores := rfl
@[simp] theorem mapAcc_strand_issued (s : State) (f : Slice → Slice) : (s.mapAcc f).strand.issued = s.strand.issued := rfl
@[simp] theorem mapAcc_strand_lost (s : State) (f : Slice → Slice) : (s.mapAcc f).strand.lost = s.strand.lost := rfl
@[simp] theorem mapAcc_strand_regs (s : State) (f : Slice → Slice) : (s.mapAcc f).strand.regs = s.strand.regs := rfl
@[simp] theorem mapAcc_strand_acc (s : State) (f : Slice → Slice) : (s.mapAcc f).strand.acc = f s.strand.acc := rfl
@[simp] theorem mapAcc_strand_cmp (s : State) (f : Slice → Slice) : (s.mapAcc f).strand.cmp = s.strand.cmp := rfl
@[simp] theorem mapCmp_others (s : State) (f : Slice → Slice) : (s.mapCmp f).others = s.others := rfl
@[simp] theorem mapCmp_gangs (s : State) (f : Slice → Slice) : (s.mapCmp f).gangs = s.gangs := rfl
@[simp] theorem mapCmp_squads (s : State) (f : Slice → Slice) : (s.mapCmp f).squads = s.squads := rfl
@[simp] theorem mapCmp_launches (s : State) (f : Slice → Slice) : (s.mapCmp f).launches = s.launches := rfl
@[simp] theorem mapCmp_mem (s : State) (f : Slice → Slice) : (s.mapCmp f).mem = s.mem := rfl
@[simp] theorem mapCmp_bad (s : State) (f : Slice → Slice) : (s.mapCmp f).bad = s.bad := rfl
@[simp] theorem mapCmp_tlb (s : State) (f : Slice → Slice) : (s.mapCmp f).tlb = s.tlb := rfl
@[simp] theorem mapCmp_l2 (s : State) (f : Slice → Slice) : (s.mapCmp f).l2 = s.l2 := rfl
@[simp] theorem mapCmp_reqs (s : State) (f : Slice → Slice) : (s.mapCmp f).reqs = s.reqs := rfl
@[simp] theorem mapCmp_reqNext (s : State) (f : Slice → Slice) : (s.mapCmp f).reqNext = s.reqNext := rfl
@[simp] theorem mapCmp_hostOut (s : State) (f : Slice → Slice) : (s.mapCmp f).hostOut = s.hostOut := rfl
@[simp] theorem mapCmp_engines (s : State) (f : Slice → Slice) : (s.mapCmp f).engines = s.engines := rfl
@[simp] theorem mapCmp_det (s : State) (f : Slice → Slice) : (s.mapCmp f).det = s.det := rfl
@[simp] theorem mapCmp_power (s : State) (f : Slice → Slice) : (s.mapCmp f).power = s.power := rfl
@[simp] theorem mapCmp_hub (s : State) (f : Slice → Slice) : (s.mapCmp f).hub = s.hub := rfl
@[simp] theorem mapCmp_fab (s : State) (f : Slice → Slice) : (s.mapCmp f).fab = s.fab := rfl
@[simp] theorem mapCmp_side (s : State) (f : Slice → Slice) : (s.mapCmp f).side = s.side := rfl
@[simp] theorem mapCmp_agenda (s : State) (f : Slice → Slice) : (s.mapCmp f).agenda = s.agenda := rfl
@[simp] theorem mapCmp_delays (s : State) (f : Slice → Slice) : (s.mapCmp f).delays = s.delays := rfl
@[simp] theorem mapCmp_fresh (s : State) (f : Slice → Slice) : (s.mapCmp f).fresh = s.fresh := rfl
@[simp] theorem mapCmp_stamp (s : State) (f : Slice → Slice) : (s.mapCmp f).stamp = s.stamp := rfl
@[simp] theorem mapCmp_stops (s : State) (f : Slice → Slice) : (s.mapCmp f).stops = s.stops := rfl
@[simp] theorem mapCmp_strand_id (s : State) (f : Slice → Slice) : (s.mapCmp f).strand.id = s.strand.id := rfl
@[simp] theorem mapCmp_strand_vec (s : State) (f : Slice → Slice) : (s.mapCmp f).strand.vec = s.strand.vec := rfl
@[simp] theorem mapCmp_strand_q (s : State) (f : Slice → Slice) : (s.mapCmp f).strand.q = s.strand.q := rfl
@[simp] theorem mapCmp_strand_sys (s : State) (f : Slice → Slice) : (s.mapCmp f).strand.sys = s.strand.sys := rfl
@[simp] theorem mapCmp_strand_trap (s : State) (f : Slice → Slice) : (s.mapCmp f).strand.trap = s.strand.trap := rfl
@[simp] theorem mapCmp_strand_stores (s : State) (f : Slice → Slice) : (s.mapCmp f).strand.stores = s.strand.stores := rfl
@[simp] theorem mapCmp_strand_issued (s : State) (f : Slice → Slice) : (s.mapCmp f).strand.issued = s.strand.issued := rfl
@[simp] theorem mapCmp_strand_lost (s : State) (f : Slice → Slice) : (s.mapCmp f).strand.lost = s.strand.lost := rfl
@[simp] theorem mapCmp_strand_regs (s : State) (f : Slice → Slice) : (s.mapCmp f).strand.regs = s.strand.regs := rfl
@[simp] theorem mapCmp_strand_acc (s : State) (f : Slice → Slice) : (s.mapCmp f).strand.acc = s.strand.acc := rfl
@[simp] theorem mapCmp_strand_cmp (s : State) (f : Slice → Slice) : (s.mapCmp f).strand.cmp = f s.strand.cmp := rfl

/-- Reading the slice in turn after replacing it. -/
@[simp] theorem setCur_cur (s : State) (c : Slice) : (s.setCur c).cur = c := by
  unfold State.setCur State.cur; split <;> simp_all

/-- Replacing the slice in turn leaves the other. -/
@[simp] theorem setCur_strand_acc (s : State) (c : Slice) :
    (s.setCur c).strand.acc = (if s.side = .access then c else s.strand.acc) := by rw [setCur_eq]

/-- Replacing the slice in turn leaves the other. -/
@[simp] theorem setCur_strand_cmp (s : State) (c : Slice) :
    (s.setCur c).strand.cmp = (if s.side = .access then s.strand.cmp else c) := by rw [setCur_eq]

/-- The bank in turn after replacing it. -/
@[simp] theorem setBank_bank (s : State) (b : Vector Word 32) : (s.setBank b).bank = b := by
  unfold State.setBank
  split
  · rename_i h; simp [State.bank, h]
  · rename_i h
    split
    · rename_i h'; simp [State.bank, h, h']
    · rename_i h'; simp [State.bank, h, h']

/-- The bank in turn is not touched by replacing the slice. -/
@[simp] theorem setCur_bank (s : State) (c : Slice) : (s.setCur c).bank = s.bank := by simp [State.bank]

@[simp] theorem setCur_x (s : State) (c : Slice) (r : Reg) : (s.setCur c).x r = s.x r := by simp [State.x]
@[simp] theorem goto_x (s : State) (pc : Word) (r : Reg) : (s.goto pc).x r = s.x r := setCur_x _ _ _
@[simp] theorem advance_x (s : State) (n : Nat) (r : Reg) : (s.advance n).x r = s.x r := setCur_x _ _ _
@[simp] theorem wait_x (s : State) (w : Stall) (r : Reg) : (s.wait w).x r = s.x r := setCur_x _ _ _

/-- Register reads after a register write (R29, R58): x0 stays zero. -/
theorem setX_x (s : State) (rd r : Reg) (v : Word) : (s.setX rd v).x r = if r = rd ∧ r ≠ 0 then v else s.x r := by
  unfold State.setX State.x
  by_cases h0 : rd = 0
  · by_cases h : r = 0
    · simp [h0, h]
    · simp [h0, h]
  · by_cases h : r = 0
    · simp [h]
    · by_cases h1 : r = rd
      · subst h1; simp [h, Vector.get]
      · have h2 : rd.val ≠ r.val := fun e => h1 (Fin.ext e.symm)
        simp [h, h1, h0, Vector.get, h2]

/-- The slice in turn is not touched by a register write. -/
@[simp] theorem setX_cur (s : State) (r : Reg) (v : Word) : (s.setX r v).cur = s.cur := by simp [State.cur]

/-- The slice in turn after a result. -/
theorem result_cur (s : State) (rd : Reg) (v : Word) (n : Nat) :
    (s.result rd v n).cur = { s.cur with pc := s.pc + BitVec.ofNat 64 n, stall := none } := by
  simp [State.result, State.advance, State.goto, State.pc]

/-- The registers after a result. -/
theorem result_x (s : State) (rd r : Reg) (v : Word) (n : Nat) :
    (s.result rd v n).x r = if r = rd ∧ r ≠ 0 then v else s.x r := by
  simp [State.result, State.advance, setX_x]

end Sys2Proof.Laws
end

