-- ==== Sys2Proof/Laws/Frames.lean ====
section
/-! SUPPORT. The frames of Safety.lean for the shared updates: what a scalar result and a jump leave alone. -/

namespace Sys2Proof.Laws

open Sys2Proof.Machine

/-- A register write touches one bank. -/
theorem setX_bankX (s : State) (rd : Reg) (v : Word) (side : Side) (priv : Bool) (r : Reg)
    (h : ¬ s.bankInTurn side priv) : (s.setX rd v).bankX side priv r = s.bankX side priv r := by
  unfold State.setX
  split
  · rfl
  · rw [setBank_eq]
    unfold State.bankX State.bankInTurn at *
    cases hs : s.side <;> cases side <;> cases hp : s.strand.trap.priv <;> cases priv <;> simp_all

/-- What stands behind the frame of a scalar instruction, for any way of going on. -/
theorem wrote_setX_setCur (s : State) (rd : Reg) (v pc : Word) (f : BitVec 13) :
    Wrote s ((s.setX rd v).setCur { s.cur with pc := pc, stall := none, fcsr := f }) rd v pc f where
  regs :=
    { own := fun r => by simp [setX_x]
      other := fun side priv r h => by
        have := setX_bankX s rd v side priv r h
        simpa [State.bankX] using this }
  strand :=
    { slice := setCur_cur _ _
      partner := by unfold State.partner; simp; split <;> rfl
      identity := by simp
      vec := by simp
      queues := by simp
      special := by simp
      trap := by simp
      issued := by simp
      lost := by simp }
  stores := by simp
  memory := fun die key => by simp [State.byteAt, State.l2Byte, State.dueByte, State.l2Has, State.l2Line]
  rest := by constructor <;> simp

/-- A register write, then going on at an address. -/
theorem wrote_goto (s : State) (rd : Reg) (v pc : Word) : Wrote s ((s.setX rd v).goto pc) rd v pc s.cur.fcsr := by
  have h := wrote_setX_setCur s rd v pc s.cur.fcsr
  simpa [State.goto] using h

/-- The scalar result of an instruction. -/
theorem gives_result (s : State) (rd : Reg) (v : Word) (n : Nat) : Gives (.next (s.result rd v n)) s rd v n := by
  refine ⟨_, rfl, ?_⟩
  have h := wrote_goto s rd v (s.pc + BitVec.ofNat 64 n)
  simpa [State.result, State.advance, State.pc] using h

/-- Going on at an address. -/
theorem goesTo_goto (s : State) (pc : Word) : GoesTo (.next (s.goto pc)) s pc := by
  refine ⟨_, rfl, ?_⟩
  have h := wrote_goto s 0 0 pc
  simpa [State.setX] using h

end Sys2Proof.Laws
end

