-- ==== Sys2Proof/Laws/Memory.lean ====
section
/-! SUPPORT. Memory: a read after a write, the canonical form that every operation keeps, and what performing and delaying stores can
do (R200, R203, R214). -/

namespace Sys2Proof.Laws

open Sys2Proof.Machine

/-! Reads after writes hold for every list. -/

theorem get_of_above {a b : Nat} {m : Memory} (h : Memory.above a m = true) (hb : b ≤ a) : Memory.get m b = 0 := by
  cases m with
  | nil => rfl
  | cons c m =>
    obtain ⟨k, v⟩ := c
    simp only [Memory.above, decide_eq_true_eq] at h
    simp only [Memory.get]
    rw [if_neg (by omega), if_pos (by omega)]

theorem get_set (m : Memory) (a : Nat) (v : Byte) (b : Nat) : (m.set a v).get b = if b = a then v else m.get b := by
  induction m with
  | nil =>
    simp only [Memory.set]
    split
    · rename_i h; subst h; simp [Memory.get]
    · simp only [Memory.get]; split <;> simp
  | cons c m ih =>
    obtain ⟨k, w⟩ := c
    simp only [Memory.set]
    by_cases h1 : a < k
    · rw [if_pos h1]
      split
      · rename_i hv; subst hv
        by_cases hb : b = a
        · subst hb; simp only [Memory.get]; rw [if_neg (by omega), if_pos (by omega)]; simp
        · simp [hb]
      · simp only [Memory.get]
        by_cases hb : b = a
        · simp [hb]
        · simp only [hb, if_false]
          by_cases hlt : b < a
          · rw [if_pos hlt, if_neg (by omega), if_pos (by omega)]
          · rw [if_neg hlt]
    · rw [if_neg h1]
      by_cases h2 : a = k
      · subst h2
        rw [if_pos rfl]
        by_cases hb : b = a
        · subst hb
          simp only [if_true]
          split
          · rename_i h; simp only [Bool.and_eq_true, decide_eq_true_eq] at h
            rw [get_of_above h.2 (by omega)]; exact h.1.symm
          · simp [Memory.get]
        · rw [if_neg hb]
          split
          · rename_i h; simp only [Bool.and_eq_true, decide_eq_true_eq] at h
            simp only [Memory.get]
            rw [if_neg hb]
            split
            · rename_i hlt; rw [get_of_above h.2 (by omega)]
            · rfl
          · simp only [Memory.get]
            rw [if_neg hb, if_neg hb]
      · rw [if_neg h2]
        simp only [Memory.get]
        split
        · rename_i h; rw [if_neg (by omega)]
        · split
          · rename_i h h'; rw [if_neg (by omega)]
          · exact ih

@[simp] theorem get_set_same (m : Memory) (a : Nat) (v : Byte) : (m.set a v).get a = v := by simp [get_set]

theorem get_set_other (m : Memory) {a b : Nat} (v : Byte) (h : b ≠ a) : (m.set a v).get b = m.get b := by simp [get_set, h]

/-- What stands at a key after a list of writes in order: the last one to it, or what stood there. -/
theorem get_setAll_cons (m : Memory) (a : Nat) (v : Byte) (l : List (Nat × Byte)) :
    m.setAll ((a, v) :: l) = (m.set a v).setAll l := rfl

theorem get_setAll_other (l : List (Nat × Byte)) (m : Memory) (b : Nat) (h : ∀ c ∈ l, c.1 ≠ b) : (m.setAll l).get b = m.get b := by
  induction l generalizing m with
  | nil => rfl
  | cons c l ih =>
    obtain ⟨k, v⟩ := c
    rw [get_setAll_cons, ih _ fun c hc => h c (by simp [hc]), get_set_other]
    exact fun e => h (k, v) (by simp) e.symm

theorem mem_atKeys {a : Nat} {bs : List Byte} {c : Nat × Byte} (h : c ∈ atKeys a bs) : a ≤ c.1 ∧ c.1 < a + bs.length := by
  induction bs generalizing a with
  | nil => simp [atKeys] at h
  | cons b bs ih =>
    simp only [atKeys, List.mem_cons] at h
    rcases h with h | h
    · subst h; simp
    · have := ih h; simp only [List.length_cons]; omega

/-- Consecutive bytes written from a key: each stands at its key, and every byte outside is as it was. -/
theorem get_setAll_atKeys (bs : List Byte) (m : Memory) (a b : Nat) :
    (m.setAll (atKeys a bs)).get b = if a ≤ b ∧ b < a + bs.length then bs.getD (b - a) 0 else m.get b := by
  induction bs generalizing m a with
  | nil => simp only [atKeys, Memory.setAll, List.length_nil]; rw [if_neg (by omega)]
  | cons x bs ih =>
    simp only [atKeys, get_setAll_cons, ih, List.length_cons]
    by_cases hb : b = a
    · subst hb
      rw [if_neg (by omega), if_pos (by omega)]
      simp
    · rw [get_set_other _ _ hb]
      by_cases hr : a + 1 ≤ b ∧ b < a + 1 + bs.length
      · rw [if_pos hr, if_pos (by omega)]
        obtain ⟨n, rfl⟩ : ∃ n, b = a + 1 + n := ⟨b - (a + 1), by omega⟩
        have h1 : a + 1 + n - (a + 1) = n := by omega
        have h2 : a + 1 + n - a = n + 1 := by omega
        rw [h1, h2]; simp
      · rw [if_neg hr, if_neg (by omega)]

theorem read_congr (m m' : Memory) (a n : Nat) (h : ∀ i, i < n → m.get (a + i) = m'.get (a + i)) : m.read a n = m'.read a n := by
  induction n generalizing a with
  | zero => rfl
  | succ n ih =>
    simp only [Memory.read]
    have h0 := h 0 (by omega)
    simp only [Nat.add_zero] at h0
    rw [h0, ih (a + 1) fun i hi => by have := h (i + 1) (by omega); rwa [Nat.add_comm i 1, ← Nat.add_assoc] at this]

@[simp] theorem read_length (m : Memory) (a n : Nat) : (m.read a n).length = n := by
  induction n generalizing a with
  | zero => rfl
  | succ n ih => simp [Memory.read, ih]

theorem read_get (m : Memory) (a n i : Nat) (h : i < n) : (m.read a n)[i]? = some (m.get (a + i)) := by
  induction n generalizing a i with
  | zero => omega
  | succ n ih =>
    cases i with
    | zero => simp [Memory.read]
    | succ i =>
      simp only [Memory.read, List.getElem?_cons_succ]
      rw [ih (a + 1) i (by omega)]
      congr 2; omega

/-! The canonical form. -/

theorem wfFrom_mono {lo lo' : Nat} {m : Memory} (h : Memory.wfFrom lo m = true) (hl : lo' ≤ lo) : Memory.wfFrom lo' m = true := by
  cases m with
  | nil => rfl
  | cons c m =>
    obtain ⟨k, b⟩ := c
    simp only [Memory.wfFrom, Bool.and_eq_true, decide_eq_true_eq] at h ⊢
    exact ⟨⟨by omega, h.1.2⟩, h.2⟩

theorem wfFrom_set {lo : Nat} {m : Memory} (a : Nat) (v : Byte) (h : Memory.wfFrom lo m = true) (ha : lo ≤ a) :
    Memory.wfFrom lo (m.set a v) = true := by
  induction m generalizing lo with
  | nil =>
    simp only [Memory.set]
    split
    · rfl
    · rename_i hv
      simp only [Memory.wfFrom, Bool.and_eq_true, decide_eq_true_eq, and_true]
      exact ⟨ha, hv⟩
  | cons c m ih =>
    obtain ⟨k, b⟩ := c
    have h' := h
    simp only [Memory.wfFrom, Bool.and_eq_true, decide_eq_true_eq] at h
    obtain ⟨⟨h1, h2⟩, h3⟩ := h
    simp only [Memory.set]
    split
    · rename_i hlt
      split
      · exact h'
      · rename_i hv
        simp only [Memory.wfFrom, Bool.and_eq_true, decide_eq_true_eq]
        exact ⟨⟨ha, hv⟩, ⟨by omega, h2⟩, h3⟩
    · split
      · rename_i hle heq
        subst heq
        split
        · exact wfFrom_mono h3 (by omega)
        · rename_i hv
          simp only [Memory.wfFrom, Bool.and_eq_true, decide_eq_true_eq]
          refine ⟨⟨ha, fun h0 => hv ?_⟩, h3⟩
          simp only [h0, decide_true, Bool.true_and]
          cases m with
          | nil => rfl
          | cons c m =>
            obtain ⟨k', b'⟩ := c
            simp only [Memory.wfFrom, Bool.and_eq_true, decide_eq_true_eq] at h3
            simp only [Memory.above, decide_eq_true_eq]; omega
      · rename_i hle hne
        simp only [Memory.wfFrom, Bool.and_eq_true, decide_eq_true_eq]
        exact ⟨⟨h1, h2⟩, ih h3 (by omega)⟩

/-- Writing a byte keeps the canonical form. -/
theorem wf_set {m : Memory} (a : Nat) (v : Byte) (h : m.wf = true) : (m.set a v).wf = true := wfFrom_set a v h (Nat.zero_le a)

/-- Writing a list of bytes keeps it. -/
theorem wf_setAll {m : Memory} (l : List (Nat × Byte)) (h : m.wf = true) : (m.setAll l).wf = true := by
  induction l generalizing m with
  | nil => exact h
  | cons c l ih => exact ih (wf_set c.1 c.2 h)

theorem wfFrom_filter {lo : Nat} {m : Memory} (p : Host.Cell → Bool) (h : Memory.wfFrom lo m = true) :
    Memory.wfFrom lo (m.filter p) = true := by
  induction m generalizing lo with
  | nil => rfl
  | cons c m ih =>
    obtain ⟨k, b⟩ := c
    simp only [Memory.wfFrom, Bool.and_eq_true, decide_eq_true_eq] at h
    simp only [List.filter_cons]
    split
    · simp only [Memory.wfFrom, Bool.and_eq_true, decide_eq_true_eq]; exact ⟨h.1, ih h.2⟩
    · exact wfFrom_mono (ih h.2) (by omega)

/-- Clearing a range keeps the canonical form. -/
theorem wf_clearRange {m : Memory} (lo n : Nat) (h : m.wf = true) : (m.clearRange lo n).wf = true := wfFrom_filter _ h

theorem get_above_wf {lo b : Nat} {m : Memory} (h : Memory.wfFrom lo m = true) (hb : b < lo) : m.get b = 0 := by
  cases m with
  | nil => rfl
  | cons c m =>
    obtain ⟨k, v⟩ := c
    simp only [Memory.wfFrom, Bool.and_eq_true, decide_eq_true_eq] at h
    simp only [Memory.get]
    rw [if_neg (by omega), if_pos (by omega)]

theorem get_filter_from {lo : Nat} {m : Memory} (p : Host.Cell → Bool) (q : Nat → Bool) (hp : ∀ c, p c = q c.1) (b : Nat)
    (h : Memory.wfFrom lo m = true) : Memory.get (m.filter p) b = if q b then m.get b else 0 := by
  induction m generalizing lo with
  | nil => simp [Memory.get]
  | cons c m ih =>
    obtain ⟨k, v⟩ := c
    simp only [Memory.wfFrom, Bool.and_eq_true, decide_eq_true_eq] at h
    have ih := ih h.2
    simp only [List.filter_cons, hp]
    by_cases hk : q k = true
    · rw [if_pos hk]
      rw [Memory.get, Memory.get]
      by_cases h1 : b = k
      · subst h1; simp [hk]
      · simp only [h1, if_false]
        by_cases h2 : b < k
        · simp [h2]
        · simp only [h2, if_false]; exact ih
    · rw [if_neg hk]
      rw [Memory.get.eq_2]
      by_cases h1 : b = k
      · subst h1
        rw [ih]; simp [hk]
      · simp only [h1, if_false]
        by_cases h2 : b < k
        · rw [ih, get_above_wf h.2 (by omega)]; simp
        · simp only [h2, if_false]; exact ih

/-- A cleared range reads as zero and every other byte as before. -/
theorem get_clearRange {m : Memory} (lo n b : Nat) (h : m.wf = true) :
    (m.clearRange lo n).get b = if lo ≤ b ∧ b < lo + n then 0 else m.get b := by
  rw [Memory.clearRange, get_filter_from _ (fun k => decide (k < lo) || decide (lo + n ≤ k)) (fun _ => rfl) b h]
  by_cases hb : lo ≤ b ∧ b < lo + n
  · rw [if_pos hb, if_neg]; simp; omega
  · rw [if_neg hb, if_pos]; simp; omega

/-! Accesses in one pass agree with the byte accesses on a canonical memory. -/

theorem wfFrom_append {lo a : Nat} {l m : Memory} (hl : Memory.wfFrom lo l = true) (hk : ∀ c ∈ l, c.1 < a)
    (hm : Memory.wfFrom a m = true) (ha : lo ≤ a) : Memory.wfFrom lo (l ++ m) = true := by
  induction l generalizing lo with
  | nil => exact wfFrom_mono hm ha
  | cons c l ih =>
    obtain ⟨k, b⟩ := c
    simp only [Memory.wfFrom, Bool.and_eq_true, List.cons_append] at hl ⊢
    have : k < a := hk (k, b) (by simp)
    exact ⟨hl.1, ih hl.2 (fun c hc => hk c (by simp [hc])) (by omega)⟩

theorem get_append {lo a : Nat} {l m : Memory} (b : Nat) (hl : Memory.wfFrom lo l = true) (hk : ∀ c ∈ l, c.1 < a)
    (hm : Memory.wfFrom a m = true) : Memory.get (l ++ m) b = if b < a then Memory.get l b else Memory.get m b := by
  induction l generalizing lo with
  | nil =>
    simp only [List.nil_append]
    split
    · rename_i h; rw [get_above_wf hm h]; rfl
    · rfl
  | cons c l ih =>
    obtain ⟨k, v⟩ := c
    simp only [Memory.wfFrom, Bool.and_eq_true] at hl
    have hka : k < a := hk (k, v) (by simp)
    have ih := ih hl.2 fun c hc => hk c (by simp [hc])
    rw [List.cons_append, Memory.get.eq_2, Memory.get.eq_2, ih]
    by_cases h1 : b = k
    · subst h1; simp [hka]
    · simp only [h1, if_false]
      by_cases h2 : b < k
      · rw [if_pos h2, if_pos h2, if_pos (by omega)]
      · rw [if_neg h2, if_neg h2]

theorem takeWhile_low (m : Memory) (a : Nat) : ∀ c ∈ m.takeWhile (fun c => decide (c.1 < a)), c.1 < a := by
  induction m with
  | nil => simp
  | cons c m ih =>
    simp only [List.takeWhile_cons]
    split
    · rename_i h
      intro d hd
      simp only [List.mem_cons] at hd
      rcases hd with rfl | hd
      · simpa using h
      · exact ih d hd
    · simp

theorem wfFrom_takeWhile {lo : Nat} {m : Memory} (p : Host.Cell → Bool) (h : Memory.wfFrom lo m = true) :
    Memory.wfFrom lo (m.takeWhile p) = true := by
  induction m generalizing lo with
  | nil => rfl
  | cons c m ih =>
    obtain ⟨k, b⟩ := c
    simp only [Memory.wfFrom, Bool.and_eq_true] at h
    simp only [List.takeWhile_cons]
    split
    · simp only [Memory.wfFrom, Bool.and_eq_true]; exact ⟨h.1, ih h.2⟩
    · rfl

theorem wfFrom_dropWhile {lo a : Nat} {m : Memory} (h : Memory.wfFrom lo m = true) :
    Memory.wfFrom a (m.dropWhile fun c => decide (c.1 < a)) = true := by
  induction m generalizing lo with
  | nil => rfl
  | cons c m ih =>
    obtain ⟨k, b⟩ := c
    simp only [Memory.wfFrom, Bool.and_eq_true, decide_eq_true_eq] at h
    simp only [List.dropWhile_cons]
    split
    · exact ih h.2
    · rename_i hk
      simp only [decide_eq_true_eq] at hk
      simp only [Memory.wfFrom, Bool.and_eq_true, decide_eq_true_eq]
      exact ⟨⟨by omega, h.1.2⟩, h.2⟩

theorem get_takeWhile {lo a b : Nat} {m : Memory} (h : Memory.wfFrom lo m = true) (hb : b < a) :
    Memory.get (m.takeWhile fun c => decide (c.1 < a)) b = m.get b := by
  induction m generalizing lo with
  | nil => rfl
  | cons c m ih =>
    obtain ⟨k, v⟩ := c
    simp only [Memory.wfFrom, Bool.and_eq_true] at h
    simp only [List.takeWhile_cons]
    split
    · rw [Memory.get.eq_2, Memory.get.eq_2, ih h.2]
    · rename_i hk
      simp only [decide_eq_true_eq] at hk
      rw [Memory.get.eq_2, if_neg (by omega), if_pos (by omega)]; rfl

theorem get_dropWhile {lo a b : Nat} {m : Memory} (h : Memory.wfFrom lo m = true) (hb : a ≤ b) :
    Memory.get (m.dropWhile fun c => decide (c.1 < a)) b = m.get b := by
  induction m generalizing lo with
  | nil => rfl
  | cons c m ih =>
    obtain ⟨k, v⟩ := c
    simp only [Memory.wfFrom, Bool.and_eq_true] at h
    simp only [List.dropWhile_cons]
    split
    · rename_i hk
      simp only [decide_eq_true_eq] at hk
      rw [Memory.get.eq_2, if_neg (by omega), if_neg (by omega), ih h.2]
    · rfl

theorem wfFrom_bytes (a : Nat) (bs : List Byte) :
    Memory.wfFrom a ((atKeys a bs).filter fun c => decide (c.2 ≠ 0)) = true := by
  induction bs generalizing a with
  | nil => rfl
  | cons b bs ih =>
    simp only [atKeys, List.filter_cons]
    split
    · rename_i h
      simp only [Memory.wfFrom, Bool.and_eq_true, decide_eq_true_eq]
      exact ⟨⟨Nat.le_refl a, by simpa using h⟩, ih (a + 1)⟩
    · exact wfFrom_mono (ih (a + 1)) (by omega)

theorem get_bytes (a b : Nat) (bs : List Byte) :
    Memory.get ((atKeys a bs).filter fun c => decide (c.2 ≠ 0)) b = if a ≤ b then bs.getD (b - a) 0 else 0 := by
  induction bs generalizing a with
  | nil => simp [atKeys, Memory.get]
  | cons x bs ih =>
    simp only [atKeys, List.filter_cons]
    by_cases hb : b = a
    · subst hb
      split
      · rw [Memory.get.eq_2]; simp
      · rename_i h
        rw [ih, if_neg (by omega), if_pos (by omega)]
        simp only [ne_eq, decide_not, Bool.not_eq_true', decide_eq_false_iff_not, Decidable.not_not] at h
        simp [h]
    · have key : (if a + 1 ≤ b then bs.getD (b - (a + 1)) 0 else (0 : Byte)) =
          if a ≤ b then (x :: bs).getD (b - a) 0 else 0 := by
        by_cases hr : a + 1 ≤ b
        · obtain ⟨n, rfl⟩ : ∃ n, b = a + 1 + n := ⟨b - (a + 1), by omega⟩
          have h1 : a + 1 + n - (a + 1) = n := by omega
          have h2 : a + 1 + n - a = n + 1 := by omega
          rw [if_pos hr, if_pos (by omega), h1, h2]; simp
        · rw [if_neg hr, if_neg (by omega)]
      split
      · rw [Memory.get.eq_2, if_neg hb, ih, key]
        split
        · rename_i h; rw [if_neg (by omega)]
        · rfl
      · rw [ih, key]

theorem low_bytes (a : Nat) (bs : List Byte) (c : Host.Cell) (h : c ∈ (atKeys a bs).filter fun c => decide (c.2 ≠ 0)) :
    c.1 < a + bs.length := (mem_atKeys (List.mem_filter.1 h).1).2

/-- A write of consecutive bytes keeps the canonical form. -/
theorem wf_write {m : Memory} (a : Nat) (bs : List Byte) (h : m.wf = true) : (m.write a bs).wf = true := by
  unfold Memory.write Memory.wf
  rw [List.append_assoc]
  refine wfFrom_append (a := a) (wfFrom_takeWhile _ h) (takeWhile_low m a) ?_ (Nat.zero_le a)
  exact wfFrom_append (wfFrom_bytes a bs) (low_bytes a bs) (wfFrom_dropWhile h) (by omega)

/-- After it each byte stands at its key, and every byte outside is as it was. -/
theorem get_write {m : Memory} (a b : Nat) (bs : List Byte) (h : m.wf = true) :
    (m.write a bs).get b = if a ≤ b ∧ b < a + bs.length then bs.getD (b - a) 0 else m.get b := by
  unfold Memory.write
  have h2 := wfFrom_append (wfFrom_bytes a bs) (low_bytes a bs) (wfFrom_dropWhile (a := a + bs.length) h) (by omega)
  rw [List.append_assoc, get_append b (wfFrom_takeWhile _ h) (takeWhile_low m a) h2]
  by_cases h1 : b < a
  · rw [if_pos h1, if_neg (by omega), get_takeWhile h h1]
  · rw [if_neg h1, get_append b (wfFrom_bytes a bs) (low_bytes a bs) (wfFrom_dropWhile h)]
    by_cases h3 : b < a + bs.length
    · rw [if_pos h3, if_pos (by omega), get_bytes, if_pos (by omega)]
    · rw [if_neg h3, if_neg (by omega), get_dropWhile h (by omega)]

theorem span_eq_read {m : Memory} (a n : Nat) (h : Memory.wfFrom a m = true) : m.span a n = m.read a n := by
  induction n generalizing m a with
  | zero => cases m <;> rfl
  | succ n ih =>
    cases m with
    | nil =>
      simp only [Memory.span, Memory.read]
      rw [← ih (a + 1) (m := []) rfl]
      cases n <;> rfl
    | cons c m =>
      obtain ⟨k, b⟩ := c
      have h' := h
      simp only [Memory.wfFrom, Bool.and_eq_true, decide_eq_true_eq] at h
      simp only [Memory.span, Memory.read]
      by_cases hk : k = a
      · subst hk
        rw [if_pos rfl, ih _ h.2, Memory.get.eq_2, if_pos rfl]
        congr 1
        refine read_congr _ _ _ _ fun i _ => ?_
        rw [Memory.get.eq_2, if_neg (by omega), if_neg (by omega)]
      · rw [if_neg hk, ih (a + 1), Memory.get.eq_2, if_neg (fun e => hk e.symm), if_pos (by omega)]
        simp only [Memory.wfFrom, Bool.and_eq_true, decide_eq_true_eq]
        exact ⟨⟨by omega, h.1.2⟩, h.2⟩

/-- A read of consecutive bytes in one pass reads each of them. -/
theorem bytes_eq_read {m : Memory} (a n : Nat) (h : m.wf = true) : m.bytes a n = m.read a n := by
  unfold Memory.bytes
  rw [span_eq_read a n (wfFrom_dropWhile h)]
  exact read_congr _ _ _ _ fun i _ => get_dropWhile h (by omega)

end Sys2Proof.Laws
end

