-- ==== Sys2Proof/Laws/PerInstr.lean ====
section
/-! SUPPORT. One statement for each instruction: its word decodes to it (R281 to R291). -/

/-- The word of a well-formed encoded instruction decodes to that instruction, with every operand at every value. -/
def Sys2Proof.Laws.RoundTrip.Statement (i : Sys2Proof.Instr) : Prop :=
  i.isEncoded = true → i.wellFormed = true → Sys2Proof.decodeWord (Sys2Proof.encodeLength i) (Sys2Proof.encode i) = .ok i

section

set_option Elab.async false

open Sys2Proof Sys2Proof.Laws

theorem Sys2Proof.Laws.decodeWord_2 (w : Nat) : decodeWord 2 w = decode16 w := rfl
theorem Sys2Proof.Laws.decodeWord_4 (w : Nat) : decodeWord 4 w = decode32 w := rfl
theorem Sys2Proof.Laws.decodeWord_8 (w : Nat) : decodeWord 8 w = decode64 w := rfl

/-- The statement from the reading of a word of 2 bytes. -/
theorem Sys2Proof.Laws.Stt.of2 {i : Instr} {e : Nat} (hl : encodeLength i = 2) (he : encode i = e)
    (g : decode16 e = .ok i) : RoundTrip.Statement i := fun _ _ => by rw [hl, he, decodeWord_2, g]
/-- The same, with the operands' bounds. -/
theorem Sys2Proof.Laws.Stt.of2w {i : Instr} {e : Nat} (hl : encodeLength i = 2) (he : encode i = e)
    (g : i.wellFormed = true → decode16 e = .ok i) : RoundTrip.Statement i := fun _ h => by rw [hl, he, decodeWord_2, g h]
/-- The statement from the reading of a word of 4 bytes. -/
theorem Sys2Proof.Laws.Stt.of4 {i : Instr} {e : Nat} (hl : encodeLength i = 4) (he : encode i = e)
    (g : decode32 e = .ok i) : RoundTrip.Statement i := fun _ _ => by rw [hl, he, decodeWord_4, g]
/-- The same, with the operands' bounds. -/
theorem Sys2Proof.Laws.Stt.of4w {i : Instr} {e : Nat} (hl : encodeLength i = 4) (he : encode i = e)
    (g : i.wellFormed = true → decode32 e = .ok i) : RoundTrip.Statement i := fun _ h => by rw [hl, he, decodeWord_4, g h]
/-- The statement from the reading of a word of 8 bytes. -/
theorem Sys2Proof.Laws.Stt.of8 {i : Instr} {e : Nat} (hl : encodeLength i = 8) (he : encode i = e)
    (g : decode64 e = .ok i) : RoundTrip.Statement i := fun _ _ => by rw [hl, he, decodeWord_8, g]
/-- The same, with the operands' bounds. -/
theorem Sys2Proof.Laws.Stt.of8w {i : Instr} {e : Nat} (hl : encodeLength i = 8) (he : encode i = e)
    (g : i.wellFormed = true → decode64 e = .ok i) : RoundTrip.Statement i := fun _ h => by rw [hl, he, decodeWord_8, g h]

theorem Sys2Proof.Laws.RoundTrip.add (a : R3) : Sys2Proof.Laws.RoundTrip.Statement (.add a) :=
  Stt.of4 rfl (e := encR3 0x00 0 a) rfl <| rt_R _ a (by decide) (by decide) fun w h1 h2 => (major_00 h1).trans (by rw [h2]; rfl)
theorem Sys2Proof.Laws.RoundTrip.sub (a : R3) : Sys2Proof.Laws.RoundTrip.Statement (.sub a) :=
  Stt.of4 rfl (e := encR3 0x00 1 a) rfl <| rt_R _ a (by decide) (by decide) fun w h1 h2 => (major_00 h1).trans (by rw [h2]; rfl)
theorem Sys2Proof.Laws.RoundTrip.mul (a : R3) : Sys2Proof.Laws.RoundTrip.Statement (.mul a) :=
  Stt.of4 rfl (e := encR3 0x00 2 a) rfl <| rt_R _ a (by decide) (by decide) fun w h1 h2 => (major_00 h1).trans (by rw [h2]; rfl)
theorem Sys2Proof.Laws.RoundTrip.mulh (a : R3) : Sys2Proof.Laws.RoundTrip.Statement (.mulh a) :=
  Stt.of4 rfl (e := encR3 0x00 3 a) rfl <| rt_R _ a (by decide) (by decide) fun w h1 h2 => (major_00 h1).trans (by rw [h2]; rfl)
theorem Sys2Proof.Laws.RoundTrip.mulhn (a : R3) : Sys2Proof.Laws.RoundTrip.Statement (.mulhn a) :=
  Stt.of4 rfl (e := encR3 0x00 4 a) rfl <| rt_R _ a (by decide) (by decide) fun w h1 h2 => (major_00 h1).trans (by rw [h2]; rfl)
theorem Sys2Proof.Laws.RoundTrip.div (a : R3) : Sys2Proof.Laws.RoundTrip.Statement (.div a) :=
  Stt.of4 rfl (e := encR3 0x00 5 a) rfl <| rt_R _ a (by decide) (by decide) fun w h1 h2 => (major_00 h1).trans (by rw [h2]; rfl)
theorem Sys2Proof.Laws.RoundTrip.divn (a : R3) : Sys2Proof.Laws.RoundTrip.Statement (.divn a) :=
  Stt.of4 rfl (e := encR3 0x00 6 a) rfl <| rt_R _ a (by decide) (by decide) fun w h1 h2 => (major_00 h1).trans (by rw [h2]; rfl)
theorem Sys2Proof.Laws.RoundTrip.rem (a : R3) : Sys2Proof.Laws.RoundTrip.Statement (.rem a) :=
  Stt.of4 rfl (e := encR3 0x00 7 a) rfl <| rt_R _ a (by decide) (by decide) fun w h1 h2 => (major_00 h1).trans (by rw [h2]; rfl)
theorem Sys2Proof.Laws.RoundTrip.remn (a : R3) : Sys2Proof.Laws.RoundTrip.Statement (.remn a) :=
  Stt.of4 rfl (e := encR3 0x00 8 a) rfl <| rt_R _ a (by decide) (by decide) fun w h1 h2 => (major_00 h1).trans (by rw [h2]; rfl)
theorem Sys2Proof.Laws.RoundTrip.and (a : R3) : Sys2Proof.Laws.RoundTrip.Statement (.and a) :=
  Stt.of4 rfl (e := encR3 0x00 9 a) rfl <| rt_R _ a (by decide) (by decide) fun w h1 h2 => (major_00 h1).trans (by rw [h2]; rfl)
theorem Sys2Proof.Laws.RoundTrip.or (a : R3) : Sys2Proof.Laws.RoundTrip.Statement (.or a) :=
  Stt.of4 rfl (e := encR3 0x00 10 a) rfl <| rt_R _ a (by decide) (by decide) fun w h1 h2 => (major_00 h1).trans (by rw [h2]; rfl)
theorem Sys2Proof.Laws.RoundTrip.xor (a : R3) : Sys2Proof.Laws.RoundTrip.Statement (.xor a) :=
  Stt.of4 rfl (e := encR3 0x00 11 a) rfl <| rt_R _ a (by decide) (by decide) fun w h1 h2 => (major_00 h1).trans (by rw [h2]; rfl)
theorem Sys2Proof.Laws.RoundTrip.sll (a : R3) : Sys2Proof.Laws.RoundTrip.Statement (.sll a) :=
  Stt.of4 rfl (e := encR3 0x00 12 a) rfl <| rt_R _ a (by decide) (by decide) fun w h1 h2 => (major_00 h1).trans (by rw [h2]; rfl)
theorem Sys2Proof.Laws.RoundTrip.srl (a : R3) : Sys2Proof.Laws.RoundTrip.Statement (.srl a) :=
  Stt.of4 rfl (e := encR3 0x00 13 a) rfl <| rt_R _ a (by decide) (by decide) fun w h1 h2 => (major_00 h1).trans (by rw [h2]; rfl)
theorem Sys2Proof.Laws.RoundTrip.sra (a : R3) : Sys2Proof.Laws.RoundTrip.Statement (.sra a) :=
  Stt.of4 rfl (e := encR3 0x00 14 a) rfl <| rt_R _ a (by decide) (by decide) fun w h1 h2 => (major_00 h1).trans (by rw [h2]; rfl)
theorem Sys2Proof.Laws.RoundTrip.slt (a : R3) : Sys2Proof.Laws.RoundTrip.Statement (.slt a) :=
  Stt.of4 rfl (e := encR3 0x01 0 a) rfl <| rt_R _ a (by decide) (by decide) fun w h1 h2 => (major_01 h1).trans (by rw [h2]; rfl)
theorem Sys2Proof.Laws.RoundTrip.sltn (a : R3) : Sys2Proof.Laws.RoundTrip.Statement (.sltn a) :=
  Stt.of4 rfl (e := encR3 0x01 1 a) rfl <| rt_R _ a (by decide) (by decide) fun w h1 h2 => (major_01 h1).trans (by rw [h2]; rfl)
theorem Sys2Proof.Laws.RoundTrip.min (a : R3) : Sys2Proof.Laws.RoundTrip.Statement (.min a) :=
  Stt.of4 rfl (e := encR3 0x01 2 a) rfl <| rt_R _ a (by decide) (by decide) fun w h1 h2 => (major_01 h1).trans (by rw [h2]; rfl)
theorem Sys2Proof.Laws.RoundTrip.max (a : R3) : Sys2Proof.Laws.RoundTrip.Statement (.max a) :=
  Stt.of4 rfl (e := encR3 0x01 3 a) rfl <| rt_R _ a (by decide) (by decide) fun w h1 h2 => (major_01 h1).trans (by rw [h2]; rfl)
theorem Sys2Proof.Laws.RoundTrip.minn (a : R3) : Sys2Proof.Laws.RoundTrip.Statement (.minn a) :=
  Stt.of4 rfl (e := encR3 0x01 4 a) rfl <| rt_R _ a (by decide) (by decide) fun w h1 h2 => (major_01 h1).trans (by rw [h2]; rfl)
theorem Sys2Proof.Laws.RoundTrip.maxn (a : R3) : Sys2Proof.Laws.RoundTrip.Statement (.maxn a) :=
  Stt.of4 rfl (e := encR3 0x01 5 a) rfl <| rt_R _ a (by decide) (by decide) fun w h1 h2 => (major_01 h1).trans (by rw [h2]; rfl)
theorem Sys2Proof.Laws.RoundTrip.clz (a : R2) : Sys2Proof.Laws.RoundTrip.Statement (.clz a) :=
  Stt.of4 rfl (e := encR 0x01 6 a.rd a.rs1 0 0) rfl <| rt_R1 _ a (by decide) (by decide) fun w h1 h2 => (major_01 h1).trans (by rw [h2]; rfl)
theorem Sys2Proof.Laws.RoundTrip.ctz (a : R2) : Sys2Proof.Laws.RoundTrip.Statement (.ctz a) :=
  Stt.of4 rfl (e := encR 0x01 7 a.rd a.rs1 0 0) rfl <| rt_R1 _ a (by decide) (by decide) fun w h1 h2 => (major_01 h1).trans (by rw [h2]; rfl)
theorem Sys2Proof.Laws.RoundTrip.popc (a : R2) : Sys2Proof.Laws.RoundTrip.Statement (.popc a) :=
  Stt.of4 rfl (e := encR 0x01 8 a.rd a.rs1 0 0) rfl <| rt_R1 _ a (by decide) (by decide) fun w h1 h2 => (major_01 h1).trans (by rw [h2]; rfl)
theorem Sys2Proof.Laws.RoundTrip.bext (a : R3) : Sys2Proof.Laws.RoundTrip.Statement (.bext a) :=
  Stt.of4 rfl (e := encR3 0x01 9 a) rfl <| rt_R _ a (by decide) (by decide) fun w h1 h2 => (major_01 h1).trans (by rw [h2]; rfl)
theorem Sys2Proof.Laws.RoundTrip.bins (a : R3) : Sys2Proof.Laws.RoundTrip.Statement (.bins a) :=
  Stt.of4 rfl (e := encR3 0x01 10 a) rfl <| rt_R _ a (by decide) (by decide) fun w h1 h2 => (major_01 h1).trans (by rw [h2]; rfl)
theorem Sys2Proof.Laws.RoundTrip.addi (a : IArgs) : Sys2Proof.Laws.RoundTrip.Statement (.addi a) :=
  Stt.of4 rfl (e := encI 0x02 0 a.rd a.rs1 a.imm.toNat) rfl <| rt_I _ a (by decide) (by decide) fun w h1 h2 => (major_02 h1).trans (by rw [h2]; rfl)
theorem Sys2Proof.Laws.RoundTrip.andi (a : IArgs) : Sys2Proof.Laws.RoundTrip.Statement (.andi a) :=
  Stt.of4 rfl (e := encI 0x02 1 a.rd a.rs1 a.imm.toNat) rfl <| rt_I _ a (by decide) (by decide) fun w h1 h2 => (major_02 h1).trans (by rw [h2]; rfl)
theorem Sys2Proof.Laws.RoundTrip.ori (a : IArgs) : Sys2Proof.Laws.RoundTrip.Statement (.ori a) :=
  Stt.of4 rfl (e := encI 0x02 2 a.rd a.rs1 a.imm.toNat) rfl <| rt_I _ a (by decide) (by decide) fun w h1 h2 => (major_02 h1).trans (by rw [h2]; rfl)
theorem Sys2Proof.Laws.RoundTrip.xori (a : IArgs) : Sys2Proof.Laws.RoundTrip.Statement (.xori a) :=
  Stt.of4 rfl (e := encI 0x02 3 a.rd a.rs1 a.imm.toNat) rfl <| rt_I _ a (by decide) (by decide) fun w h1 h2 => (major_02 h1).trans (by rw [h2]; rfl)
theorem Sys2Proof.Laws.RoundTrip.slti (a : IArgs) : Sys2Proof.Laws.RoundTrip.Statement (.slti a) :=
  Stt.of4 rfl (e := encI 0x03 0 a.rd a.rs1 a.imm.toNat) rfl <| rt_I _ a (by decide) (by decide) fun w h1 h2 => (major_03 h1).trans (by rw [h2]; rfl)
theorem Sys2Proof.Laws.RoundTrip.sltin (a : IArgs) : Sys2Proof.Laws.RoundTrip.Statement (.sltin a) :=
  Stt.of4 rfl (e := encI 0x03 1 a.rd a.rs1 a.imm.toNat) rfl <| rt_I _ a (by decide) (by decide) fun w h1 h2 => (major_03 h1).trans (by rw [h2]; rfl)
theorem Sys2Proof.Laws.RoundTrip.jalr (a : IArgs) : Sys2Proof.Laws.RoundTrip.Statement (.jalr a) :=
  Stt.of4 rfl (e := encI 0x03 2 a.rd a.rs1 a.imm.toNat) rfl <| rt_I _ a (by decide) (by decide) fun w h1 h2 => (major_03 h1).trans (by rw [h2]; rfl)
theorem Sys2Proof.Laws.RoundTrip.slli (a : ShArgs) : Sys2Proof.Laws.RoundTrip.Statement (.slli a) :=
  Stt.of4 rfl (e := encI 0x04 0 a.rd a.rs1 a.count.toNat) rfl <| rt_Sh _ a (by decide) (by decide) fun w h1 h2 => (major_04 h1).trans (by rw [h2]; rfl)
theorem Sys2Proof.Laws.RoundTrip.srli (a : ShArgs) : Sys2Proof.Laws.RoundTrip.Statement (.srli a) :=
  Stt.of4 rfl (e := encI 0x04 1 a.rd a.rs1 a.count.toNat) rfl <| rt_Sh _ a (by decide) (by decide) fun w h1 h2 => (major_04 h1).trans (by rw [h2]; rfl)
theorem Sys2Proof.Laws.RoundTrip.srai (a : ShArgs) : Sys2Proof.Laws.RoundTrip.Statement (.srai a) :=
  Stt.of4 rfl (e := encI 0x04 2 a.rd a.rs1 a.count.toNat) rfl <| rt_Sh _ a (by decide) (by decide) fun w h1 h2 => (major_04 h1).trans (by rw [h2]; rfl)
theorem Sys2Proof.Laws.RoundTrip.lui (a : UArgs) : Sys2Proof.Laws.RoundTrip.Statement (.lui a) :=
  Stt.of4 rfl (e := encU 0x05 a) rfl <| rt_U _ a (by decide) fun w h => major_05 h
theorem Sys2Proof.Laws.RoundTrip.auipc (a : UArgs) : Sys2Proof.Laws.RoundTrip.Statement (.auipc a) :=
  Stt.of4 rfl (e := encU 0x06 a) rfl <| rt_U _ a (by decide) fun w h => major_06 h
theorem Sys2Proof.Laws.RoundTrip.jal (a : UArgs) : Sys2Proof.Laws.RoundTrip.Statement (.jal a) :=
  Stt.of4 rfl (e := encU 0x07 a) rfl <| rt_U _ a (by decide) fun w h => major_07 h
theorem Sys2Proof.Laws.RoundTrip.beq (a : BArgs) : Sys2Proof.Laws.RoundTrip.Statement (.beq a) :=
  Stt.of4 rfl (e := encB 0x08 0 a.rs1 a.rs2 a.off.toNat) rfl <| rt_B _ a (by decide) (by decide) fun w h1 h2 => (major_08 h1).trans (by rw [h2]; rfl)
theorem Sys2Proof.Laws.RoundTrip.bne (a : BArgs) : Sys2Proof.Laws.RoundTrip.Statement (.bne a) :=
  Stt.of4 rfl (e := encB 0x08 1 a.rs1 a.rs2 a.off.toNat) rfl <| rt_B _ a (by decide) (by decide) fun w h1 h2 => (major_08 h1).trans (by rw [h2]; rfl)
theorem Sys2Proof.Laws.RoundTrip.blt (a : BArgs) : Sys2Proof.Laws.RoundTrip.Statement (.blt a) :=
  Stt.of4 rfl (e := encB 0x08 2 a.rs1 a.rs2 a.off.toNat) rfl <| rt_B _ a (by decide) (by decide) fun w h1 h2 => (major_08 h1).trans (by rw [h2]; rfl)
theorem Sys2Proof.Laws.RoundTrip.bge (a : BArgs) : Sys2Proof.Laws.RoundTrip.Statement (.bge a) :=
  Stt.of4 rfl (e := encB 0x08 3 a.rs1 a.rs2 a.off.toNat) rfl <| rt_B _ a (by decide) (by decide) fun w h1 h2 => (major_08 h1).trans (by rw [h2]; rfl)
theorem Sys2Proof.Laws.RoundTrip.bltn (a : BArgs) : Sys2Proof.Laws.RoundTrip.Statement (.bltn a) :=
  Stt.of4 rfl (e := encB 0x08 4 a.rs1 a.rs2 a.off.toNat) rfl <| rt_B _ a (by decide) (by decide) fun w h1 h2 => (major_08 h1).trans (by rw [h2]; rfl)
theorem Sys2Proof.Laws.RoundTrip.bgen (a : BArgs) : Sys2Proof.Laws.RoundTrip.Statement (.bgen a) :=
  Stt.of4 rfl (e := encB 0x08 5 a.rs1 a.rs2 a.off.toNat) rfl <| rt_B _ a (by decide) (by decide) fun w h1 h2 => (major_08 h1).trans (by rw [h2]; rfl)
theorem Sys2Proof.Laws.RoundTrip.bany (a : MBArgs) : Sys2Proof.Laws.RoundTrip.Statement (.bany a) :=
  Stt.of4 rfl (e := encB 0x09 0 a.md 0 a.off.toNat) rfl <| rt_MB _ a (by decide) (by decide) fun w h1 h2 => (major_09 h1).trans (by rw [h2]; rfl)
theorem Sys2Proof.Laws.RoundTrip.ball (a : MBArgs) : Sys2Proof.Laws.RoundTrip.Statement (.ball a) :=
  Stt.of4 rfl (e := encB 0x09 1 a.md 0 a.off.toNat) rfl <| rt_MB _ a (by decide) (by decide) fun w h1 h2 => (major_09 h1).trans (by rw [h2]; rfl)
theorem Sys2Proof.Laws.RoundTrip.bnone (a : MBArgs) : Sys2Proof.Laws.RoundTrip.Statement (.bnone a) :=
  Stt.of4 rfl (e := encB 0x09 2 a.md 0 a.off.toNat) rfl <| rt_MB _ a (by decide) (by decide) fun w h1 h2 => (major_09 h1).trans (by rw [h2]; rfl)
theorem Sys2Proof.Laws.RoundTrip.bqz (off : BitVec 11) : Sys2Proof.Laws.RoundTrip.Statement (.bqz off) :=
  Stt.of4 rfl (e := encB 0x09 3 0 0 off.toNat) rfl <| rt_BQ _ off (by decide) (by decide) fun w h1 h2 => (major_09 h1).trans (by rw [h2]; rfl)
theorem Sys2Proof.Laws.RoundTrip.bqnz (off : BitVec 11) : Sys2Proof.Laws.RoundTrip.Statement (.bqnz off) :=
  Stt.of4 rfl (e := encB 0x09 4 0 0 off.toNat) rfl <| rt_BQ _ off (by decide) (by decide) fun w h1 h2 => (major_09 h1).trans (by rw [h2]; rfl)
theorem Sys2Proof.Laws.rd_ld (a : LArgs) {z : Nat} (hm : bits z 2 6 = 0x0A) (h0 : bits z 23 3 = a.size.code) (h1 : bits z 26 2 = a.space.code) (h2 : bits z 8 5 = a.rd.val) (h3 : bits z 13 5 = a.rs1.val) (h4 : bits z 28 4 = a.imm.toNat / 32) (h5 : bits z 18 5 = a.imm.toNat % 32) :
    decode32 z = .ok (.ld a) := by
  rw [major_0A hm]; simp [dec0A, h0, h1, reg_eq h2, reg_eq h3, h4, h5, ldSize_code, space_code, imm9_join, coded]
theorem Sys2Proof.Laws.RoundTrip.ld (a : LArgs) : Sys2Proof.Laws.RoundTrip.Statement (.ld a) :=
  Stt.of4 rfl (e := maj 0x0A + a.rd * 2 ^ 8 + a.rs1 * 2 ^ 13 + a.imm.toNat % 32 * 2 ^ 18 + a.size.code * 2 ^ 23 + a.space.code * 2 ^ 26 + a.imm.toNat / 32 * 2 ^ 28) rfl <| rd_ld a (by have := ldSize_lt a.size; have := space_lt a.space; have : a.imm.toNat / 32 < 16 := (by omega); have : a.imm.toNat % 32 < 32 := (by omega); simp only [bits, maj]; generalize a.imm.toNat / 32 = hi at *; generalize a.imm.toNat % 32 = lw at *; omega) (by have := ldSize_lt a.size; have := space_lt a.space; have : a.imm.toNat / 32 < 16 := (by omega); have : a.imm.toNat % 32 < 32 := (by omega); simp only [bits, maj]; generalize a.imm.toNat / 32 = hi at *; generalize a.imm.toNat % 32 = lw at *; omega) (by have := ldSize_lt a.size; have := space_lt a.space; have : a.imm.toNat / 32 < 16 := (by omega); have : a.imm.toNat % 32 < 32 := (by omega); simp only [bits, maj]; generalize a.imm.toNat / 32 = hi at *; generalize a.imm.toNat % 32 = lw at *; omega) (by have := ldSize_lt a.size; have := space_lt a.space; have : a.imm.toNat / 32 < 16 := (by omega); have : a.imm.toNat % 32 < 32 := (by omega); simp only [bits, maj]; generalize a.imm.toNat / 32 = hi at *; generalize a.imm.toNat % 32 = lw at *; omega) (by have := ldSize_lt a.size; have := space_lt a.space; have : a.imm.toNat / 32 < 16 := (by omega); have : a.imm.toNat % 32 < 32 := (by omega); simp only [bits, maj]; generalize a.imm.toNat / 32 = hi at *; generalize a.imm.toNat % 32 = lw at *; omega) (by have := ldSize_lt a.size; have := space_lt a.space; have : a.imm.toNat / 32 < 16 := (by omega); have : a.imm.toNat % 32 < 32 := (by omega); simp only [bits, maj]; generalize a.imm.toNat / 32 = hi at *; generalize a.imm.toNat % 32 = lw at *; omega) (by have := ldSize_lt a.size; have := space_lt a.space; have : a.imm.toNat / 32 < 16 := (by omega); have : a.imm.toNat % 32 < 32 := (by omega); simp only [bits, maj]; generalize a.imm.toNat / 32 = hi at *; generalize a.imm.toNat % 32 = lw at *; omega)
theorem Sys2Proof.Laws.rd_st (a : SArgs) {z : Nat} (hm : bits z 2 6 = 0x0B) (h0 : bits z 23 3 = a.size.code) (h1 : bits z 26 2 = a.space.code) (h2 : bits z 18 5 = a.rs2.val) (h3 : bits z 13 5 = a.rs1.val) (h4 : bits z 28 4 = a.imm.toNat / 32) (h5 : bits z 8 5 = a.imm.toNat % 32) :
    decode32 z = .ok (.st a) := by
  rw [major_0B hm]; simp [dec0B, h0, h1, reg_eq h2, reg_eq h3, h4, h5, stSize_code, space_code, imm9_join, coded]
theorem Sys2Proof.Laws.RoundTrip.st (a : SArgs) : Sys2Proof.Laws.RoundTrip.Statement (.st a) :=
  Stt.of4 rfl (e := maj 0x0B + a.imm.toNat % 32 * 2 ^ 8 + a.rs1 * 2 ^ 13 + a.rs2 * 2 ^ 18 + a.size.code * 2 ^ 23 + a.space.code * 2 ^ 26 + a.imm.toNat / 32 * 2 ^ 28) rfl <| rd_st a (by have := stSize_lt a.size; have := space_lt a.space; have : a.imm.toNat / 32 < 16 := (by omega); have : a.imm.toNat % 32 < 32 := (by omega); simp only [bits, maj]; generalize a.imm.toNat / 32 = hi at *; generalize a.imm.toNat % 32 = lw at *; omega) (by have := stSize_lt a.size; have := space_lt a.space; have : a.imm.toNat / 32 < 16 := (by omega); have : a.imm.toNat % 32 < 32 := (by omega); simp only [bits, maj]; generalize a.imm.toNat / 32 = hi at *; generalize a.imm.toNat % 32 = lw at *; omega) (by have := stSize_lt a.size; have := space_lt a.space; have : a.imm.toNat / 32 < 16 := (by omega); have : a.imm.toNat % 32 < 32 := (by omega); simp only [bits, maj]; generalize a.imm.toNat / 32 = hi at *; generalize a.imm.toNat % 32 = lw at *; omega) (by have := stSize_lt a.size; have := space_lt a.space; have : a.imm.toNat / 32 < 16 := (by omega); have : a.imm.toNat % 32 < 32 := (by omega); simp only [bits, maj]; generalize a.imm.toNat / 32 = hi at *; generalize a.imm.toNat % 32 = lw at *; omega) (by have := stSize_lt a.size; have := space_lt a.space; have : a.imm.toNat / 32 < 16 := (by omega); have : a.imm.toNat % 32 < 32 := (by omega); simp only [bits, maj]; generalize a.imm.toNat / 32 = hi at *; generalize a.imm.toNat % 32 = lw at *; omega) (by have := stSize_lt a.size; have := space_lt a.space; have : a.imm.toNat / 32 < 16 := (by omega); have : a.imm.toNat % 32 < 32 := (by omega); simp only [bits, maj]; generalize a.imm.toNat / 32 = hi at *; generalize a.imm.toNat % 32 = lw at *; omega) (by have := stSize_lt a.size; have := space_lt a.space; have : a.imm.toNat / 32 < 16 := (by omega); have : a.imm.toNat % 32 < 32 := (by omega); simp only [bits, maj]; generalize a.imm.toNat / 32 = hi at *; generalize a.imm.toNat % 32 = lw at *; omega)
theorem Sys2Proof.Laws.rd_ldAcq (a : LAcqArgs) {z : Nat} (hm : bits z 2 6 = 0x0C) (h0 : bits z 28 3 = a.scope.code) (h1 : bits z 31 1 = 0) (h2 : bits z 23 3 = a.size.code) (h3 : bits z 26 2 = a.space.code) (h4 : bits z 8 5 = a.rd.val) (h5 : bits z 13 5 = a.rs1.val) (h6 : bits z 18 5 = 0) :
    decode32 z = .ok (.ldAcq a) := by
  rw [major_0C hm]; simp [dec0C, h0, h1, h2, h3, reg_eq h4, reg_eq h5, h6, ldSize_code, space_code, scope_code, coded, zero]
theorem Sys2Proof.Laws.RoundTrip.ldAcq (a : LAcqArgs) : Sys2Proof.Laws.RoundTrip.Statement (.ldAcq a) :=
  Stt.of4 rfl (e := maj 0x0C + a.rd * 2 ^ 8 + a.rs1 * 2 ^ 13 + a.size.code * 2 ^ 23 + a.space.code * 2 ^ 26 + a.scope.code * 2 ^ 28) rfl <| rd_ldAcq a (by have := ldSize_lt a.size; have := space_lt a.space; have := scope_lt a.scope; simp only [bits, maj]; omega) (by have := ldSize_lt a.size; have := space_lt a.space; have := scope_lt a.scope; simp only [bits, maj]; omega) (by have := ldSize_lt a.size; have := space_lt a.space; have := scope_lt a.scope; simp only [bits, maj]; omega) (by have := ldSize_lt a.size; have := space_lt a.space; have := scope_lt a.scope; simp only [bits, maj]; omega) (by have := ldSize_lt a.size; have := space_lt a.space; have := scope_lt a.scope; simp only [bits, maj]; omega) (by have := ldSize_lt a.size; have := space_lt a.space; have := scope_lt a.scope; simp only [bits, maj]; omega) (by have := ldSize_lt a.size; have := space_lt a.space; have := scope_lt a.scope; simp only [bits, maj]; omega) (by have := ldSize_lt a.size; have := space_lt a.space; have := scope_lt a.scope; simp only [bits, maj]; omega)
theorem Sys2Proof.Laws.rd_stRel (a : SRelArgs) {z : Nat} (hm : bits z 2 6 = 0x0C) (h0 : bits z 28 3 = a.scope.code) (h1 : bits z 31 1 = 1) (h2 : bits z 23 3 = a.size.code) (h3 : bits z 26 2 = a.space.code) (h4 : bits z 18 5 = a.rs2.val) (h5 : bits z 13 5 = a.rs1.val) (h6 : bits z 8 5 = 0) :
    decode32 z = .ok (.stRel a) := by
  rw [major_0C hm]; simp [dec0C, h0, h1, h2, h3, reg_eq h4, reg_eq h5, h6, stSize_code, space_code, scope_code, coded, zero]
theorem Sys2Proof.Laws.RoundTrip.stRel (a : SRelArgs) : Sys2Proof.Laws.RoundTrip.Statement (.stRel a) :=
  Stt.of4 rfl (e := maj 0x0C + a.rs1 * 2 ^ 13 + a.rs2 * 2 ^ 18 + a.size.code * 2 ^ 23 + a.space.code * 2 ^ 26 + a.scope.code * 2 ^ 28 + 2 ^ 31) rfl <| rd_stRel a (by have := stSize_lt a.size; have := space_lt a.space; have := scope_lt a.scope; simp only [bits, maj]; omega) (by have := stSize_lt a.size; have := space_lt a.space; have := scope_lt a.scope; simp only [bits, maj]; omega) (by have := stSize_lt a.size; have := space_lt a.space; have := scope_lt a.scope; simp only [bits, maj]; omega) (by have := stSize_lt a.size; have := space_lt a.space; have := scope_lt a.scope; simp only [bits, maj]; omega) (by have := stSize_lt a.size; have := space_lt a.space; have := scope_lt a.scope; simp only [bits, maj]; omega) (by have := stSize_lt a.size; have := space_lt a.space; have := scope_lt a.scope; simp only [bits, maj]; omega) (by have := stSize_lt a.size; have := space_lt a.space; have := scope_lt a.scope; simp only [bits, maj]; omega) (by have := stSize_lt a.size; have := space_lt a.space; have := scope_lt a.scope; simp only [bits, maj]; omega)
theorem Sys2Proof.Laws.RoundTrip.amoadd (a : AArgs) : Sys2Proof.Laws.RoundTrip.Statement (.amoadd a) :=
  Stt.of4 rfl (e := encAA 0x0D 0 a) rfl <| rt_A _ a (by decide) (by decide) fun w h1 h2 => (major_0D h1).trans (by rw [h2]; rfl)
theorem Sys2Proof.Laws.RoundTrip.amoand (a : AArgs) : Sys2Proof.Laws.RoundTrip.Statement (.amoand a) :=
  Stt.of4 rfl (e := encAA 0x0D 1 a) rfl <| rt_A _ a (by decide) (by decide) fun w h1 h2 => (major_0D h1).trans (by rw [h2]; rfl)
theorem Sys2Proof.Laws.RoundTrip.amoor (a : AArgs) : Sys2Proof.Laws.RoundTrip.Statement (.amoor a) :=
  Stt.of4 rfl (e := encAA 0x0D 2 a) rfl <| rt_A _ a (by decide) (by decide) fun w h1 h2 => (major_0D h1).trans (by rw [h2]; rfl)
theorem Sys2Proof.Laws.RoundTrip.amoxor (a : AArgs) : Sys2Proof.Laws.RoundTrip.Statement (.amoxor a) :=
  Stt.of4 rfl (e := encAA 0x0D 3 a) rfl <| rt_A _ a (by decide) (by decide) fun w h1 h2 => (major_0D h1).trans (by rw [h2]; rfl)
theorem Sys2Proof.Laws.RoundTrip.amomin (a : AArgs) : Sys2Proof.Laws.RoundTrip.Statement (.amomin a) :=
  Stt.of4 rfl (e := encAA 0x0E 0 a) rfl <| rt_A _ a (by decide) (by decide) fun w h1 h2 => (major_0E h1).trans (by rw [h2]; rfl)
theorem Sys2Proof.Laws.RoundTrip.amomax (a : AArgs) : Sys2Proof.Laws.RoundTrip.Statement (.amomax a) :=
  Stt.of4 rfl (e := encAA 0x0E 1 a) rfl <| rt_A _ a (by decide) (by decide) fun w h1 h2 => (major_0E h1).trans (by rw [h2]; rfl)
theorem Sys2Proof.Laws.RoundTrip.amoswp (a : AArgs) : Sys2Proof.Laws.RoundTrip.Statement (.amoswp a) :=
  Stt.of4 rfl (e := encAA 0x0E 2 a) rfl <| rt_A _ a (by decide) (by decide) fun w h1 h2 => (major_0E h1).trans (by rw [h2]; rfl)
theorem Sys2Proof.Laws.RoundTrip.cas (a : AArgs) : Sys2Proof.Laws.RoundTrip.Statement (.cas a) :=
  Stt.of4 rfl (e := encAA 0x0E 3 a) rfl <| rt_A _ a (by decide) (by decide) fun w h1 h2 => (major_0E h1).trans (by rw [h2]; rfl)
theorem Sys2Proof.Laws.RoundTrip.amofadd (a : AArgs) : Sys2Proof.Laws.RoundTrip.Statement (.amofadd a) :=
  Stt.of4 rfl (e := encAA 0x0F 0 a) rfl <| rt_A _ a (by decide) (by decide) fun w h1 h2 => (major_0F h1).trans (by rw [h2]; rfl)
theorem Sys2Proof.Laws.rd_amofaddDet (a : ADetArgs) {z : Nat} (hm : bits z 2 6 = 0x0F) (h0 : bits z 30 2 = 1) (h1 : bits z 26 4 = 0) (h2 : bits z 8 5 = 0) (h3 : bits z 24 2 = a.space.code) (h4 : bits z 23 1 = a.size.code) (h5 : bits z 13 5 = a.rs1.val) (h6 : bits z 18 5 = a.rs2.val) :
    decode32 z = .ok (.amofaddDet a) := by
  rw [major_0F hm]; simp [dec0F, h0, h1, h2, h3, h4, reg_eq h5, reg_eq h6, space_code, atSize_code, zero]
theorem Sys2Proof.Laws.RoundTrip.amofaddDet (a : ADetArgs) : Sys2Proof.Laws.RoundTrip.Statement (.amofaddDet a) :=
  Stt.of4 rfl (e := encA 0x0F 1 .plain a.space a.size 0 a.rs1 a.rs2) rfl <| rd_amofaddDet a (by have := atSize_lt a.size; have := space_lt a.space; have : Order.plain.code = 0 := rfl; simp only [bits, encA, maj]; omega) (by have := atSize_lt a.size; have := space_lt a.space; have : Order.plain.code = 0 := rfl; simp only [bits, encA, maj]; omega) (by have := atSize_lt a.size; have := space_lt a.space; have : Order.plain.code = 0 := rfl; simp only [bits, encA, maj]; omega) (by have := atSize_lt a.size; have := space_lt a.space; have : Order.plain.code = 0 := rfl; simp only [bits, encA, maj]; omega) (by have := atSize_lt a.size; have := space_lt a.space; have : Order.plain.code = 0 := rfl; simp only [bits, encA, maj]; omega) (by have := atSize_lt a.size; have := space_lt a.space; have : Order.plain.code = 0 := rfl; simp only [bits, encA, maj]; omega) (by have := atSize_lt a.size; have := space_lt a.space; have : Order.plain.code = 0 := rfl; simp only [bits, encA, maj]; omega) (by have := atSize_lt a.size; have := space_lt a.space; have : Order.plain.code = 0 := rfl; simp only [bits, encA, maj]; omega)
theorem Sys2Proof.Laws.RoundTrip.fadd (a : F3) : Sys2Proof.Laws.RoundTrip.Statement (.fadd a) :=
  Stt.of4 rfl (e := encF3 0x10 0 a) rfl <| rt_F3 _ a (by decide) (by decide) fun w h1 h2 => (major_10 h1).trans (by simp only [dec10, h2])
theorem Sys2Proof.Laws.RoundTrip.fsub (a : F3) : Sys2Proof.Laws.RoundTrip.Statement (.fsub a) :=
  Stt.of4 rfl (e := encF3 0x10 1 a) rfl <| rt_F3 _ a (by decide) (by decide) fun w h1 h2 => (major_10 h1).trans (by simp only [dec10, h2])
theorem Sys2Proof.Laws.RoundTrip.fmul (a : F3) : Sys2Proof.Laws.RoundTrip.Statement (.fmul a) :=
  Stt.of4 rfl (e := encF3 0x10 2 a) rfl <| rt_F3 _ a (by decide) (by decide) fun w h1 h2 => (major_10 h1).trans (by simp only [dec10, h2])
theorem Sys2Proof.Laws.RoundTrip.fdiv (a : F3) : Sys2Proof.Laws.RoundTrip.Statement (.fdiv a) :=
  Stt.of4 rfl (e := encF3 0x10 3 a) rfl <| rt_F3 _ a (by decide) (by decide) fun w h1 h2 => (major_10 h1).trans (by simp only [dec10, h2])
theorem Sys2Proof.Laws.RoundTrip.fsqrt (a : F2) : Sys2Proof.Laws.RoundTrip.Statement (.fsqrt a) :=
  Stt.of4 rfl (e := encF2 0x10 4 a) rfl <| rt_F2 _ a (by decide) (by decide) fun w h1 h2 => (major_10 h1).trans (by simp only [dec10, h2])
theorem Sys2Proof.Laws.rd_ffma (a : F4) {z : Nat} (hm : bits z 2 6 = 0x10) (h0 : bits z 23 4 = 10 + a.p.code) (h1 : bits z 23 1 = a.p.code) (h2 : bits z 8 5 = a.rd.val) (h3 : bits z 13 5 = a.rs1.val) (h4 : bits z 18 5 = a.rs2.val) (h5 : bits z 27 5 = a.rs3.val) :
    decode32 z = .ok (.ffma a) := by
  have hx : (10 + a.p.code) / 2 = 5 := (by have := prec_lt a.p; omega); rw [major_10 hm]; simp [dec10, h0, h1, reg_eq h2, reg_eq h3, reg_eq h4, reg_eq h5, hx, prec_code]
theorem Sys2Proof.Laws.RoundTrip.ffma (a : F4) : Sys2Proof.Laws.RoundTrip.Statement (.ffma a) :=
  Stt.of4 rfl (e := encR 0x10 (10 + a.p.code) a.rd a.rs1 a.rs2 a.rs3) rfl <| rd_ffma a (by have := prec_lt a.p; simp only [bits, encR, maj]; omega) (by have := prec_lt a.p; simp only [bits, encR, maj]; omega) (by have := prec_lt a.p; simp only [bits, encR, maj]; omega) (by have := prec_lt a.p; simp only [bits, encR, maj]; omega) (by have := prec_lt a.p; simp only [bits, encR, maj]; omega) (by have := prec_lt a.p; simp only [bits, encR, maj]; omega) (by have := prec_lt a.p; simp only [bits, encR, maj]; omega)
theorem Sys2Proof.Laws.RoundTrip.fmin (a : F3) : Sys2Proof.Laws.RoundTrip.Statement (.fmin a) :=
  Stt.of4 rfl (e := encF3 0x10 6 a) rfl <| rt_F3 _ a (by decide) (by decide) fun w h1 h2 => (major_10 h1).trans (by simp only [dec10, h2])
theorem Sys2Proof.Laws.RoundTrip.fmax (a : F3) : Sys2Proof.Laws.RoundTrip.Statement (.fmax a) :=
  Stt.of4 rfl (e := encF3 0x10 7 a) rfl <| rt_F3 _ a (by decide) (by decide) fun w h1 h2 => (major_10 h1).trans (by simp only [dec10, h2])
theorem Sys2Proof.Laws.RoundTrip.fcmpEq (a : F3) : Sys2Proof.Laws.RoundTrip.Statement (.fcmpEq a) :=
  Stt.of4 rfl (e := encF3 0x11 0 a) rfl <| rt_F3 _ a (by decide) (by decide) fun w h1 h2 => (major_11 h1).trans (by simp only [dec11, h2])
theorem Sys2Proof.Laws.RoundTrip.fcmpLt (a : F3) : Sys2Proof.Laws.RoundTrip.Statement (.fcmpLt a) :=
  Stt.of4 rfl (e := encF3 0x11 1 a) rfl <| rt_F3 _ a (by decide) (by decide) fun w h1 h2 => (major_11 h1).trans (by simp only [dec11, h2])
theorem Sys2Proof.Laws.RoundTrip.fcmpLe (a : F3) : Sys2Proof.Laws.RoundTrip.Statement (.fcmpLe a) :=
  Stt.of4 rfl (e := encF3 0x11 2 a) rfl <| rt_F3 _ a (by decide) (by decide) fun w h1 h2 => (major_11 h1).trans (by simp only [dec11, h2])
theorem Sys2Proof.Laws.RoundTrip.fclass (a : F2) : Sys2Proof.Laws.RoundTrip.Statement (.fclass a) :=
  Stt.of4 rfl (e := encF2 0x11 3 a) rfl <| rt_F2 _ a (by decide) (by decide) fun w h1 h2 => (major_11 h1).trans (by simp only [dec11, h2])
theorem Sys2Proof.Laws.rd_fcvt (code : CvtCode) (a : R2) {z : Nat} (hm : bits z 2 6 = 0x11) (h0 : bits z 23 4 = 8) (h1 : bits z 27 5 = 0) (h2 : bits z 18 5 = code.code) (h3 : bits z 8 5 = a.rd.val) (h4 : bits z 13 5 = a.rs1.val) :
    decode32 z = .ok (.fcvt code a) := by
  rw [major_11 hm]; simp [dec11, h0, h1, h2, reg_eq h3, reg_eq h4, cvtCode_code, coded, zero]
theorem Sys2Proof.Laws.RoundTrip.fcvt (code : CvtCode) (a : R2) : Sys2Proof.Laws.RoundTrip.Statement (.fcvt code a) :=
  Stt.of4 rfl (e := encR 0x11 8 a.rd a.rs1 code.code 0) rfl <| rd_fcvt code a (by have := cvtCode_lt code; simp only [bits, encR, maj]; omega) (by have := cvtCode_lt code; simp only [bits, encR, maj]; omega) (by have := cvtCode_lt code; simp only [bits, encR, maj]; omega) (by have := cvtCode_lt code; simp only [bits, encR, maj]; omega) (by have := cvtCode_lt code; simp only [bits, encR, maj]; omega) (by have := cvtCode_lt code; simp only [bits, encR, maj]; omega)
theorem Sys2Proof.Laws.rd_mfs (rd : Reg) (reg : BitVec 12) {z : Nat} (hm : bits z 2 6 = 0x12) (h0 : bits z 18 2 = 0) (h1 : bits z 13 5 = 0) (h2 : bits z 8 5 = rd.val) (h3 : bits z 20 12 = reg.toNat) :
    decode32 z = .ok (.mfs rd reg) := by
  rw [major_12 hm]; simp [dec12, h0, h1, reg_eq h2, h3, zero]
theorem Sys2Proof.Laws.RoundTrip.mfs (rd : Reg) (reg : BitVec 12) : Sys2Proof.Laws.RoundTrip.Statement (.mfs rd reg) :=
  Stt.of4 rfl (e := encI 0x12 0 rd 0 reg.toNat) rfl <| rd_mfs rd reg (by simp only [bits, encI, maj]; omega) (by simp only [bits, encI, maj]; omega) (by simp only [bits, encI, maj]; omega) (by simp only [bits, encI, maj]; omega) (by simp only [bits, encI, maj]; omega)
theorem Sys2Proof.Laws.rd_mts (reg : BitVec 12) (rs1 : Reg) {z : Nat} (hm : bits z 2 6 = 0x12) (h0 : bits z 18 2 = 1) (h1 : bits z 8 5 = 0) (h2 : bits z 13 5 = rs1.val) (h3 : bits z 20 12 = reg.toNat) :
    decode32 z = .ok (.mts reg rs1) := by
  rw [major_12 hm]; simp [dec12, h0, h1, reg_eq h2, h3, zero]
theorem Sys2Proof.Laws.RoundTrip.mts (reg : BitVec 12) (rs1 : Reg) : Sys2Proof.Laws.RoundTrip.Statement (.mts reg rs1) :=
  Stt.of4 rfl (e := encI 0x12 1 0 rs1 reg.toNat) rfl <| rd_mts reg rs1 (by simp only [bits, encI, maj]; omega) (by simp only [bits, encI, maj]; omega) (by simp only [bits, encI, maj]; omega) (by simp only [bits, encI, maj]; omega) (by simp only [bits, encI, maj]; omega)
theorem Sys2Proof.Laws.rd_trap (imm : BitVec 12) {z : Nat} (hm : bits z 2 6 = 0x12) (h0 : bits z 18 2 = 2) (h1 : bits z 13 5 = 0) (h2 : bits z 8 5 = 0) (h3 : bits z 20 12 = imm.toNat) :
    decode32 z = .ok (.trap imm) := by
  rw [major_12 hm]; simp [dec12, h0, h1, h2, h3, zero]
theorem Sys2Proof.Laws.RoundTrip.trap (imm : BitVec 12) : Sys2Proof.Laws.RoundTrip.Statement (.trap imm) :=
  Stt.of4 rfl (e := encI 0x12 2 0 0 imm.toNat) rfl <| rd_trap imm (by simp only [bits, encI, maj]; omega) (by simp only [bits, encI, maj]; omega) (by simp only [bits, encI, maj]; omega) (by simp only [bits, encI, maj]; omega) (by simp only [bits, encI, maj]; omega)
theorem Sys2Proof.Laws.RoundTrip.nop : Sys2Proof.Laws.RoundTrip.Statement (.nop) :=
  Stt.of4 rfl (e := encR 0x13 0 0 0 0 0) rfl <| rt_Plain _ (by decide) (by decide) fun w h1 h2 => (major_13 h1).trans (by rw [h2]; rfl)
theorem Sys2Proof.Laws.RoundTrip.halt : Sys2Proof.Laws.RoundTrip.Statement (.halt) :=
  Stt.of4 rfl (e := encR 0x13 1 0 0 0 0) rfl <| rt_Plain _ (by decide) (by decide) fun w h1 h2 => (major_13 h1).trans (by rw [h2]; rfl)
theorem Sys2Proof.Laws.RoundTrip.tack : Sys2Proof.Laws.RoundTrip.Statement (.tack) :=
  Stt.of4 rfl (e := encR 0x13 2 0 0 0 0) rfl <| rt_Plain _ (by decide) (by decide) fun w h1 h2 => (major_13 h1).trans (by rw [h2]; rfl)
theorem Sys2Proof.Laws.RoundTrip.tret : Sys2Proof.Laws.RoundTrip.Statement (.tret) :=
  Stt.of4 rfl (e := encR 0x13 3 0 0 0 0) rfl <| rt_Plain _ (by decide) (by decide) fun w h1 h2 => (major_13 h1).trans (by rw [h2]; rfl)
theorem Sys2Proof.Laws.RoundTrip.convoy : Sys2Proof.Laws.RoundTrip.Statement (.convoy) :=
  Stt.of4 rfl (e := encR 0x13 4 0 0 0 0) rfl <| rt_Plain _ (by decide) (by decide) fun w h1 h2 => (major_13 h1).trans (by rw [h2]; rfl)
theorem Sys2Proof.Laws.RoundTrip.svfence : Sys2Proof.Laws.RoundTrip.Statement (.svfence) :=
  Stt.of4 rfl (e := encR 0x13 5 0 0 0 0) rfl <| rt_Plain _ (by decide) (by decide) fun w h1 h2 => (major_13 h1).trans (by rw [h2]; rfl)
theorem Sys2Proof.Laws.RoundTrip.vlsync : Sys2Proof.Laws.RoundTrip.Statement (.vlsync) :=
  Stt.of4 rfl (e := encR 0x13 6 0 0 0 0) rfl <| rt_Plain _ (by decide) (by decide) fun w h1 h2 => (major_13 h1).trans (by rw [h2]; rfl)
theorem Sys2Proof.Laws.rd_fence (scope : Scope) (pred : FenceKind) (succ : FenceKind) {z : Nat} (hm : bits z 2 6 = 0x13) (h0 : bits z 23 4 = 7) (h1 : bits z 27 5 = 0) (h2 : bits z 21 2 = 0) (h3 : bits z 17 1 = 0) (h4 : bits z 8 5 = 0) (h5 : bits z 18 3 = scope.code) (h6 : bits z 15 2 = pred.code) (h7 : bits z 13 2 = succ.code) :
    decode32 z = .ok (.fence scope pred succ) := by
  rw [major_13 hm]; simp [dec13, h0, h1, h2, h3, h4, h5, h6, h7, scope_code, fenceKind_code, coded, zero]
theorem Sys2Proof.Laws.RoundTrip.fence (scope : Scope) (pred : FenceKind) (succ : FenceKind) : Sys2Proof.Laws.RoundTrip.Statement (.fence scope pred succ) :=
  Stt.of4 rfl (e := maj 0x13 + succ.code * 2 ^ 13 + pred.code * 2 ^ 15 + scope.code * 2 ^ 18 + 7 * 2 ^ 23) rfl <| rd_fence scope pred succ (by have := scope_lt scope; have := fenceKind_lt pred; have := fenceKind_lt succ; simp only [bits, maj]; omega) (by have := scope_lt scope; have := fenceKind_lt pred; have := fenceKind_lt succ; simp only [bits, maj]; omega) (by have := scope_lt scope; have := fenceKind_lt pred; have := fenceKind_lt succ; simp only [bits, maj]; omega) (by have := scope_lt scope; have := fenceKind_lt pred; have := fenceKind_lt succ; simp only [bits, maj]; omega) (by have := scope_lt scope; have := fenceKind_lt pred; have := fenceKind_lt succ; simp only [bits, maj]; omega) (by have := scope_lt scope; have := fenceKind_lt pred; have := fenceKind_lt succ; simp only [bits, maj]; omega) (by have := scope_lt scope; have := fenceKind_lt pred; have := fenceKind_lt succ; simp only [bits, maj]; omega) (by have := scope_lt scope; have := fenceKind_lt pred; have := fenceKind_lt succ; simp only [bits, maj]; omega) (by have := scope_lt scope; have := fenceKind_lt pred; have := fenceKind_lt succ; simp only [bits, maj]; omega)
theorem Sys2Proof.Laws.rd_ltrig (scope : Scope) {z : Nat} (hm : bits z 2 6 = 0x13) (h0 : bits z 23 4 = 8) (h1 : bits z 27 5 = 0) (h2 : bits z 21 2 = 0) (h3 : bits z 8 10 = 0) (h4 : bits z 18 3 = scope.code) (hs : scope = .device ∨ scope = .system) :
    decode32 z = .ok (.ltrig scope) := by
  rw [major_13 hm]; simp [dec13, h0, h1, h2, h3, h4, scope_code, coded, zero, hs]
theorem Sys2Proof.Laws.RoundTrip.ltrig (scope : Scope) : Sys2Proof.Laws.RoundTrip.Statement (.ltrig scope) :=
  Stt.of4w rfl (e := encR 0x13 8 0 0 scope.code 0) rfl fun hw => rd_ltrig scope (by have := scope_lt scope; simp only [bits, encR, maj]; omega) (by have := scope_lt scope; simp only [bits, encR, maj]; omega) (by have := scope_lt scope; simp only [bits, encR, maj]; omega) (by have := scope_lt scope; simp only [bits, encR, maj]; omega) (by have := scope_lt scope; simp only [bits, encR, maj]; omega) (by have := scope_lt scope; simp only [bits, encR, maj]; omega) (by simpa [Instr.wellFormed] using hw)
theorem Sys2Proof.Laws.RoundTrip.vfork (a : R3) : Sys2Proof.Laws.RoundTrip.Statement (.vfork a) :=
  Stt.of4 rfl (e := encR3 0x13 9 a) rfl <| rt_R _ a (by decide) (by decide) fun w h1 h2 => (major_13 h1).trans (by rw [h2]; rfl)
theorem Sys2Proof.Laws.RoundTrip.join (xs : Reg) : Sys2Proof.Laws.RoundTrip.Statement (.join xs) :=
  Stt.of4 rfl (e := encR 0x13 10 0 xs 0 0) rfl <| rt_Xs1 _ xs (by decide) (by decide) fun w h1 h2 => (major_13 h1).trans (by rw [h2]; rfl)
theorem Sys2Proof.Laws.RoundTrip.seal (a : R3) : Sys2Proof.Laws.RoundTrip.Statement (.seal a) :=
  Stt.of4 rfl (e := encR3 0x13 11 a) rfl <| rt_R _ a (by decide) (by decide) fun w h1 h2 => (major_13 h1).trans (by rw [h2]; rfl)
theorem Sys2Proof.Laws.RoundTrip.vsave (xs : Reg) : Sys2Proof.Laws.RoundTrip.Statement (.vsave xs) :=
  Stt.of4 rfl (e := encR 0x13 12 0 xs 0 0) rfl <| rt_Xs1 _ xs (by decide) (by decide) fun w h1 h2 => (major_13 h1).trans (by rw [h2]; rfl)
theorem Sys2Proof.Laws.RoundTrip.vrestore (xs : Reg) : Sys2Proof.Laws.RoundTrip.Statement (.vrestore xs) :=
  Stt.of4 rfl (e := encR 0x13 13 0 xs 0 0) rfl <| rt_Xs1 _ xs (by decide) (by decide) fun w h1 h2 => (major_13 h1).trans (by rw [h2]; rfl)
theorem Sys2Proof.Laws.RoundTrip.apush (xs : Reg) : Sys2Proof.Laws.RoundTrip.Statement (.apush xs) :=
  Stt.of4 rfl (e := encR 0x14 0 0 0 xs 0) rfl <| rt_Qs _ xs (by decide) (by decide) fun w h1 h2 => (major_14 h1).trans (by rw [h2]; rfl)
theorem Sys2Proof.Laws.RoundTrip.apop (rd : Reg) : Sys2Proof.Laws.RoundTrip.Statement (.apop rd) :=
  Stt.of4 rfl (e := encR 0x14 1 rd 0 0 0) rfl <| rt_Qd _ rd (by decide) (by decide) fun w h1 h2 => (major_14 h1).trans (by rw [h2]; rfl)
theorem Sys2Proof.Laws.RoundTrip.cpush (xs : Reg) : Sys2Proof.Laws.RoundTrip.Statement (.cpush xs) :=
  Stt.of4 rfl (e := encR 0x14 2 0 0 xs 0) rfl <| rt_Qs _ xs (by decide) (by decide) fun w h1 h2 => (major_14 h1).trans (by rw [h2]; rfl)
theorem Sys2Proof.Laws.RoundTrip.cpop (rd : Reg) : Sys2Proof.Laws.RoundTrip.Statement (.cpop rd) :=
  Stt.of4 rfl (e := encR 0x14 3 rd 0 0 0) rfl <| rt_Qd _ rd (by decide) (by decide) fun w h1 h2 => (major_14 h1).trans (by rw [h2]; rfl)
theorem Sys2Proof.Laws.RoundTrip.vpush (vs : VReg) : Sys2Proof.Laws.RoundTrip.Statement (.vpush vs) :=
  Stt.of4 rfl (e := encR 0x14 4 0 0 vs 0) rfl <| rt_Qs _ vs (by decide) (by decide) fun w h1 h2 => (major_14 h1).trans (by rw [h2]; rfl)
theorem Sys2Proof.Laws.RoundTrip.vpop (vd : VReg) : Sys2Proof.Laws.RoundTrip.Statement (.vpop vd) :=
  Stt.of4 rfl (e := encR 0x14 5 vd 0 0 0) rfl <| rt_Qd _ vd (by decide) (by decide) fun w h1 h2 => (major_14 h1).trans (by rw [h2]; rfl)
theorem Sys2Proof.Laws.RoundTrip.slipReg (xs : Reg) : Sys2Proof.Laws.RoundTrip.Statement (.slipReg xs) :=
  Stt.of4 rfl (e := encR 0x14 6 0 0 xs 0) rfl <| rt_Qs _ xs (by decide) (by decide) fun w h1 h2 => (major_14 h1).trans (by rw [h2]; rfl)
theorem Sys2Proof.Laws.rd_slipImm (imm : BitVec 4) {z : Nat} (hm : bits z 2 6 = 0x14) (h0 : bits z 23 4 = 7) (h1 : bits z 31 1 = 0) (h2 : bits z 8 15 = 0) (h3 : bits z 27 4 = imm.toNat) (hs : 1 ≤ imm.toNat ∧ imm.toNat ≤ 8) :
    decode32 z = .ok (.slipImm imm) := by
  rw [major_14 hm]; simp [dec14, h0, h1, h2, h3, zero, hs]
theorem Sys2Proof.Laws.RoundTrip.slipImm (imm : BitVec 4) : Sys2Proof.Laws.RoundTrip.Statement (.slipImm imm) :=
  Stt.of4w rfl (e := encR 0x14 7 0 0 0 imm.toNat) rfl fun hw => rd_slipImm imm (by simp only [bits, encR, maj]; omega) (by simp only [bits, encR, maj]; omega) (by simp only [bits, encR, maj]; omega) (by simp only [bits, encR, maj]; omega) (by simp only [bits, encR, maj]; omega) (by simpa [Instr.wellFormed] using hw)
theorem Sys2Proof.Laws.RoundTrip.vsetlQ (rd : Reg) : Sys2Proof.Laws.RoundTrip.Statement (.vsetlQ rd) :=
  Stt.of4 rfl (e := encR 0x14 8 rd 0 0 0) rfl <| rt_Qd _ rd (by decide) (by decide) fun w h1 h2 => (major_14 h1).trans (by rw [h2]; rfl)
theorem Sys2Proof.Laws.rd_vsetl (w : EWidth) (rd : Reg) (xs : Reg) {z : Nat} (hm : bits z 2 6 = 0x14) (h0 : bits z 23 4 = 9) (h1 : bits z 30 2 = 0) (h2 : bits z 13 5 = 0) (h3 : bits z 27 3 = w.code) (h4 : bits z 8 5 = rd.val) (h5 : bits z 18 5 = xs.val) :
    decode32 z = .ok (.vsetl w rd xs) := by
  rw [major_14 hm]; simp [dec14, h0, h1, h2, h3, reg_eq h4, reg_eq h5, eWidth_code, coded, zero]
theorem Sys2Proof.Laws.RoundTrip.vsetl (w : EWidth) (rd : Reg) (xs : Reg) : Sys2Proof.Laws.RoundTrip.Statement (.vsetl w rd xs) :=
  Stt.of4 rfl (e := encR 0x14 9 rd 0 xs w.code) rfl <| rd_vsetl w rd xs (by have := eWidth_lt w; simp only [bits, encR, maj]; omega) (by have := eWidth_lt w; simp only [bits, encR, maj]; omega) (by have := eWidth_lt w; simp only [bits, encR, maj]; omega) (by have := eWidth_lt w; simp only [bits, encR, maj]; omega) (by have := eWidth_lt w; simp only [bits, encR, maj]; omega) (by have := eWidth_lt w; simp only [bits, encR, maj]; omega) (by have := eWidth_lt w; simp only [bits, encR, maj]; omega)
theorem Sys2Proof.Laws.RoundTrip.mtsetGlobal : Sys2Proof.Laws.RoundTrip.Statement (.mtsetGlobal) :=
  Stt.of4 rfl (e := encR 0x14 10 0 0 0 0) rfl <| rt_Plain _ (by decide) (by decide) fun w h1 h2 => (major_14 h1).trans (by rw [h2]; rfl)
theorem Sys2Proof.Laws.RoundTrip.mtsetSpad : Sys2Proof.Laws.RoundTrip.Statement (.mtsetSpad) :=
  Stt.of4 rfl (e := encR 0x14 11 0 0 0 0) rfl <| rt_Plain _ (by decide) (by decide) fun w h1 h2 => (major_14 h1).trans (by rw [h2]; rfl)
theorem Sys2Proof.Laws.RoundTrip.mtsetShared : Sys2Proof.Laws.RoundTrip.Statement (.mtsetShared) :=
  Stt.of4 rfl (e := encR 0x14 12 0 0 0 0) rfl <| rt_Plain _ (by decide) (by decide) fun w h1 h2 => (major_14 h1).trans (by rw [h2]; rfl)
theorem Sys2Proof.Laws.RoundTrip.mtsetTcm : Sys2Proof.Laws.RoundTrip.Statement (.mtsetTcm) :=
  Stt.of4 rfl (e := encR 0x14 13 0 0 0 0) rfl <| rt_Plain _ (by decide) (by decide) fun w h1 h2 => (major_14 h1).trans (by rw [h2]; rfl)
theorem Sys2Proof.Laws.rd_barinit (a : KArgs) {z : Nat} (hm : bits z 2 6 = 0x15) (h0 : bits z 13 3 = 0) (h1 : bits z 16 2 = 0) (h2 : bits z 8 5 = a.rd.val) (h3 : bits z 23 9 = a.b.toNat) (h4 : bits z 18 5 = a.xs.val) :
    decode32 z = .ok (.barinit a) := by
  rw [major_15 hm]; simp [dec15, h0, h1, reg_eq h2, h3, reg_eq h4, zero]
theorem Sys2Proof.Laws.RoundTrip.barinit (a : KArgs) : Sys2Proof.Laws.RoundTrip.Statement (.barinit a) :=
  Stt.of4 rfl (e := encK 0 a.rd a.b.toNat a.xs) rfl <| rd_barinit a (by simp only [bits, encK, maj]; omega) (by simp only [bits, encK, maj]; omega) (by simp only [bits, encK, maj]; omega) (by simp only [bits, encK, maj]; omega) (by simp only [bits, encK, maj]; omega) (by simp only [bits, encK, maj]; omega)
theorem Sys2Proof.Laws.rd_barArrive (b : BitVec 9) {z : Nat} (hm : bits z 2 6 = 0x15) (h0 : bits z 13 3 = 1) (h1 : bits z 16 7 = 0) (h2 : bits z 8 5 = 0) (h3 : bits z 23 9 = b.toNat) :
    decode32 z = .ok (.barArrive b) := by
  rw [major_15 hm]; simp [dec15, h0, h1, h2, h3, zero]
theorem Sys2Proof.Laws.RoundTrip.barArrive (b : BitVec 9) : Sys2Proof.Laws.RoundTrip.Statement (.barArrive b) :=
  Stt.of4 rfl (e := encK 1 0 b.toNat 0) rfl <| rd_barArrive b (by simp only [bits, encK, maj]; omega) (by simp only [bits, encK, maj]; omega) (by simp only [bits, encK, maj]; omega) (by simp only [bits, encK, maj]; omega) (by simp only [bits, encK, maj]; omega)
theorem Sys2Proof.Laws.rd_barSync (b : BitVec 9) {z : Nat} (hm : bits z 2 6 = 0x15) (h0 : bits z 13 3 = 2) (h1 : bits z 16 7 = 0) (h2 : bits z 8 5 = 0) (h3 : bits z 23 9 = b.toNat) :
    decode32 z = .ok (.barSync b) := by
  rw [major_15 hm]; simp [dec15, h0, h1, h2, h3, zero]
theorem Sys2Proof.Laws.RoundTrip.barSync (b : BitVec 9) : Sys2Proof.Laws.RoundTrip.Statement (.barSync b) :=
  Stt.of4 rfl (e := encK 2 0 b.toNat 0) rfl <| rd_barSync b (by simp only [bits, encK, maj]; omega) (by simp only [bits, encK, maj]; omega) (by simp only [bits, encK, maj]; omega) (by simp only [bits, encK, maj]; omega) (by simp only [bits, encK, maj]; omega)
theorem Sys2Proof.Laws.rd_barinitSq (a : KArgs) {z : Nat} (hm : bits z 2 6 = 0x15) (h0 : bits z 13 3 = 4) (h1 : bits z 16 2 = 0) (h2 : bits z 8 5 = a.rd.val) (h3 : bits z 23 9 = a.b.toNat) (h4 : bits z 18 5 = a.xs.val) (hs : a.b.toNat < 64) :
    decode32 z = .ok (.barinitSq a) := by
  rw [major_15 hm]; simp [dec15, h0, h1, reg_eq h2, h3, reg_eq h4, zero, decSq, hs]
theorem Sys2Proof.Laws.RoundTrip.barinitSq (a : KArgs) : Sys2Proof.Laws.RoundTrip.Statement (.barinitSq a) :=
  Stt.of4w rfl (e := encK 4 a.rd a.b.toNat a.xs) rfl fun hw => rd_barinitSq a (by simp only [bits, encK, maj]; omega) (by simp only [bits, encK, maj]; omega) (by simp only [bits, encK, maj]; omega) (by simp only [bits, encK, maj]; omega) (by simp only [bits, encK, maj]; omega) (by simp only [bits, encK, maj]; omega) (by simpa [Instr.wellFormed] using hw)
theorem Sys2Proof.Laws.rd_barArriveSq (b : BitVec 9) {z : Nat} (hm : bits z 2 6 = 0x15) (h0 : bits z 13 3 = 5) (h1 : bits z 16 7 = 0) (h2 : bits z 8 5 = 0) (h3 : bits z 23 9 = b.toNat) (hs : b.toNat < 64) :
    decode32 z = .ok (.barArriveSq b) := by
  rw [major_15 hm]; simp [dec15, h0, h1, h2, h3, zero, decSq, hs]
theorem Sys2Proof.Laws.RoundTrip.barArriveSq (b : BitVec 9) : Sys2Proof.Laws.RoundTrip.Statement (.barArriveSq b) :=
  Stt.of4w rfl (e := encK 5 0 b.toNat 0) rfl fun hw => rd_barArriveSq b (by simp only [bits, encK, maj]; omega) (by simp only [bits, encK, maj]; omega) (by simp only [bits, encK, maj]; omega) (by simp only [bits, encK, maj]; omega) (by simp only [bits, encK, maj]; omega) (by simpa [Instr.wellFormed] using hw)
theorem Sys2Proof.Laws.rd_barSyncSq (b : BitVec 9) {z : Nat} (hm : bits z 2 6 = 0x15) (h0 : bits z 13 3 = 6) (h1 : bits z 16 7 = 0) (h2 : bits z 8 5 = 0) (h3 : bits z 23 9 = b.toNat) (hs : b.toNat < 64) :
    decode32 z = .ok (.barSyncSq b) := by
  rw [major_15 hm]; simp [dec15, h0, h1, h2, h3, zero, decSq, hs]
theorem Sys2Proof.Laws.RoundTrip.barSyncSq (b : BitVec 9) : Sys2Proof.Laws.RoundTrip.Statement (.barSyncSq b) :=
  Stt.of4w rfl (e := encK 6 0 b.toNat 0) rfl fun hw => rd_barSyncSq b (by simp only [bits, encK, maj]; omega) (by simp only [bits, encK, maj]; omega) (by simp only [bits, encK, maj]; omega) (by simp only [bits, encK, maj]; omega) (by simp only [bits, encK, maj]; omega) (by simpa [Instr.wellFormed] using hw)
theorem Sys2Proof.Laws.RoundTrip.vle (rs1 : Reg) : Sys2Proof.Laws.RoundTrip.Statement (.vle rs1) :=
  Stt.of4 rfl (e := encM 0x20 0 0 rs1 0) rfl <| rt_M1 _ rs1 (by decide) (by decide) fun w h1 h2 => (major_20 h1).trans (by rw [h2]; rfl)
theorem Sys2Proof.Laws.RoundTrip.vls (rs1 : Reg) (rs2 : Reg) : Sys2Proof.Laws.RoundTrip.Statement (.vls rs1 rs2) :=
  Stt.of4 rfl (e := encM 0x20 1 0 rs1 rs2) rfl <| rt_M2 _ rs1 rs2 (by decide) (by decide) fun w h1 h2 => (major_20 h1).trans (by rw [h2]; rfl)
theorem Sys2Proof.Laws.RoundTrip.vlx (rs1 : Reg) : Sys2Proof.Laws.RoundTrip.Statement (.vlx rs1) :=
  Stt.of4 rfl (e := encM 0x20 2 0 rs1 0) rfl <| rt_M1 _ rs1 (by decide) (by decide) fun w h1 h2 => (major_20 h1).trans (by rw [h2]; rfl)
theorem Sys2Proof.Laws.RoundTrip.vlff (rs1 : Reg) : Sys2Proof.Laws.RoundTrip.Statement (.vlff rs1) :=
  Stt.of4 rfl (e := encM 0x20 3 0 rs1 0) rfl <| rt_M1 _ rs1 (by decide) (by decide) fun w h1 h2 => (major_20 h1).trans (by rw [h2]; rfl)
theorem Sys2Proof.Laws.RoundTrip.vlb (rs1 : Reg) (rs2 : Reg) : Sys2Proof.Laws.RoundTrip.Statement (.vlb rs1 rs2) :=
  Stt.of4 rfl (e := encM 0x21 0 0 rs1 rs2) rfl <| rt_M2 _ rs1 rs2 (by decide) (by decide) fun w h1 h2 => (major_21 h1).trans (by rw [h2]; rfl)
theorem Sys2Proof.Laws.RoundTrip.vse (rs1 : Reg) : Sys2Proof.Laws.RoundTrip.Statement (.vse rs1) :=
  Stt.of4 rfl (e := encM 0x21 1 0 rs1 0) rfl <| rt_M1 _ rs1 (by decide) (by decide) fun w h1 h2 => (major_21 h1).trans (by rw [h2]; rfl)
theorem Sys2Proof.Laws.RoundTrip.vss (rs1 : Reg) (rs2 : Reg) : Sys2Proof.Laws.RoundTrip.Statement (.vss rs1 rs2) :=
  Stt.of4 rfl (e := encM 0x21 2 0 rs1 rs2) rfl <| rt_M2 _ rs1 rs2 (by decide) (by decide) fun w h1 h2 => (major_21 h1).trans (by rw [h2]; rfl)
theorem Sys2Proof.Laws.RoundTrip.vsx (rs1 : Reg) : Sys2Proof.Laws.RoundTrip.Statement (.vsx rs1) :=
  Stt.of4 rfl (e := encM 0x21 3 0 rs1 0) rfl <| rt_M1 _ rs1 (by decide) (by decide) fun w h1 h2 => (major_21 h1).trans (by rw [h2]; rfl)
theorem Sys2Proof.Laws.RoundTrip.vsb (rs1 : Reg) (rs2 : Reg) : Sys2Proof.Laws.RoundTrip.Statement (.vsb rs1 rs2) :=
  Stt.of4 rfl (e := encM 0x22 0 0 rs1 rs2) rfl <| rt_M2 _ rs1 rs2 (by decide) (by decide) fun w h1 h2 => (major_22 h1).trans (by rw [h2]; rfl)
theorem Sys2Proof.Laws.rd_vamo (op : AmoOp) (rs1 : Reg) {z : Nat} (hm : bits z 2 6 = 0x22) (h0 : bits z 30 2 = 1) (h1 : bits z 23 3 = 0) (h2 : bits z 18 5 = 0) (h3 : bits z 8 5 = 0) (h4 : bits z 26 4 = op.code) (h5 : bits z 13 5 = rs1.val) :
    decode32 z = .ok (.vamo op rs1) := by
  rw [major_22 hm]; simp [dec22, h0, h1, h2, h3, h4, reg_eq h5, zero, coded, amoOp_code]
theorem Sys2Proof.Laws.RoundTrip.vamo (op : AmoOp) (rs1 : Reg) : Sys2Proof.Laws.RoundTrip.Statement (.vamo op rs1) :=
  Stt.of4 rfl (e := encM 0x22 1 op.code rs1 0) rfl <| rd_vamo op rs1 (by have := amoOp_lt op; simp only [bits, encM, maj]; omega) (by have := amoOp_lt op; simp only [bits, encM, maj]; omega) (by have := amoOp_lt op; simp only [bits, encM, maj]; omega) (by have := amoOp_lt op; simp only [bits, encM, maj]; omega) (by have := amoOp_lt op; simp only [bits, encM, maj]; omega) (by have := amoOp_lt op; simp only [bits, encM, maj]; omega) (by have := amoOp_lt op; simp only [bits, encM, maj]; omega)
theorem Sys2Proof.Laws.RoundTrip.vadd (a : VArgs) : Sys2Proof.Laws.RoundTrip.Statement (.vadd a) :=
  Stt.of4 rfl (e := encV 0x24 0 a) rfl <| rt_V _ a (by decide) (by decide) fun w h1 h2 => (major_24 h1).trans (by rw [h2]; rfl)
theorem Sys2Proof.Laws.RoundTrip.vsub (a : VArgs) : Sys2Proof.Laws.RoundTrip.Statement (.vsub a) :=
  Stt.of4 rfl (e := encV 0x24 1 a) rfl <| rt_V _ a (by decide) (by decide) fun w h1 h2 => (major_24 h1).trans (by rw [h2]; rfl)
theorem Sys2Proof.Laws.RoundTrip.vmul (a : VArgs) : Sys2Proof.Laws.RoundTrip.Statement (.vmul a) :=
  Stt.of4 rfl (e := encV 0x24 2 a) rfl <| rt_V _ a (by decide) (by decide) fun w h1 h2 => (major_24 h1).trans (by rw [h2]; rfl)
theorem Sys2Proof.Laws.RoundTrip.vmulh (a : VArgs) : Sys2Proof.Laws.RoundTrip.Statement (.vmulh a) :=
  Stt.of4 rfl (e := encV 0x24 3 a) rfl <| rt_V _ a (by decide) (by decide) fun w h1 h2 => (major_24 h1).trans (by rw [h2]; rfl)
theorem Sys2Proof.Laws.RoundTrip.vdiv (a : VArgs) : Sys2Proof.Laws.RoundTrip.Statement (.vdiv a) :=
  Stt.of4 rfl (e := encV 0x25 0 a) rfl <| rt_V _ a (by decide) (by decide) fun w h1 h2 => (major_25 h1).trans (by rw [h2]; rfl)
theorem Sys2Proof.Laws.RoundTrip.vrem (a : VArgs) : Sys2Proof.Laws.RoundTrip.Statement (.vrem a) :=
  Stt.of4 rfl (e := encV 0x25 1 a) rfl <| rt_V _ a (by decide) (by decide) fun w h1 h2 => (major_25 h1).trans (by rw [h2]; rfl)
theorem Sys2Proof.Laws.RoundTrip.vmin (a : VArgs) : Sys2Proof.Laws.RoundTrip.Statement (.vmin a) :=
  Stt.of4 rfl (e := encV 0x25 2 a) rfl <| rt_V _ a (by decide) (by decide) fun w h1 h2 => (major_25 h1).trans (by rw [h2]; rfl)
theorem Sys2Proof.Laws.RoundTrip.vmax (a : VArgs) : Sys2Proof.Laws.RoundTrip.Statement (.vmax a) :=
  Stt.of4 rfl (e := encV 0x25 3 a) rfl <| rt_V _ a (by decide) (by decide) fun w h1 h2 => (major_25 h1).trans (by rw [h2]; rfl)
theorem Sys2Proof.Laws.RoundTrip.vand (a : VArgs) : Sys2Proof.Laws.RoundTrip.Statement (.vand a) :=
  Stt.of4 rfl (e := encV 0x26 0 a) rfl <| rt_V _ a (by decide) (by decide) fun w h1 h2 => (major_26 h1).trans (by rw [h2]; rfl)
theorem Sys2Proof.Laws.RoundTrip.vor (a : VArgs) : Sys2Proof.Laws.RoundTrip.Statement (.vor a) :=
  Stt.of4 rfl (e := encV 0x26 1 a) rfl <| rt_V _ a (by decide) (by decide) fun w h1 h2 => (major_26 h1).trans (by rw [h2]; rfl)
theorem Sys2Proof.Laws.RoundTrip.vxor (a : VArgs) : Sys2Proof.Laws.RoundTrip.Statement (.vxor a) :=
  Stt.of4 rfl (e := encV 0x26 2 a) rfl <| rt_V _ a (by decide) (by decide) fun w h1 h2 => (major_26 h1).trans (by rw [h2]; rfl)
theorem Sys2Proof.Laws.RoundTrip.vsll (a : VArgs) : Sys2Proof.Laws.RoundTrip.Statement (.vsll a) :=
  Stt.of4 rfl (e := encV 0x26 3 a) rfl <| rt_V _ a (by decide) (by decide) fun w h1 h2 => (major_26 h1).trans (by rw [h2]; rfl)
theorem Sys2Proof.Laws.RoundTrip.vsrl (a : VArgs) : Sys2Proof.Laws.RoundTrip.Statement (.vsrl a) :=
  Stt.of4 rfl (e := encV 0x27 0 a) rfl <| rt_V _ a (by decide) (by decide) fun w h1 h2 => (major_27 h1).trans (by rw [h2]; rfl)
theorem Sys2Proof.Laws.RoundTrip.vsra (a : VArgs) : Sys2Proof.Laws.RoundTrip.Statement (.vsra a) :=
  Stt.of4 rfl (e := encV 0x27 1 a) rfl <| rt_V _ a (by decide) (by decide) fun w h1 h2 => (major_27 h1).trans (by rw [h2]; rfl)
theorem Sys2Proof.Laws.RoundTrip.vfadd (a : VArgs) : Sys2Proof.Laws.RoundTrip.Statement (.vfadd a) :=
  Stt.of4 rfl (e := encV 0x28 0 a) rfl <| rt_V _ a (by decide) (by decide) fun w h1 h2 => (major_28 h1).trans (by rw [h2]; rfl)
theorem Sys2Proof.Laws.RoundTrip.vfsub (a : VArgs) : Sys2Proof.Laws.RoundTrip.Statement (.vfsub a) :=
  Stt.of4 rfl (e := encV 0x28 1 a) rfl <| rt_V _ a (by decide) (by decide) fun w h1 h2 => (major_28 h1).trans (by rw [h2]; rfl)
theorem Sys2Proof.Laws.RoundTrip.vfmul (a : VArgs) : Sys2Proof.Laws.RoundTrip.Statement (.vfmul a) :=
  Stt.of4 rfl (e := encV 0x28 2 a) rfl <| rt_V _ a (by decide) (by decide) fun w h1 h2 => (major_28 h1).trans (by rw [h2]; rfl)
theorem Sys2Proof.Laws.RoundTrip.vfdiv (a : VArgs) : Sys2Proof.Laws.RoundTrip.Statement (.vfdiv a) :=
  Stt.of4 rfl (e := encV 0x28 3 a) rfl <| rt_V _ a (by decide) (by decide) fun w h1 h2 => (major_28 h1).trans (by rw [h2]; rfl)
theorem Sys2Proof.Laws.RoundTrip.vfma (a : VArgs) : Sys2Proof.Laws.RoundTrip.Statement (.vfma a) :=
  Stt.of4 rfl (e := encV 0x29 0 a) rfl <| rt_V _ a (by decide) (by decide) fun w h1 h2 => (major_29 h1).trans (by rw [h2]; rfl)
theorem Sys2Proof.Laws.RoundTrip.vfms (a : VArgs) : Sys2Proof.Laws.RoundTrip.Statement (.vfms a) :=
  Stt.of4 rfl (e := encV 0x29 1 a) rfl <| rt_V _ a (by decide) (by decide) fun w h1 h2 => (major_29 h1).trans (by rw [h2]; rfl)
theorem Sys2Proof.Laws.RoundTrip.vfnma (a : VArgs) : Sys2Proof.Laws.RoundTrip.Statement (.vfnma a) :=
  Stt.of4 rfl (e := encV 0x29 2 a) rfl <| rt_V _ a (by decide) (by decide) fun w h1 h2 => (major_29 h1).trans (by rw [h2]; rfl)
theorem Sys2Proof.Laws.RoundTrip.vfsqrt (a : VUArgs) : Sys2Proof.Laws.RoundTrip.Statement (.vfsqrt a) :=
  Stt.of4 rfl (e := encVU 0x29 3 a) rfl <| rt_VU _ a (by decide) (by decide) fun w h1 h2 => (major_29 h1).trans (by rw [h2]; rfl)
theorem Sys2Proof.Laws.RoundTrip.vfmin (a : VArgs) : Sys2Proof.Laws.RoundTrip.Statement (.vfmin a) :=
  Stt.of4 rfl (e := encV 0x2A 0 a) rfl <| rt_V _ a (by decide) (by decide) fun w h1 h2 => (major_2A h1).trans (by rw [h2]; rfl)
theorem Sys2Proof.Laws.RoundTrip.vfmax (a : VArgs) : Sys2Proof.Laws.RoundTrip.Statement (.vfmax a) :=
  Stt.of4 rfl (e := encV 0x2A 1 a) rfl <| rt_V _ a (by decide) (by decide) fun w h1 h2 => (major_2A h1).trans (by rw [h2]; rfl)
theorem Sys2Proof.Laws.RoundTrip.vfcvt (a : VUArgs) : Sys2Proof.Laws.RoundTrip.Statement (.vfcvt a) :=
  Stt.of4 rfl (e := encVU 0x2A 2 a) rfl <| rt_VU _ a (by decide) (by decide) fun w h1 h2 => (major_2A h1).trans (by rw [h2]; rfl)
theorem Sys2Proof.Laws.RoundTrip.vwma (a : VArgs) : Sys2Proof.Laws.RoundTrip.Statement (.vwma a) :=
  Stt.of4 rfl (e := encV 0x2A 3 a) rfl <| rt_V _ a (by decide) (by decide) fun w h1 h2 => (major_2A h1).trans (by rw [h2]; rfl)
theorem Sys2Proof.Laws.rd_vwait (a : VWaitArgs) {z : Nat} (hm : bits z 2 6 = 0x2B) (h0 : bits z 31 1 = 0) (h1 : bits z 28 3 = VWaitArgs.scopeCode a.scope) (h2 : bits z 11 2 = a.gov.code) (h3 : bits z 8 3 = a.md.val) (h4 : bits z 13 5 = a.vs1.val) (h5 : bits z 18 5 = a.vs2.val) (h6 : bits z 23 5 = a.xs.val) (hs : a.scope ≠ some .strand) :
    decode32 z = .ok (.vwait a) := by
  rw [major_2B hm]; simp [dec2B, h0, h1, h2, reg3_eq h3, reg_eq h4, reg_eq h5, reg_eq h6, zero, coded, vwaitScope_code _ hs, gov_code]
theorem Sys2Proof.Laws.RoundTrip.vwait (a : VWaitArgs) : Sys2Proof.Laws.RoundTrip.Statement (.vwait a) :=
  Stt.of4w rfl (e := maj 0x2B + a.md * 2 ^ 8 + a.gov.code * 2 ^ 11 + a.vs1 * 2 ^ 13 + a.vs2 * 2 ^ 18 + a.xs * 2 ^ 23 + VWaitArgs.scopeCode a.scope * 2 ^ 28) rfl fun hw => rd_vwait a (by have := vwaitScope_lt a.scope; have := gov_lt a.gov; simp only [bits, maj]; omega) (by have := vwaitScope_lt a.scope; have := gov_lt a.gov; simp only [bits, maj]; omega) (by have := vwaitScope_lt a.scope; have := gov_lt a.gov; simp only [bits, maj]; omega) (by have := vwaitScope_lt a.scope; have := gov_lt a.gov; simp only [bits, maj]; omega) (by have := vwaitScope_lt a.scope; have := gov_lt a.gov; simp only [bits, maj]; omega) (by have := vwaitScope_lt a.scope; have := gov_lt a.gov; simp only [bits, maj]; omega) (by have := vwaitScope_lt a.scope; have := gov_lt a.gov; simp only [bits, maj]; omega) (by have := vwaitScope_lt a.scope; have := gov_lt a.gov; simp only [bits, maj]; omega) (by simpa [Instr.wellFormed] using hw)
theorem Sys2Proof.Laws.rd_pmov (fd : FReg) (fs1 : FReg) {z : Nat} (hm : bits z 2 6 = 0x2C) (h0 : bits z 29 3 = 0) (h1 : bits z 14 15 = 0) (h2 : bits z 8 3 = fd.val) (h3 : bits z 11 3 = fs1.val) :
    decode32 z = .ok (.pmov fd fs1) := by
  rw [major_2C hm]; simp [dec2C, h0, h1, reg3_eq h2, reg3_eq h3, zero]
theorem Sys2Proof.Laws.RoundTrip.pmov (fd : FReg) (fs1 : FReg) : Sys2Proof.Laws.RoundTrip.Statement (.pmov fd fs1) :=
  Stt.of4 rfl (e := encP 0x2C 0 0 0 0 0 fs1 fd) rfl <| rd_pmov fd fs1 (by simp only [bits, encP, maj]; omega) (by simp only [bits, encP, maj]; omega) (by simp only [bits, encP, maj]; omega) (by simp only [bits, encP, maj]; omega) (by simp only [bits, encP, maj]; omega)
theorem Sys2Proof.Laws.rd_pzero (fd : FReg) {z : Nat} (hm : bits z 2 6 = 0x2C) (h0 : bits z 29 3 = 1) (h1 : bits z 11 18 = 0) (h2 : bits z 8 3 = fd.val) :
    decode32 z = .ok (.pzero fd) := by
  rw [major_2C hm]; simp [dec2C, h0, h1, reg3_eq h2, zero]
theorem Sys2Proof.Laws.RoundTrip.pzero (fd : FReg) : Sys2Proof.Laws.RoundTrip.Statement (.pzero fd) :=
  Stt.of4 rfl (e := encP 0x2C 1 0 0 0 0 0 fd) rfl <| rd_pzero fd (by simp only [bits, encP, maj]; omega) (by simp only [bits, encP, maj]; omega) (by simp only [bits, encP, maj]; omega) (by simp only [bits, encP, maj]; omega)
theorem Sys2Proof.Laws.RoundTrip.padd (a : P3) : Sys2Proof.Laws.RoundTrip.Statement (.padd a) :=
  Stt.of4 rfl (e := encP3 2 0 a) rfl <| rt_P3 _ a (by decide) (by decide) fun w h1 h2 h3 => (major_2C h1).trans (by rw [h2]; simp [dec2C, h3, zero])
theorem Sys2Proof.Laws.RoundTrip.psub (a : P3) : Sys2Proof.Laws.RoundTrip.Statement (.psub a) :=
  Stt.of4 rfl (e := encP3 3 0 a) rfl <| rt_P3 _ a (by decide) (by decide) fun w h1 h2 h3 => (major_2C h1).trans (by rw [h2]; simp [dec2C, h3, zero])
theorem Sys2Proof.Laws.RoundTrip.pmul (mode : PMode) (a : P3) : Sys2Proof.Laws.RoundTrip.Statement (.pmul mode a) :=
  Stt.of4 rfl (e := encP3 4 mode.code a) rfl <| rt_P3 _ a (by decide) (pMode_lt mode) fun w h1 h2 h3 => (major_2C h1).trans (by rw [h2]; simp [dec2C, h3, coded, pMode_code])
theorem Sys2Proof.Laws.rd_pdiff (dir : PDir) (fd : FReg) (fs1 : FReg) {z : Nat} (hm : bits z 2 6 = 0x2C) (h0 : bits z 29 3 = 5) (h1 : bits z 14 13 = 0) (h2 : bits z 27 2 = dir.code) (h3 : bits z 8 3 = fd.val) (h4 : bits z 11 3 = fs1.val) :
    decode32 z = .ok (.pdiff dir fd fs1) := by
  rw [major_2C hm]; simp [dec2C, h0, h1, h2, reg3_eq h3, reg3_eq h4, zero, coded, pDir_code]
theorem Sys2Proof.Laws.RoundTrip.pdiff (dir : PDir) (fd : FReg) (fs1 : FReg) : Sys2Proof.Laws.RoundTrip.Statement (.pdiff dir fd fs1) :=
  Stt.of4 rfl (e := encP 0x2C 5 dir.code 0 0 0 fs1 fd) rfl <| rd_pdiff dir fd fs1 (by have := pDir_lt dir; simp only [bits, encP, maj]; omega) (by have := pDir_lt dir; simp only [bits, encP, maj]; omega) (by have := pDir_lt dir; simp only [bits, encP, maj]; omega) (by have := pDir_lt dir; simp only [bits, encP, maj]; omega) (by have := pDir_lt dir; simp only [bits, encP, maj]; omega) (by have := pDir_lt dir; simp only [bits, encP, maj]; omega)
theorem Sys2Proof.Laws.rd_pproj (fd : FReg) (fs1 : FReg) (q : BitVec 4) {z : Nat} (hm : bits z 2 6 = 0x2C) (h0 : bits z 29 3 = 6) (h1 : bits z 21 8 = 0) (h2 : bits z 14 3 = 0) (h3 : bits z 17 4 = q.toNat) (h4 : bits z 8 3 = fd.val) (h5 : bits z 11 3 = fs1.val) :
    decode32 z = .ok (.pproj fd fs1 q) := by
  rw [major_2C hm]; simp [dec2C, h0, h1, h2, h3, reg3_eq h4, reg3_eq h5, zero]
theorem Sys2Proof.Laws.RoundTrip.pproj (fd : FReg) (fs1 : FReg) (q : BitVec 4) : Sys2Proof.Laws.RoundTrip.Statement (.pproj fd fs1 q) :=
  Stt.of4 rfl (e := encP 0x2C 6 0 0 q.toNat 0 fs1 fd) rfl <| rd_pproj fd fs1 q (by simp only [bits, encP, maj]; omega) (by simp only [bits, encP, maj]; omega) (by simp only [bits, encP, maj]; omega) (by simp only [bits, encP, maj]; omega) (by simp only [bits, encP, maj]; omega) (by simp only [bits, encP, maj]; omega) (by simp only [bits, encP, maj]; omega)
theorem Sys2Proof.Laws.rd_ptrace (fd : FReg) (fs1 : FReg) (face : BitVec 3) {z : Nat} (hm : bits z 2 6 = 0x2C) (h0 : bits z 29 3 = 7) (h1 : bits z 17 12 = 0) (h2 : bits z 14 3 = face.toNat) (h3 : bits z 8 3 = fd.val) (h4 : bits z 11 3 = fs1.val) (hs : face.toNat < 6) :
    decode32 z = .ok (.ptrace fd fs1 face) := by
  rw [major_2C hm]; simp [dec2C, h0, h1, h2, reg3_eq h3, reg3_eq h4, zero, hs]
theorem Sys2Proof.Laws.RoundTrip.ptrace (fd : FReg) (fs1 : FReg) (face : BitVec 3) : Sys2Proof.Laws.RoundTrip.Statement (.ptrace fd fs1 face) :=
  Stt.of4w rfl (e := encP 0x2C 7 0 0 0 face.toNat fs1 fd) rfl fun hw => rd_ptrace fd fs1 face (by simp only [bits, encP, maj]; omega) (by simp only [bits, encP, maj]; omega) (by simp only [bits, encP, maj]; omega) (by simp only [bits, encP, maj]; omega) (by simp only [bits, encP, maj]; omega) (by simp only [bits, encP, maj]; omega) (by simpa [Instr.wellFormed] using hw)
theorem Sys2Proof.Laws.rd_pscl (a : PSclArgs) {z : Nat} (hm : bits z 2 6 = 0x2D) (h0 : bits z 29 3 = 0) (h1 : bits z 14 3 = 0) (h2 : bits z 27 2 = a.gov.code) (h3 : bits z 8 3 = a.fd.val) (h4 : bits z 11 3 = a.fs1.val) (h5 : bits z 17 5 = a.vs.val) (h6 : bits z 22 5 = a.xs.val) :
    decode32 z = .ok (.pscl a) := by
  rw [major_2D hm]; simp [dec2D, h0, h1, h2, reg3_eq h3, reg3_eq h4, reg_eq h5, reg_eq h6, zero, gov_code]
theorem Sys2Proof.Laws.RoundTrip.pscl (a : PSclArgs) : Sys2Proof.Laws.RoundTrip.Statement (.pscl a) :=
  Stt.of4 rfl (e := encP 0x2D 0 a.gov.code a.xs a.vs 0 a.fs1 a.fd) rfl <| rd_pscl a (by have := gov_lt a.gov; simp only [bits, encP, maj]; omega) (by have := gov_lt a.gov; simp only [bits, encP, maj]; omega) (by have := gov_lt a.gov; simp only [bits, encP, maj]; omega) (by have := gov_lt a.gov; simp only [bits, encP, maj]; omega) (by have := gov_lt a.gov; simp only [bits, encP, maj]; omega) (by have := gov_lt a.gov; simp only [bits, encP, maj]; omega) (by have := gov_lt a.gov; simp only [bits, encP, maj]; omega) (by have := gov_lt a.gov; simp only [bits, encP, maj]; omega)
theorem Sys2Proof.Laws.RoundTrip.paxpy (a : PWinArgs) : Sys2Proof.Laws.RoundTrip.Statement (.paxpy a) :=
  Stt.of4 rfl (e := encPWin 1 a) rfl <| rt_PWin _ a (by decide) fun w h1 h2 => (major_2D h1).trans (by rw [h2]; rfl)
theorem Sys2Proof.Laws.RoundTrip.pint (a : PVecArgs) : Sys2Proof.Laws.RoundTrip.Statement (.pint a) :=
  Stt.of4 rfl (e := encPVec 2 a) rfl <| rt_PVec _ a (by decide) fun w h1 h2 => (major_2D h1).trans (by rw [h2]; rfl)
theorem Sys2Proof.Laws.RoundTrip.peval (a : PVecArgs) : Sys2Proof.Laws.RoundTrip.Statement (.peval a) :=
  Stt.of4 rfl (e := encPVec 3 a) rfl <| rt_PVec _ a (by decide) fun w h1 h2 => (major_2D h1).trans (by rw [h2]; rfl)
theorem Sys2Proof.Laws.RoundTrip.pjump (a : PWinArgs) : Sys2Proof.Laws.RoundTrip.Statement (.pjump a) :=
  Stt.of4 rfl (e := encPWin 4 a) rfl <| rt_PWin _ a (by decide) fun w h1 h2 => (major_2D h1).trans (by rw [h2]; rfl)
theorem Sys2Proof.Laws.RoundTrip.pavg (a : PWinArgs) : Sys2Proof.Laws.RoundTrip.Statement (.pavg a) :=
  Stt.of4 rfl (e := encPWin 5 a) rfl <| rt_PWin _ a (by decide) fun w h1 h2 => (major_2D h1).trans (by rw [h2]; rfl)
theorem Sys2Proof.Laws.RoundTrip.ppop (fd : FReg) (xs : Reg) : Sys2Proof.Laws.RoundTrip.Statement (.ppop fd xs) :=
  Stt.of4 rfl (e := encP 0x2D 6 0 xs 0 0 0 fd) rfl <| rt_Pd _ fd xs (by decide) (by decide) fun w h1 h2 h3 => (major_2D h1).trans (by rw [h2]; simp [dec2D, h3])
theorem Sys2Proof.Laws.RoundTrip.ppush (fs1 : FReg) (xs : Reg) : Sys2Proof.Laws.RoundTrip.Statement (.ppush fs1 xs) :=
  Stt.of4 rfl (e := encP 0x2D 6 1 xs 0 0 fs1 0) rfl <| rt_Ps _ fs1 xs (by decide) (by decide) fun w h1 h2 h3 => (major_2D h1).trans (by rw [h2]; simp [dec2D, h3])
theorem Sys2Proof.Laws.RoundTrip.pset (fd : FReg) (xs : Reg) : Sys2Proof.Laws.RoundTrip.Statement (.pset fd xs) :=
  Stt.of4 rfl (e := encP 0x2D 7 0 xs 0 0 0 fd) rfl <| rt_Pd _ fd xs (by decide) (by decide) fun w h1 h2 h3 => (major_2D h1).trans (by rw [h2]; simp [dec2D, h3])
theorem Sys2Proof.Laws.RoundTrip.psetDg (fd : FReg) (xs : Reg) : Sys2Proof.Laws.RoundTrip.Statement (.psetDg fd xs) :=
  Stt.of4 rfl (e := encP 0x2D 7 1 xs 0 0 0 fd) rfl <| rt_Pd _ fd xs (by decide) (by decide) fun w h1 h2 h3 => (major_2D h1).trans (by rw [h2]; simp [dec2D, h3])
theorem Sys2Proof.Laws.RoundTrip.pget (rd : Reg) (fs1 : FReg) : Sys2Proof.Laws.RoundTrip.Statement (.pget rd fs1) :=
  Stt.of4 rfl (e := encP 0x2D 7 2 rd 0 0 fs1 0) rfl <| rt_Ps (fun f x => Instr.pget x f) fs1 rd (by decide) (by decide) fun w h1 h2 h3 => (major_2D h1).trans (by rw [h2]; simp [dec2D, h3])
theorem Sys2Proof.Laws.RoundTrip.pgetDg (rd : Reg) (fs1 : FReg) : Sys2Proof.Laws.RoundTrip.Statement (.pgetDg rd fs1) :=
  Stt.of4 rfl (e := encP 0x2D 7 3 rd 0 0 fs1 0) rfl <| rt_Ps (fun f x => Instr.pgetDg x f) fs1 rd (by decide) (by decide) fun w h1 h2 h3 => (major_2D h1).trans (by rw [h2]; simp [dec2D, h3])
theorem Sys2Proof.Laws.rd_vcmp (a : VCmpArgs) {z : Nat} (hm : bits z 2 6 = 0x30) (h0 : bits z 30 2 = 0) (h1 : bits z 27 3 = a.fmt.val) (h2 : bits z 25 2 = a.gov.code) (h3 : bits z 23 2 = a.src2.form) (h4 : bits z 18 5 = a.src2.field) (h5 : bits z 13 5 = a.vs1.val) (h6 : bits z 11 2 = a.cond.code) (h7 : bits z 8 3 = a.md.val) :
    decode32 z = .ok (.vcmp a) := by
  rw [major_30 hm]; simp [dec30, h0, reg3_eq h1, h2, h3, h4, reg_eq h5, h6, reg3_eq h7, coded, src2_code, gov_code, iCond_code]
theorem Sys2Proof.Laws.RoundTrip.vcmp (a : VCmpArgs) : Sys2Proof.Laws.RoundTrip.Statement (.vcmp a) :=
  Stt.of4 rfl (e := encVf 0x30 0 a.fmt a.gov.code a.src2.form a.src2.field a.vs1 (a.md + a.cond.code * 8)) rfl <| rd_vcmp a (by have := gov_lt a.gov; have := src2_form_lt a.src2; have := src2_field_lt a.src2; have := iCond_lt a.cond; simp only [bits, encVf, maj]; omega) (by have := gov_lt a.gov; have := src2_form_lt a.src2; have := src2_field_lt a.src2; have := iCond_lt a.cond; simp only [bits, encVf, maj]; omega) (by have := gov_lt a.gov; have := src2_form_lt a.src2; have := src2_field_lt a.src2; have := iCond_lt a.cond; simp only [bits, encVf, maj]; omega) (by have := gov_lt a.gov; have := src2_form_lt a.src2; have := src2_field_lt a.src2; have := iCond_lt a.cond; simp only [bits, encVf, maj]; omega) (by have := gov_lt a.gov; have := src2_form_lt a.src2; have := src2_field_lt a.src2; have := iCond_lt a.cond; simp only [bits, encVf, maj]; omega) (by have := gov_lt a.gov; have := src2_form_lt a.src2; have := src2_field_lt a.src2; have := iCond_lt a.cond; simp only [bits, encVf, maj]; omega) (by have := gov_lt a.gov; have := src2_form_lt a.src2; have := src2_field_lt a.src2; have := iCond_lt a.cond; simp only [bits, encVf, maj]; omega) (by have := gov_lt a.gov; have := src2_form_lt a.src2; have := src2_field_lt a.src2; have := iCond_lt a.cond; simp only [bits, encVf, maj]; omega) (by have := gov_lt a.gov; have := src2_form_lt a.src2; have := src2_field_lt a.src2; have := iCond_lt a.cond; simp only [bits, encVf, maj]; omega)
theorem Sys2Proof.Laws.rd_vfcmp (a : VFCmpArgs) {z : Nat} (hm : bits z 2 6 = 0x30) (h0 : bits z 30 2 = 1) (h1 : bits z 27 3 = a.fmt.val) (h2 : bits z 25 2 = a.gov.code) (h3 : bits z 23 2 = a.src2.form) (h4 : bits z 18 5 = a.src2.field) (h5 : bits z 13 5 = a.vs1.val) (h6 : bits z 11 2 = a.cond.code) (h7 : bits z 8 3 = a.md.val) :
    decode32 z = .ok (.vfcmp a) := by
  rw [major_30 hm]; simp [dec30, h0, reg3_eq h1, h2, h3, h4, reg_eq h5, h6, reg3_eq h7, coded, src2_code, gov_code, fCond_code]
theorem Sys2Proof.Laws.RoundTrip.vfcmp (a : VFCmpArgs) : Sys2Proof.Laws.RoundTrip.Statement (.vfcmp a) :=
  Stt.of4 rfl (e := encVf 0x30 1 a.fmt a.gov.code a.src2.form a.src2.field a.vs1 (a.md + a.cond.code * 8)) rfl <| rd_vfcmp a (by have := gov_lt a.gov; have := src2_form_lt a.src2; have := src2_field_lt a.src2; have := fCond_lt a.cond; simp only [bits, encVf, maj]; omega) (by have := gov_lt a.gov; have := src2_form_lt a.src2; have := src2_field_lt a.src2; have := fCond_lt a.cond; simp only [bits, encVf, maj]; omega) (by have := gov_lt a.gov; have := src2_form_lt a.src2; have := src2_field_lt a.src2; have := fCond_lt a.cond; simp only [bits, encVf, maj]; omega) (by have := gov_lt a.gov; have := src2_form_lt a.src2; have := src2_field_lt a.src2; have := fCond_lt a.cond; simp only [bits, encVf, maj]; omega) (by have := gov_lt a.gov; have := src2_form_lt a.src2; have := src2_field_lt a.src2; have := fCond_lt a.cond; simp only [bits, encVf, maj]; omega) (by have := gov_lt a.gov; have := src2_form_lt a.src2; have := src2_field_lt a.src2; have := fCond_lt a.cond; simp only [bits, encVf, maj]; omega) (by have := gov_lt a.gov; have := src2_form_lt a.src2; have := src2_field_lt a.src2; have := fCond_lt a.cond; simp only [bits, encVf, maj]; omega) (by have := gov_lt a.gov; have := src2_form_lt a.src2; have := src2_field_lt a.src2; have := fCond_lt a.cond; simp only [bits, encVf, maj]; omega) (by have := gov_lt a.gov; have := src2_form_lt a.src2; have := src2_field_lt a.src2; have := fCond_lt a.cond; simp only [bits, encVf, maj]; omega)
theorem Sys2Proof.Laws.RoundTrip.vmerge (a : VArgs) : Sys2Proof.Laws.RoundTrip.Statement (.vmerge a) :=
  Stt.of4 rfl (e := encV 0x30 2 a) rfl <| rt_V _ a (by decide) (by decide) fun w h1 h2 => (major_30 h1).trans (by rw [h2]; rfl)
theorem Sys2Proof.Laws.rd_vmv (a : VMvArgs) {z : Nat} (hm : bits z 2 6 = 0x30) (h0 : bits z 30 2 = 3) (h1 : bits z 27 3 = a.fmt.val) (h2 : bits z 25 2 = a.gov.code) (h3 : bits z 23 2 = a.src2.form) (h4 : bits z 18 5 = a.src2.field) (h5 : bits z 13 5 = 0) (h6 : bits z 8 5 = a.vd.val) :
    decode32 z = .ok (.vmv a) := by
  rw [major_30 hm]; simp [dec30, h0, reg3_eq h1, h2, h3, h4, h5, reg_eq h6, coded, zero, src2_code, gov_code]
theorem Sys2Proof.Laws.RoundTrip.vmv (a : VMvArgs) : Sys2Proof.Laws.RoundTrip.Statement (.vmv a) :=
  Stt.of4 rfl (e := encVf 0x30 3 a.fmt a.gov.code a.src2.form a.src2.field 0 a.vd) rfl <| rd_vmv a (by have := gov_lt a.gov; have := src2_form_lt a.src2; have := src2_field_lt a.src2; simp only [bits, encVf, maj]; omega) (by have := gov_lt a.gov; have := src2_form_lt a.src2; have := src2_field_lt a.src2; simp only [bits, encVf, maj]; omega) (by have := gov_lt a.gov; have := src2_form_lt a.src2; have := src2_field_lt a.src2; simp only [bits, encVf, maj]; omega) (by have := gov_lt a.gov; have := src2_form_lt a.src2; have := src2_field_lt a.src2; simp only [bits, encVf, maj]; omega) (by have := gov_lt a.gov; have := src2_form_lt a.src2; have := src2_field_lt a.src2; simp only [bits, encVf, maj]; omega) (by have := gov_lt a.gov; have := src2_form_lt a.src2; have := src2_field_lt a.src2; simp only [bits, encVf, maj]; omega) (by have := gov_lt a.gov; have := src2_form_lt a.src2; have := src2_field_lt a.src2; simp only [bits, encVf, maj]; omega) (by have := gov_lt a.gov; have := src2_form_lt a.src2; have := src2_field_lt a.src2; simp only [bits, encVf, maj]; omega)
theorem Sys2Proof.Laws.RoundTrip.vslideup (a : VArgs) : Sys2Proof.Laws.RoundTrip.Statement (.vslideup a) :=
  Stt.of4 rfl (e := encV 0x31 0 a) rfl <| rt_V _ a (by decide) (by decide) fun w h1 h2 => (major_31 h1).trans (by rw [h2]; rfl)
theorem Sys2Proof.Laws.RoundTrip.vslidedn (a : VArgs) : Sys2Proof.Laws.RoundTrip.Statement (.vslidedn a) :=
  Stt.of4 rfl (e := encV 0x31 1 a) rfl <| rt_V _ a (by decide) (by decide) fun w h1 h2 => (major_31 h1).trans (by rw [h2]; rfl)
theorem Sys2Proof.Laws.RoundTrip.vperm (a : VArgs) : Sys2Proof.Laws.RoundTrip.Statement (.vperm a) :=
  Stt.of4 rfl (e := encV 0x31 2 a) rfl <| rt_V _ a (by decide) (by decide) fun w h1 h2 => (major_31 h1).trans (by rw [h2]; rfl)
theorem Sys2Proof.Laws.RoundTrip.vcompress (a : VUArgs) : Sys2Proof.Laws.RoundTrip.Statement (.vcompress a) :=
  Stt.of4 rfl (e := encVU 0x31 3 a) rfl <| rt_VU _ a (by decide) (by decide) fun w h1 h2 => (major_31 h1).trans (by rw [h2]; rfl)
theorem Sys2Proof.Laws.RoundTrip.vexpand (a : VUArgs) : Sys2Proof.Laws.RoundTrip.Statement (.vexpand a) :=
  Stt.of4 rfl (e := encVU 0x32 0 a) rfl <| rt_VU _ a (by decide) (by decide) fun w h1 h2 => (major_32 h1).trans (by rw [h2]; rfl)
theorem Sys2Proof.Laws.rd_viota (a : VIotaArgs) {z : Nat} (hm : bits z 2 6 = 0x32) (h0 : bits z 30 2 = 1) (h1 : bits z 27 3 = a.fmt.val) (h2 : bits z 25 2 = a.gov.code) (h3 : bits z 23 2 = a.src2.form) (h4 : bits z 18 5 = a.src2.field) (h5 : bits z 16 2 = 0) (h6 : bits z 13 3 = a.ms.val) (h7 : bits z 8 5 = a.vd.val) :
    decode32 z = .ok (.viota a) := by
  rw [major_32 hm]; simp [dec32m, h0, reg3_eq h1, h2, h3, h4, h5, reg3_eq h6, reg_eq h7, coded, zero, src2_code, gov_code]
theorem Sys2Proof.Laws.RoundTrip.viota (a : VIotaArgs) : Sys2Proof.Laws.RoundTrip.Statement (.viota a) :=
  Stt.of4 rfl (e := encVf 0x32 1 a.fmt a.gov.code a.src2.form a.src2.field a.ms a.vd) rfl <| rd_viota a (by have := gov_lt a.gov; have := src2_form_lt a.src2; have := src2_field_lt a.src2; simp only [bits, encVf, maj]; omega) (by have := gov_lt a.gov; have := src2_form_lt a.src2; have := src2_field_lt a.src2; simp only [bits, encVf, maj]; omega) (by have := gov_lt a.gov; have := src2_form_lt a.src2; have := src2_field_lt a.src2; simp only [bits, encVf, maj]; omega) (by have := gov_lt a.gov; have := src2_form_lt a.src2; have := src2_field_lt a.src2; simp only [bits, encVf, maj]; omega) (by have := gov_lt a.gov; have := src2_form_lt a.src2; have := src2_field_lt a.src2; simp only [bits, encVf, maj]; omega) (by have := gov_lt a.gov; have := src2_form_lt a.src2; have := src2_field_lt a.src2; simp only [bits, encVf, maj]; omega) (by have := gov_lt a.gov; have := src2_form_lt a.src2; have := src2_field_lt a.src2; simp only [bits, encVf, maj]; omega) (by have := gov_lt a.gov; have := src2_form_lt a.src2; have := src2_field_lt a.src2; simp only [bits, encVf, maj]; omega) (by have := gov_lt a.gov; have := src2_form_lt a.src2; have := src2_field_lt a.src2; simp only [bits, encVf, maj]; omega)
theorem Sys2Proof.Laws.RoundTrip.vpruneN4M8 (a : VPruneArgs) : Sys2Proof.Laws.RoundTrip.Statement (.vpruneN4M8 a) :=
  Stt.of4 rfl (e := encPrune 0x32 2 a) rfl <| rt_Prune _ a (by decide) (by decide) fun w h1 h2 => (major_32 h1).trans (by rw [h2]; rfl)
theorem Sys2Proof.Laws.RoundTrip.vredsum (a : VArgs) : Sys2Proof.Laws.RoundTrip.Statement (.vredsum a) :=
  Stt.of4 rfl (e := encV 0x33 0 a) rfl <| rt_V _ a (by decide) (by decide) fun w h1 h2 => (major_33 h1).trans (by rw [h2]; rfl)
theorem Sys2Proof.Laws.RoundTrip.vredmin (a : VArgs) : Sys2Proof.Laws.RoundTrip.Statement (.vredmin a) :=
  Stt.of4 rfl (e := encV 0x33 1 a) rfl <| rt_V _ a (by decide) (by decide) fun w h1 h2 => (major_33 h1).trans (by rw [h2]; rfl)
theorem Sys2Proof.Laws.RoundTrip.vredmax (a : VArgs) : Sys2Proof.Laws.RoundTrip.Statement (.vredmax a) :=
  Stt.of4 rfl (e := encV 0x33 2 a) rfl <| rt_V _ a (by decide) (by decide) fun w h1 h2 => (major_33 h1).trans (by rw [h2]; rfl)
theorem Sys2Proof.Laws.RoundTrip.vscan (a : VArgs) : Sys2Proof.Laws.RoundTrip.Statement (.vscan a) :=
  Stt.of4 rfl (e := encV 0x33 3 a) rfl <| rt_V _ a (by decide) (by decide) fun w h1 h2 => (major_33 h1).trans (by rw [h2]; rfl)
theorem Sys2Proof.Laws.RoundTrip.vfredsum (a : VArgs) : Sys2Proof.Laws.RoundTrip.Statement (.vfredsum a) :=
  Stt.of4 rfl (e := encV 0x34 0 a) rfl <| rt_V _ a (by decide) (by decide) fun w h1 h2 => (major_34 h1).trans (by rw [h2]; rfl)
theorem Sys2Proof.Laws.RoundTrip.vfredmin (a : VArgs) : Sys2Proof.Laws.RoundTrip.Statement (.vfredmin a) :=
  Stt.of4 rfl (e := encV 0x34 1 a) rfl <| rt_V _ a (by decide) (by decide) fun w h1 h2 => (major_34 h1).trans (by rw [h2]; rfl)
theorem Sys2Proof.Laws.RoundTrip.vfredmax (a : VArgs) : Sys2Proof.Laws.RoundTrip.Statement (.vfredmax a) :=
  Stt.of4 rfl (e := encV 0x34 2 a) rfl <| rt_V _ a (by decide) (by decide) fun w h1 h2 => (major_34 h1).trans (by rw [h2]; rfl)
theorem Sys2Proof.Laws.RoundTrip.vfscan (a : VArgs) : Sys2Proof.Laws.RoundTrip.Statement (.vfscan a) :=
  Stt.of4 rfl (e := encV 0x34 3 a) rfl <| rt_V _ a (by decide) (by decide) fun w h1 h2 => (major_34 h1).trans (by rw [h2]; rfl)
theorem Sys2Proof.Laws.RoundTrip.vmand (a : MMArgs) : Sys2Proof.Laws.RoundTrip.Statement (.vmand a) :=
  Stt.of4 rfl (e := encMM 0x35 0 a) rfl <| rt_MM _ a (by decide) (by decide) fun w h1 h2 => (major_35 h1).trans (by rw [h2]; rfl)
theorem Sys2Proof.Laws.RoundTrip.vmor (a : MMArgs) : Sys2Proof.Laws.RoundTrip.Statement (.vmor a) :=
  Stt.of4 rfl (e := encMM 0x35 1 a) rfl <| rt_MM _ a (by decide) (by decide) fun w h1 h2 => (major_35 h1).trans (by rw [h2]; rfl)
theorem Sys2Proof.Laws.RoundTrip.vmxor (a : MMArgs) : Sys2Proof.Laws.RoundTrip.Statement (.vmxor a) :=
  Stt.of4 rfl (e := encMM 0x35 2 a) rfl <| rt_MM _ a (by decide) (by decide) fun w h1 h2 => (major_35 h1).trans (by rw [h2]; rfl)
theorem Sys2Proof.Laws.RoundTrip.vmandn (a : MMArgs) : Sys2Proof.Laws.RoundTrip.Statement (.vmandn a) :=
  Stt.of4 rfl (e := encMM 0x35 3 a) rfl <| rt_MM _ a (by decide) (by decide) fun w h1 h2 => (major_35 h1).trans (by rw [h2]; rfl)
theorem Sys2Proof.Laws.rd_vmnot (md : MReg) (ms : MReg) {z : Nat} (hm : bits z 2 6 = 0x36) (h0 : bits z 30 2 = 0) (h1 : bits z 16 14 = 0) (h2 : bits z 11 2 = 0) (h3 : bits z 8 3 = md.val) (h4 : bits z 13 3 = ms.val) :
    decode32 z = .ok (.vmnot md ms) := by
  rw [major_36 hm]; simp [dec36, h0, h1, h2, reg3_eq h3, reg3_eq h4, zero]
theorem Sys2Proof.Laws.RoundTrip.vmnot (md : MReg) (ms : MReg) : Sys2Proof.Laws.RoundTrip.Statement (.vmnot md ms) :=
  Stt.of4 rfl (e := encVf 0x36 0 0 0 0 0 ms md) rfl <| rd_vmnot md ms (by simp only [bits, encVf, maj]; omega) (by simp only [bits, encVf, maj]; omega) (by simp only [bits, encVf, maj]; omega) (by simp only [bits, encVf, maj]; omega) (by simp only [bits, encVf, maj]; omega) (by simp only [bits, encVf, maj]; omega)
theorem Sys2Proof.Laws.RoundTrip.vpopc (a : MXArgs) : Sys2Proof.Laws.RoundTrip.Statement (.vpopc a) :=
  Stt.of4 rfl (e := encVf 0x36 1 0 a.gov.code 0 0 a.ms a.rd) rfl <| rt_MX _ a (by decide) (by decide) fun w h1 h2 => (major_36 h1).trans (by rw [h2]; rfl)
theorem Sys2Proof.Laws.RoundTrip.vfirst (a : MXArgs) : Sys2Proof.Laws.RoundTrip.Statement (.vfirst a) :=
  Stt.of4 rfl (e := encVf 0x36 2 0 a.gov.code 0 0 a.ms a.rd) rfl <| rt_MX _ a (by decide) (by decide) fun w h1 h2 => (major_36 h1).trans (by rw [h2]; rfl)
theorem Sys2Proof.Laws.RoundTrip.vbrkb (a : MGArgs) : Sys2Proof.Laws.RoundTrip.Statement (.vbrkb a) :=
  Stt.of4 rfl (e := encMG 0x36 3 a) rfl <| rt_MG _ a (by decide) (by decide) fun w h1 h2 => (major_36 h1).trans (by rw [h2]; rfl)
theorem Sys2Proof.Laws.RoundTrip.vbrka (a : MGArgs) : Sys2Proof.Laws.RoundTrip.Statement (.vbrka a) :=
  Stt.of4 rfl (e := encMG 0x37 0 a) rfl <| rt_MG _ a (by decide) (by decide) fun w h1 h2 => (major_37 h1).trans (by rw [h2]; rfl)
theorem Sys2Proof.Laws.RoundTrip.vbmand (a : SpArgs) : Sys2Proof.Laws.RoundTrip.Statement (.vbmand a) :=
  Stt.of4 rfl (e := encVf 0x38 0 a.fmt 0 0 a.vs2 a.vs1 a.vd) rfl <| rt_Sp _ a (by decide) (by decide) fun w h1 h2 => (major_38 h1).trans (by rw [h2]; rfl)
theorem Sys2Proof.Laws.rd_vbprefix (a : VPrefArgs) {z : Nat} (hm : bits z 2 6 = 0x38) (h0 : bits z 30 2 = 1) (h1 : bits z 25 2 = 0) (h2 : bits z 23 2 = 1) (h3 : bits z 27 3 = a.fmt.val) (h4 : bits z 8 5 = a.vd.val) (h5 : bits z 13 5 = a.vs1.val) (h6 : bits z 18 5 = a.xs.val) :
    decode32 z = .ok (.vbprefix a) := by
  rw [major_38 hm]; simp [dec38, h0, h1, h2, reg3_eq h3, reg_eq h4, reg_eq h5, reg_eq h6, zero]
theorem Sys2Proof.Laws.RoundTrip.vbprefix (a : VPrefArgs) : Sys2Proof.Laws.RoundTrip.Statement (.vbprefix a) :=
  Stt.of4 rfl (e := encVf 0x38 1 a.fmt 0 1 a.xs a.vs1 a.vd) rfl <| rd_vbprefix a (by simp only [bits, encVf, maj]; omega) (by simp only [bits, encVf, maj]; omega) (by simp only [bits, encVf, maj]; omega) (by simp only [bits, encVf, maj]; omega) (by simp only [bits, encVf, maj]; omega) (by simp only [bits, encVf, maj]; omega) (by simp only [bits, encVf, maj]; omega) (by simp only [bits, encVf, maj]; omega)
theorem Sys2Proof.Laws.RoundTrip.visect (a : SpArgs) : Sys2Proof.Laws.RoundTrip.Statement (.visect a) :=
  Stt.of4 rfl (e := encVf 0x38 2 a.fmt 0 0 a.vs2 a.vs1 a.vd) rfl <| rt_Sp _ a (by decide) (by decide) fun w h1 h2 => (major_38 h1).trans (by rw [h2]; rfl)
theorem Sys2Proof.Laws.rd_vhacc (a : VHaccArgs) {z : Nat} (hm : bits z 2 6 = 0x38) (h0 : bits z 30 2 = 3) (h1 : bits z 23 4 = 0) (h2 : bits z 27 3 = a.fmt.val) (h3 : bits z 8 5 = a.xs.val) (h4 : bits z 13 5 = a.vs1.val) (h5 : bits z 18 5 = a.vs2.val) :
    decode32 z = .ok (.vhacc a) := by
  rw [major_38 hm]; simp [dec38, h0, h1, reg3_eq h2, reg_eq h3, reg_eq h4, reg_eq h5, zero]
theorem Sys2Proof.Laws.RoundTrip.vhacc (a : VHaccArgs) : Sys2Proof.Laws.RoundTrip.Statement (.vhacc a) :=
  Stt.of4 rfl (e := encVf 0x38 3 a.fmt 0 0 a.vs2 a.vs1 a.xs) rfl <| rd_vhacc a (by simp only [bits, encVf, maj]; omega) (by simp only [bits, encVf, maj]; omega) (by simp only [bits, encVf, maj]; omega) (by simp only [bits, encVf, maj]; omega) (by simp only [bits, encVf, maj]; omega) (by simp only [bits, encVf, maj]; omega) (by simp only [bits, encVf, maj]; omega)
theorem Sys2Proof.Laws.RoundTrip.vpruneN1M4 (a : VPruneArgs) : Sys2Proof.Laws.RoundTrip.Statement (.vpruneN1M4 a) :=
  Stt.of4 rfl (e := encPrune 0x39 0 a) rfl <| rt_Prune _ a (by decide) (by decide) fun w h1 h2 => (major_39 h1).trans (by rw [h2]; rfl)
theorem Sys2Proof.Laws.RoundTrip.vpruneN2M4 (a : VPruneArgs) : Sys2Proof.Laws.RoundTrip.Statement (.vpruneN2M4 a) :=
  Stt.of4 rfl (e := encPrune 0x39 1 a) rfl <| rt_Prune _ a (by decide) (by decide) fun w h1 h2 => (major_39 h1).trans (by rw [h2]; rfl)
theorem Sys2Proof.Laws.RoundTrip.vpruneN1M8 (a : VPruneArgs) : Sys2Proof.Laws.RoundTrip.Statement (.vpruneN1M8 a) :=
  Stt.of4 rfl (e := encPrune 0x39 2 a) rfl <| rt_Prune _ a (by decide) (by decide) fun w h1 h2 => (major_39 h1).trans (by rw [h2]; rfl)
theorem Sys2Proof.Laws.RoundTrip.vpruneN2M8 (a : VPruneArgs) : Sys2Proof.Laws.RoundTrip.Statement (.vpruneN2M8 a) :=
  Stt.of4 rfl (e := encPrune 0x39 3 a) rfl <| rt_Prune _ a (by decide) (by decide) fun w h1 h2 => (major_39 h1).trans (by rw [h2]; rfl)
theorem Sys2Proof.Laws.rd_hAddi (rd : Reg) (imm : BitVec 7) {z : Nat} (h0 : bits z 1 3 = 0) (h1 : bits z 4 5 = rd.val) (h2 : bits z 4 5 = rd.val) (h3 : bits z 9 7 = imm.toNat) (hs : rd ≠ 0) :
    decode16 z = .ok (.hAddi rd imm) := by
  simp [decode16, h0, h1, reg_eq h2, h3, decHd, hs]
theorem Sys2Proof.Laws.RoundTrip.hAddi (rd : Reg) (imm : BitVec 7) : Sys2Proof.Laws.RoundTrip.Statement (.hAddi rd imm) :=
  Stt.of2w rfl (e := encH 0 rd imm.toNat) rfl fun hw => rd_hAddi rd imm (by simp only [bits, encH]; omega) (by simp only [bits, encH]; omega) (by simp only [bits, encH]; omega) (by simp only [bits, encH]; omega) (by simpa [Instr.wellFormed] using hw)
theorem Sys2Proof.Laws.rd_hSeti (rd : Reg) (imm : BitVec 7) {z : Nat} (h0 : bits z 1 3 = 1) (h1 : bits z 4 5 = rd.val) (h2 : bits z 4 5 = rd.val) (h3 : bits z 9 7 = imm.toNat) (hs : rd ≠ 0) :
    decode16 z = .ok (.hSeti rd imm) := by
  simp [decode16, h0, h1, reg_eq h2, h3, decHd, hs]
theorem Sys2Proof.Laws.RoundTrip.hSeti (rd : Reg) (imm : BitVec 7) : Sys2Proof.Laws.RoundTrip.Statement (.hSeti rd imm) :=
  Stt.of2w rfl (e := encH 1 rd imm.toNat) rfl fun hw => rd_hSeti rd imm (by simp only [bits, encH]; omega) (by simp only [bits, encH]; omega) (by simp only [bits, encH]; omega) (by simp only [bits, encH]; omega) (by simpa [Instr.wellFormed] using hw)
theorem Sys2Proof.Laws.rd_hCopy (rd : Reg) (xs : Reg) {z : Nat} (h0 : bits z 1 3 = 2) (h1 : bits z 14 2 = 0) (h2 : bits z 4 5 = rd.val) (h3 : bits z 4 5 = rd.val) (h4 : bits z 9 5 = xs.val) (hs : rd ≠ 0) :
    decode16 z = .ok (.hCopy rd xs) := by
  simp [decode16, h0, h1, h2, reg_eq h3, reg_eq h4, decHd, zero, hs]
theorem Sys2Proof.Laws.RoundTrip.hCopy (rd : Reg) (xs : Reg) : Sys2Proof.Laws.RoundTrip.Statement (.hCopy rd xs) :=
  Stt.of2w rfl (e := encH 2 rd xs) rfl fun hw => rd_hCopy rd xs (by simp only [bits, encH]; omega) (by simp only [bits, encH]; omega) (by simp only [bits, encH]; omega) (by simp only [bits, encH]; omega) (by simp only [bits, encH]; omega) (by simpa [Instr.wellFormed] using hw)
theorem Sys2Proof.Laws.rd_hAdd (rd : Reg) (xs : Reg) {z : Nat} (h0 : bits z 1 3 = 3) (h1 : bits z 14 2 = 0) (h2 : bits z 4 5 = rd.val) (h3 : bits z 4 5 = rd.val) (h4 : bits z 9 5 = xs.val) (hs : rd ≠ 0) :
    decode16 z = .ok (.hAdd rd xs) := by
  simp [decode16, h0, h1, h2, reg_eq h3, reg_eq h4, decHd, zero, hs]
theorem Sys2Proof.Laws.RoundTrip.hAdd (rd : Reg) (xs : Reg) : Sys2Proof.Laws.RoundTrip.Statement (.hAdd rd xs) :=
  Stt.of2w rfl (e := encH 3 rd xs) rfl fun hw => rd_hAdd rd xs (by simp only [bits, encH]; omega) (by simp only [bits, encH]; omega) (by simp only [bits, encH]; omega) (by simp only [bits, encH]; omega) (by simp only [bits, encH]; omega) (by simpa [Instr.wellFormed] using hw)
theorem Sys2Proof.Laws.rd_hBz (rs1 : Reg) (off : BitVec 7) {z : Nat} (h0 : bits z 1 3 = 4) (h1 : bits z 4 5 = rs1.val) (h2 : bits z 9 7 = off.toNat) :
    decode16 z = .ok (.hBz rs1 off) := by
  simp [decode16, h0, reg_eq h1, h2]
theorem Sys2Proof.Laws.RoundTrip.hBz (rs1 : Reg) (off : BitVec 7) : Sys2Proof.Laws.RoundTrip.Statement (.hBz rs1 off) :=
  Stt.of2 rfl (e := encH 4 rs1 off.toNat) rfl <| rd_hBz rs1 off (by simp only [bits, encH]; omega) (by simp only [bits, encH]; omega) (by simp only [bits, encH]; omega)
theorem Sys2Proof.Laws.rd_hBnz (rs1 : Reg) (off : BitVec 7) {z : Nat} (h0 : bits z 1 3 = 5) (h1 : bits z 4 5 = rs1.val) (h2 : bits z 9 7 = off.toNat) :
    decode16 z = .ok (.hBnz rs1 off) := by
  simp [decode16, h0, reg_eq h1, h2]
theorem Sys2Proof.Laws.RoundTrip.hBnz (rs1 : Reg) (off : BitVec 7) : Sys2Proof.Laws.RoundTrip.Statement (.hBnz rs1 off) :=
  Stt.of2 rfl (e := encH 5 rs1 off.toNat) rfl <| rd_hBnz rs1 off (by simp only [bits, encH]; omega) (by simp only [bits, encH]; omega) (by simp only [bits, encH]; omega)
theorem Sys2Proof.Laws.rd_mldb (a : MatArgs) {z : Nat} (hm : bits z 2 6 = 16) (h0 : bits z 8 3 = 0) (h1 : bits z 37 27 = 0) (h2 : bits z 15 9 = 0) (h3 : bits z 11 4 = a.n.val) (h4 : bits z 24 5 = a.xs1.val) (h5 : bits z 29 5 = a.xs2.val) (h6 : bits z 34 3 = a.fmt.val) :
    decode64 z = .ok (.mldb a) := by
  simp [decode64, hm, decodeMatrix, h0, h1, h2, num4_eq h3, reg_eq h4, reg_eq h5, reg3_eq h6, zero, decMat]
theorem Sys2Proof.Laws.RoundTrip.mldb (a : MatArgs) : Sys2Proof.Laws.RoundTrip.Statement (.mldb a) :=
  Stt.of8 rfl (e := encMat 0 a.fmt a.xs2 a.xs1 0 0 a.n) rfl <| rd_mldb a (by simp only [bits, encMat]; omega) (by simp only [bits, encMat]; omega) (by simp only [bits, encMat]; omega) (by simp only [bits, encMat]; omega) (by simp only [bits, encMat]; omega) (by simp only [bits, encMat]; omega) (by simp only [bits, encMat]; omega) (by simp only [bits, encMat]; omega)
theorem Sys2Proof.Laws.rd_mldbP (a : MatArgs) {z : Nat} (hm : bits z 2 6 = 16) (h0 : bits z 8 3 = 1) (h1 : bits z 37 27 = 0) (h2 : bits z 15 9 = 0) (h3 : bits z 11 4 = a.n.val) (h4 : bits z 24 5 = a.xs1.val) (h5 : bits z 29 5 = a.xs2.val) (h6 : bits z 34 3 = a.fmt.val) :
    decode64 z = .ok (.mldbP a) := by
  simp [decode64, hm, decodeMatrix, h0, h1, h2, num4_eq h3, reg_eq h4, reg_eq h5, reg3_eq h6, zero, decMat]
theorem Sys2Proof.Laws.RoundTrip.mldbP (a : MatArgs) : Sys2Proof.Laws.RoundTrip.Statement (.mldbP a) :=
  Stt.of8 rfl (e := encMat 1 a.fmt a.xs2 a.xs1 0 0 a.n) rfl <| rd_mldbP a (by simp only [bits, encMat]; omega) (by simp only [bits, encMat]; omega) (by simp only [bits, encMat]; omega) (by simp only [bits, encMat]; omega) (by simp only [bits, encMat]; omega) (by simp only [bits, encMat]; omega) (by simp only [bits, encMat]; omega) (by simp only [bits, encMat]; omega)
theorem Sys2Proof.Laws.rd_mma (a : MmaArgs) {z : Nat} (hm : bits z 2 6 = 16) (h0 : bits z 8 3 = 2) (h1 : bits z 37 27 = 0) (h2 : bits z 24 10 = 0) (h3 : bits z 15 4 = a.acc.val) (h4 : bits z 11 4 = a.panel.val) (h5 : bits z 19 5 = a.vs.val) (h6 : bits z 34 3 = a.fmt.val) :
    decode64 z = .ok (.mma a) := by
  simp [decode64, hm, decodeMatrix, h0, h1, h2, num4_eq h3, num4_eq h4, reg_eq h5, reg3_eq h6, zero]
theorem Sys2Proof.Laws.RoundTrip.mma (a : MmaArgs) : Sys2Proof.Laws.RoundTrip.Statement (.mma a) :=
  Stt.of8 rfl (e := encMat 2 a.fmt 0 0 a.vs a.acc a.panel) rfl <| rd_mma a (by simp only [bits, encMat]; omega) (by simp only [bits, encMat]; omega) (by simp only [bits, encMat]; omega) (by simp only [bits, encMat]; omega) (by simp only [bits, encMat]; omega) (by simp only [bits, encMat]; omega) (by simp only [bits, encMat]; omega) (by simp only [bits, encMat]; omega)
theorem Sys2Proof.Laws.rd_mzero (acc : Fin 16) (fmt : Fin 8) {z : Nat} (hm : bits z 2 6 = 16) (h0 : bits z 8 3 = 3) (h1 : bits z 37 27 = 0) (h2 : bits z 19 15 = 0) (h3 : bits z 11 4 = 0) (h4 : bits z 15 4 = acc.val) (h5 : bits z 34 3 = fmt.val) :
    decode64 z = .ok (.mzero acc fmt) := by
  simp [decode64, hm, decodeMatrix, h0, h1, h2, h3, num4_eq h4, reg3_eq h5, zero]
theorem Sys2Proof.Laws.RoundTrip.mzero (acc : Fin 16) (fmt : Fin 8) : Sys2Proof.Laws.RoundTrip.Statement (.mzero acc fmt) :=
  Stt.of8 rfl (e := encMat 3 fmt 0 0 0 acc 0) rfl <| rd_mzero acc fmt (by simp only [bits, encMat]; omega) (by simp only [bits, encMat]; omega) (by simp only [bits, encMat]; omega) (by simp only [bits, encMat]; omega) (by simp only [bits, encMat]; omega) (by simp only [bits, encMat]; omega) (by simp only [bits, encMat]; omega)
theorem Sys2Proof.Laws.rd_mst (a : MatArgs) {z : Nat} (hm : bits z 2 6 = 16) (h0 : bits z 8 3 = 4) (h1 : bits z 37 27 = 0) (h2 : bits z 19 5 = 0) (h3 : bits z 11 4 = 0) (h4 : bits z 15 4 = a.n.val) (h5 : bits z 24 5 = a.xs1.val) (h6 : bits z 29 5 = a.xs2.val) (h7 : bits z 34 3 = a.fmt.val) :
    decode64 z = .ok (.mst a) := by
  simp [decode64, hm, decodeMatrix, h0, h1, h2, h3, num4_eq h4, reg_eq h5, reg_eq h6, reg3_eq h7, zero, decMat]
theorem Sys2Proof.Laws.RoundTrip.mst (a : MatArgs) : Sys2Proof.Laws.RoundTrip.Statement (.mst a) :=
  Stt.of8 rfl (e := encMat 4 a.fmt a.xs2 a.xs1 0 a.n 0) rfl <| rd_mst a (by simp only [bits, encMat]; omega) (by simp only [bits, encMat]; omega) (by simp only [bits, encMat]; omega) (by simp only [bits, encMat]; omega) (by simp only [bits, encMat]; omega) (by simp only [bits, encMat]; omega) (by simp only [bits, encMat]; omega) (by simp only [bits, encMat]; omega) (by simp only [bits, encMat]; omega)
theorem Sys2Proof.Laws.rd_mldacc (a : MatArgs) {z : Nat} (hm : bits z 2 6 = 16) (h0 : bits z 8 3 = 5) (h1 : bits z 37 27 = 0) (h2 : bits z 19 5 = 0) (h3 : bits z 11 4 = 0) (h4 : bits z 15 4 = a.n.val) (h5 : bits z 24 5 = a.xs1.val) (h6 : bits z 29 5 = a.xs2.val) (h7 : bits z 34 3 = a.fmt.val) :
    decode64 z = .ok (.mldacc a) := by
  simp [decode64, hm, decodeMatrix, h0, h1, h2, h3, num4_eq h4, reg_eq h5, reg_eq h6, reg3_eq h7, zero, decMat]
theorem Sys2Proof.Laws.RoundTrip.mldacc (a : MatArgs) : Sys2Proof.Laws.RoundTrip.Statement (.mldacc a) :=
  Stt.of8 rfl (e := encMat 5 a.fmt a.xs2 a.xs1 0 a.n 0) rfl <| rd_mldacc a (by simp only [bits, encMat]; omega) (by simp only [bits, encMat]; omega) (by simp only [bits, encMat]; omega) (by simp only [bits, encMat]; omega) (by simp only [bits, encMat]; omega) (by simp only [bits, encMat]; omega) (by simp only [bits, encMat]; omega) (by simp only [bits, encMat]; omega) (by simp only [bits, encMat]; omega)
theorem Sys2Proof.Laws.rd_ecopy (rd : Reg) (xs1 : Reg) {z : Nat} (hm : bits z 2 6 = 17) (h0 : bits z 8 3 = 0) (h1 : bits z 29 35 = 0) (h2 : bits z 11 8 = 0) (h3 : bits z 19 5 = rd.val) (h4 : bits z 24 5 = xs1.val) :
    decode64 z = .ok (.ecopy rd xs1) := by
  simp [decode64, hm, decodeEngine, h0, h1, h2, reg_eq h3, reg_eq h4, zero]
theorem Sys2Proof.Laws.RoundTrip.ecopy (rd : Reg) (xs1 : Reg) : Sys2Proof.Laws.RoundTrip.Statement (.ecopy rd xs1) :=
  Stt.of8 rfl (e := encE 0 rd xs1) rfl <| rd_ecopy rd xs1 (by simp only [bits, encE]; omega) (by simp only [bits, encE]; omega) (by simp only [bits, encE]; omega) (by simp only [bits, encE]; omega) (by simp only [bits, encE]; omega) (by simp only [bits, encE]; omega)
theorem Sys2Proof.Laws.rd_equant (rd : Reg) (xs1 : Reg) {z : Nat} (hm : bits z 2 6 = 17) (h0 : bits z 8 3 = 1) (h1 : bits z 29 35 = 0) (h2 : bits z 11 8 = 0) (h3 : bits z 19 5 = rd.val) (h4 : bits z 24 5 = xs1.val) :
    decode64 z = .ok (.equant rd xs1) := by
  simp [decode64, hm, decodeEngine, h0, h1, h2, reg_eq h3, reg_eq h4, zero]
theorem Sys2Proof.Laws.RoundTrip.equant (rd : Reg) (xs1 : Reg) : Sys2Proof.Laws.RoundTrip.Statement (.equant rd xs1) :=
  Stt.of8 rfl (e := encE 1 rd xs1) rfl <| rd_equant rd xs1 (by simp only [bits, encE]; omega) (by simp only [bits, encE]; omega) (by simp only [bits, encE]; omega) (by simp only [bits, encE]; omega) (by simp only [bits, encE]; omega) (by simp only [bits, encE]; omega)
theorem Sys2Proof.Laws.rd_epack (rd : Reg) (xs1 : Reg) {z : Nat} (hm : bits z 2 6 = 17) (h0 : bits z 8 3 = 2) (h1 : bits z 29 35 = 0) (h2 : bits z 11 8 = 0) (h3 : bits z 19 5 = rd.val) (h4 : bits z 24 5 = xs1.val) :
    decode64 z = .ok (.epack rd xs1) := by
  simp [decode64, hm, decodeEngine, h0, h1, h2, reg_eq h3, reg_eq h4, zero]
theorem Sys2Proof.Laws.RoundTrip.epack (rd : Reg) (xs1 : Reg) : Sys2Proof.Laws.RoundTrip.Statement (.epack rd xs1) :=
  Stt.of8 rfl (e := encE 2 rd xs1) rfl <| rd_epack rd xs1 (by simp only [bits, encE]; omega) (by simp only [bits, encE]; omega) (by simp only [bits, encE]; omega) (by simp only [bits, encE]; omega) (by simp only [bits, encE]; omega) (by simp only [bits, encE]; omega)
theorem Sys2Proof.Laws.rd_eunpack (rd : Reg) (xs1 : Reg) {z : Nat} (hm : bits z 2 6 = 17) (h0 : bits z 8 3 = 3) (h1 : bits z 29 35 = 0) (h2 : bits z 11 8 = 0) (h3 : bits z 19 5 = rd.val) (h4 : bits z 24 5 = xs1.val) :
    decode64 z = .ok (.eunpack rd xs1) := by
  simp [decode64, hm, decodeEngine, h0, h1, h2, reg_eq h3, reg_eq h4, zero]
theorem Sys2Proof.Laws.RoundTrip.eunpack (rd : Reg) (xs1 : Reg) : Sys2Proof.Laws.RoundTrip.Statement (.eunpack rd xs1) :=
  Stt.of8 rfl (e := encE 3 rd xs1) rfl <| rd_eunpack rd xs1 (by simp only [bits, encE]; omega) (by simp only [bits, encE]; omega) (by simp only [bits, encE]; omega) (by simp only [bits, encE]; omega) (by simp only [bits, encE]; omega) (by simp only [bits, encE]; omega)
theorem Sys2Proof.Laws.rd_eseq (rd : Reg) {z : Nat} (hm : bits z 2 6 = 17) (h0 : bits z 8 3 = 4) (h1 : bits z 29 35 = 0) (h2 : bits z 11 8 = 0) (h3 : bits z 24 5 = 0) (h4 : bits z 19 5 = rd.val) :
    decode64 z = .ok (.eseq rd) := by
  simp [decode64, hm, decodeEngine, h0, h1, h2, h3, reg_eq h4, zero]
theorem Sys2Proof.Laws.RoundTrip.eseq (rd : Reg) : Sys2Proof.Laws.RoundTrip.Statement (.eseq rd) :=
  Stt.of8 rfl (e := encE 4 rd 0) rfl <| rd_eseq rd (by simp only [bits, encE]; omega) (by simp only [bits, encE]; omega) (by simp only [bits, encE]; omega) (by simp only [bits, encE]; omega) (by simp only [bits, encE]; omega) (by simp only [bits, encE]; omega)
theorem Sys2Proof.Laws.rd_evpop (rd : Reg) (xs1 : Reg) {z : Nat} (hm : bits z 2 6 = 17) (h0 : bits z 8 3 = 5) (h1 : bits z 29 35 = 0) (h2 : bits z 11 8 = 0) (h3 : bits z 19 5 = rd.val) (h4 : bits z 24 5 = xs1.val) :
    decode64 z = .ok (.evpop rd xs1) := by
  simp [decode64, hm, decodeEngine, h0, h1, h2, reg_eq h3, reg_eq h4, zero]
theorem Sys2Proof.Laws.RoundTrip.evpop (rd : Reg) (xs1 : Reg) : Sys2Proof.Laws.RoundTrip.Statement (.evpop rd xs1) :=
  Stt.of8 rfl (e := encE 5 rd xs1) rfl <| rd_evpop rd xs1 (by simp only [bits, encE]; omega) (by simp only [bits, encE]; omega) (by simp only [bits, encE]; omega) (by simp only [bits, encE]; omega) (by simp only [bits, encE]; omega) (by simp only [bits, encE]; omega)
theorem Sys2Proof.Laws.RoundTrip.lqtailWrite (q : Fin 64) (v : Word) : Sys2Proof.Laws.RoundTrip.Statement (.lqtailWrite q v) :=
  fun h _ => Bool.noConfusion h
theorem Sys2Proof.Laws.RoundTrip.lqsizeWrite (q : Fin 64) (v : Word) : Sys2Proof.Laws.RoundTrip.Statement (.lqsizeWrite q v) :=
  fun h _ => Bool.noConfusion h
theorem Sys2Proof.Laws.RoundTrip.eqsizeWrite (v : Word) : Sys2Proof.Laws.RoundTrip.Statement (.eqsizeWrite v) :=
  fun h _ => Bool.noConfusion h
theorem Sys2Proof.Laws.RoundTrip.eqheadWrite (v : Word) : Sys2Proof.Laws.RoundTrip.Statement (.eqheadWrite v) :=
  fun h _ => Bool.noConfusion h
theorem Sys2Proof.Laws.RoundTrip.eqctlWrite (v : Word) : Sys2Proof.Laws.RoundTrip.Statement (.eqctlWrite v) :=
  fun h _ => Bool.noConfusion h
theorem Sys2Proof.Laws.RoundTrip.registerWrite (r : Bar0Reg) (v : Word) : Sys2Proof.Laws.RoundTrip.Statement (.registerWrite r v) :=
  fun h _ => Bool.noConfusion h
theorem Sys2Proof.Laws.RoundTrip.packetCheck (q : Fin 64) : Sys2Proof.Laws.RoundTrip.Statement (.packetCheck q) :=
  fun h _ => Bool.noConfusion h
theorem Sys2Proof.Laws.RoundTrip.launchDispatch : Sys2Proof.Laws.RoundTrip.Statement (.launchDispatch) :=
  fun h _ => Bool.noConfusion h
theorem Sys2Proof.Laws.RoundTrip.squadPlace (lid : BitVec 32) (die : Fin 4) (gangs : List GangPlace) : Sys2Proof.Laws.RoundTrip.Statement (.squadPlace lid die gangs) :=
  fun h _ => Bool.noConfusion h
theorem Sys2Proof.Laws.RoundTrip.launchComplete (lid : BitVec 32) : Sys2Proof.Laws.RoundTrip.Statement (.launchComplete lid) :=
  fun h _ => Bool.noConfusion h
theorem Sys2Proof.Laws.RoundTrip.arbiterGrant (strand : Nat) (matrixUnit : Bool) : Sys2Proof.Laws.RoundTrip.Statement (.arbiterGrant strand matrixUnit) :=
  fun h _ => Bool.noConfusion h
theorem Sys2Proof.Laws.RoundTrip.arrivalMarkerFire (strand : Nat) : Sys2Proof.Laws.RoundTrip.Statement (.arrivalMarkerFire strand) :=
  fun h _ => Bool.noConfusion h
theorem Sys2Proof.Laws.RoundTrip.convoyMarkerFire (strand : Nat) : Sys2Proof.Laws.RoundTrip.Statement (.convoyMarkerFire strand) :=
  fun h _ => Bool.noConfusion h
theorem Sys2Proof.Laws.RoundTrip.queueDeadlockTimeout (strand : Nat) : Sys2Proof.Laws.RoundTrip.Statement (.queueDeadlockTimeout strand) :=
  fun h _ => Bool.noConfusion h
theorem Sys2Proof.Laws.RoundTrip.computeStopTimeout (strand : Nat) : Sys2Proof.Laws.RoundTrip.Statement (.computeStopTimeout strand) :=
  fun h _ => Bool.noConfusion h
theorem Sys2Proof.Laws.RoundTrip.ldqSlotFull (strand : Nat) : Sys2Proof.Laws.RoundTrip.Statement (.ldqSlotFull strand) :=
  fun h _ => Bool.noConfusion h
theorem Sys2Proof.Laws.RoundTrip.vwaitRecheck (strand : Nat) : Sys2Proof.Laws.RoundTrip.Statement (.vwaitRecheck strand) :=
  fun h _ => Bool.noConfusion h
theorem Sys2Proof.Laws.RoundTrip.vwaitTimeout (strand : Nat) : Sys2Proof.Laws.RoundTrip.Statement (.vwaitTimeout strand) :=
  fun h _ => Bool.noConfusion h
theorem Sys2Proof.Laws.RoundTrip.detAddWaitTimeout (strand : Nat) : Sys2Proof.Laws.RoundTrip.Statement (.detAddWaitTimeout strand) :=
  fun h _ => Bool.noConfusion h
theorem Sys2Proof.Laws.RoundTrip.trapEntry (e : TrapEvent) : Sys2Proof.Laws.RoundTrip.Statement (.trapEntry e) :=
  fun h _ => Bool.noConfusion h
theorem Sys2Proof.Laws.RoundTrip.preemptGo (v : Word) : Sys2Proof.Laws.RoundTrip.Statement (.preemptGo v) :=
  fun h _ => Bool.noConfusion h
theorem Sys2Proof.Laws.RoundTrip.preemptResume (v : Word) : Sys2Proof.Laws.RoundTrip.Statement (.preemptResume v) :=
  fun h _ => Bool.noConfusion h
theorem Sys2Proof.Laws.RoundTrip.launchAbort (v : Word) : Sys2Proof.Laws.RoundTrip.Statement (.launchAbort v) :=
  fun h _ => Bool.noConfusion h
theorem Sys2Proof.Laws.RoundTrip.preemptErrClear (v : Word) : Sys2Proof.Laws.RoundTrip.Statement (.preemptErrClear v) :=
  fun h _ => Bool.noConfusion h
theorem Sys2Proof.Laws.RoundTrip.squadSave (lid : BitVec 32) (squad : Nat) : Sys2Proof.Laws.RoundTrip.Statement (.squadSave lid squad) :=
  fun h _ => Bool.noConfusion h
theorem Sys2Proof.Laws.RoundTrip.switchIn (strand : Nat) : Sys2Proof.Laws.RoundTrip.Statement (.switchIn strand) :=
  fun h _ => Bool.noConfusion h
theorem Sys2Proof.Laws.RoundTrip.deviceFatal (cause : FatalCause) : Sys2Proof.Laws.RoundTrip.Statement (.deviceFatal cause) :=
  fun h _ => Bool.noConfusion h
theorem Sys2Proof.Laws.RoundTrip.hubWatchdogExpiry : Sys2Proof.Laws.RoundTrip.Statement (.hubWatchdogExpiry) :=
  fun h _ => Bool.noConfusion h
theorem Sys2Proof.Laws.RoundTrip.thermalLimit (die : Fin 5) (celsius : Nat) (lanes : Fin 33) (rate : Fin 17) : Sys2Proof.Laws.RoundTrip.Statement (.thermalLimit die celsius lanes rate) :=
  fun h _ => Bool.noConfusion h
theorem Sys2Proof.Laws.RoundTrip.powerSample (milliwatt : Nat) (lanes : Fin 33) (rate : Fin 17) : Sys2Proof.Laws.RoundTrip.Statement (.powerSample milliwatt lanes rate) :=
  fun h _ => Bool.noConfusion h
theorem Sys2Proof.Laws.RoundTrip.grantUpdate (cluster : Fin 160) : Sys2Proof.Laws.RoundTrip.Statement (.grantUpdate cluster) :=
  fun h _ => Bool.noConfusion h
theorem Sys2Proof.Laws.RoundTrip.grantOverrunThrottle (strand : Nat) : Sys2Proof.Laws.RoundTrip.Statement (.grantOverrunThrottle strand) :=
  fun h _ => Bool.noConfusion h
theorem Sys2Proof.Laws.RoundTrip.coldStart (i : StartInputs) : Sys2Proof.Laws.RoundTrip.Statement (.coldStart i) :=
  fun h _ => Bool.noConfusion h
theorem Sys2Proof.Laws.RoundTrip.warmStart (i : StartInputs) : Sys2Proof.Laws.RoundTrip.Statement (.warmStart i) :=
  fun h _ => Bool.noConfusion h
theorem Sys2Proof.Laws.RoundTrip.firmwareUpdate (image : BitVec 256) : Sys2Proof.Laws.RoundTrip.Statement (.firmwareUpdate image) :=
  fun h _ => Bool.noConfusion h
theorem Sys2Proof.Laws.RoundTrip.pldmMonitor : Sys2Proof.Laws.RoundTrip.Statement (.pldmMonitor) :=
  fun h _ => Bool.noConfusion h
theorem Sys2Proof.Laws.RoundTrip.attestationReport (nonce : BitVec 256) : Sys2Proof.Laws.RoundTrip.Statement (.attestationReport nonce) :=
  fun h _ => Bool.noConfusion h
theorem Sys2Proof.Laws.RoundTrip.hostBar2Access (a : Bar2Access) : Sys2Proof.Laws.RoundTrip.Statement (.hostBar2Access a) :=
  fun h _ => Bool.noConfusion h
theorem Sys2Proof.Laws.RoundTrip.engineCommandEnd (cluster : Fin 160) (seq : Nat) (memErr : Bool) : Sys2Proof.Laws.RoundTrip.Statement (.engineCommandEnd cluster seq memErr) :=
  fun h _ => Bool.noConfusion h
theorem Sys2Proof.Laws.RoundTrip.scrub (tier : Tier) (pa : Nat) (ok : Bool) : Sys2Proof.Laws.RoundTrip.Statement (.scrub tier pa ok) :=
  fun h _ => Bool.noConfusion h
theorem Sys2Proof.Laws.RoundTrip.dramRefresh : Sys2Proof.Laws.RoundTrip.Statement (.dramRefresh) :=
  fun h _ => Bool.noConfusion h
theorem Sys2Proof.Laws.RoundTrip.opticalCalibration : Sys2Proof.Laws.RoundTrip.Statement (.opticalCalibration) :=
  fun h _ => Bool.noConfusion h
theorem Sys2Proof.Laws.RoundTrip.telemetry : Sys2Proof.Laws.RoundTrip.Statement (.telemetry) :=
  fun h _ => Bool.noConfusion h
theorem Sys2Proof.Laws.RoundTrip.fabcfgWrite (v : Word) : Sys2Proof.Laws.RoundTrip.Statement (.fabcfgWrite v) :=
  fun h _ => Bool.noConfusion h
theorem Sys2Proof.Laws.RoundTrip.calWrite (offset : Fin 2048) (bytes : WriteBytes) (v : Word) : Sys2Proof.Laws.RoundTrip.Statement (.calWrite offset bytes v) :=
  fun h _ => Bool.noConfusion h
theorem Sys2Proof.Laws.RoundTrip.portctlEn (p : Fin 128) (en : Bool) : Sys2Proof.Laws.RoundTrip.Statement (.portctlEn p en) :=
  fun h _ => Bool.noConfusion h
theorem Sys2Proof.Laws.RoundTrip.portctlRearm (p : Fin 128) : Sys2Proof.Laws.RoundTrip.Statement (.portctlRearm p) :=
  fun h _ => Bool.noConfusion h
theorem Sys2Proof.Laws.RoundTrip.turnStart (p : Fin 128) : Sys2Proof.Laws.RoundTrip.Statement (.turnStart p) :=
  fun h _ => Bool.noConfusion h
theorem Sys2Proof.Laws.RoundTrip.turnstart (p : Fin 128) (f : TurnFlit) : Sys2Proof.Laws.RoundTrip.Statement (.turnstart p f) :=
  fun h _ => Bool.noConfusion h
theorem Sys2Proof.Laws.RoundTrip.lockLoss (p : Fin 128) : Sys2Proof.Laws.RoundTrip.Statement (.lockLoss p) :=
  fun h _ => Bool.noConfusion h
theorem Sys2Proof.Laws.RoundTrip.flitSend (p : Fin 128) : Sys2Proof.Laws.RoundTrip.Statement (.flitSend p) :=
  fun h _ => Bool.noConfusion h
theorem Sys2Proof.Laws.RoundTrip.windowEnd (p : Fin 128) (acked : List Bool) : Sys2Proof.Laws.RoundTrip.Statement (.windowEnd p acked) :=
  fun h _ => Bool.noConfusion h
theorem Sys2Proof.Laws.RoundTrip.write (p : Fin 128) (f : Arrival) : Sys2Proof.Laws.RoundTrip.Statement (.write p f) :=
  fun h _ => Bool.noConfusion h
theorem Sys2Proof.Laws.RoundTrip.rdreq (p : Fin 128) (f : Arrival) : Sys2Proof.Laws.RoundTrip.Statement (.rdreq p f) :=
  fun h _ => Bool.noConfusion h
theorem Sys2Proof.Laws.RoundTrip.rdreply (p : Fin 128) (f : Arrival) : Sys2Proof.Laws.RoundTrip.Statement (.rdreply p f) :=
  fun h _ => Bool.noConfusion h
theorem Sys2Proof.Laws.RoundTrip.atomic (p : Fin 128) (f : Arrival) : Sys2Proof.Laws.RoundTrip.Statement (.atomic p f) :=
  fun h _ => Bool.noConfusion h
theorem Sys2Proof.Laws.RoundTrip.atreply (p : Fin 128) (f : Arrival) : Sys2Proof.Laws.RoundTrip.Statement (.atreply p f) :=
  fun h _ => Bool.noConfusion h
theorem Sys2Proof.Laws.RoundTrip.vecreq (p : Fin 128) (f : Arrival) : Sys2Proof.Laws.RoundTrip.Statement (.vecreq p f) :=
  fun h _ => Bool.noConfusion h
theorem Sys2Proof.Laws.RoundTrip.vecreply (p : Fin 128) (f : Arrival) : Sys2Proof.Laws.RoundTrip.Statement (.vecreply p f) :=
  fun h _ => Bool.noConfusion h
theorem Sys2Proof.Laws.RoundTrip.relmark (p : Fin 128) (f : Arrival) : Sys2Proof.Laws.RoundTrip.Statement (.relmark p f) :=
  fun h _ => Bool.noConfusion h
theorem Sys2Proof.Laws.RoundTrip.pack (p : Fin 128) (f : Arrival) : Sys2Proof.Laws.RoundTrip.Statement (.pack p f) :=
  fun h _ => Bool.noConfusion h
theorem Sys2Proof.Laws.RoundTrip.notice (p : Fin 128) (f : Arrival) : Sys2Proof.Laws.RoundTrip.Statement (.notice p f) :=
  fun h _ => Bool.noConfusion h
theorem Sys2Proof.Laws.RoundTrip.deliveryTimeout (dst : BitVec 16) (cls : BitVec 2) (seq : BitVec 32) : Sys2Proof.Laws.RoundTrip.Statement (.deliveryTimeout dst cls seq) :=
  fun h _ => Bool.noConfusion h
theorem Sys2Proof.Laws.RoundTrip.relayTimeout (i : Nat) : Sys2Proof.Laws.RoundTrip.Statement (.relayTimeout i) :=
  fun h _ => Bool.noConfusion h
theorem Sys2Proof.Laws.RoundTrip.laserLoss (p : Fin 128) (mask : BitVec 16) : Sys2Proof.Laws.RoundTrip.Statement (.laserLoss p mask) :=
  fun h _ => Bool.noConfusion h
theorem Sys2Proof.Laws.RoundTrip.rxLossDetect (p : Fin 128) (mask : BitVec 16) : Sys2Proof.Laws.RoundTrip.Statement (.rxLossDetect p mask) :=
  fun h _ => Bool.noConfusion h
theorem Sys2Proof.Laws.RoundTrip.lossReportReceive (p : Fin 128) (mask : BitVec 16) : Sys2Proof.Laws.RoundTrip.Statement (.lossReportReceive p mask) :=
  fun h _ => Bool.noConfusion h
theorem Sys2Proof.Laws.RoundTrip.accessPerformed (strand : Nat) (i : Nat) : Sys2Proof.Laws.RoundTrip.Statement (.accessPerformed strand i) :=
  fun h _ => Bool.noConfusion h
theorem Sys2Proof.Laws.RoundTrip.writeBack (i : Nat) (ok : Bool) : Sys2Proof.Laws.RoundTrip.Statement (.writeBack i ok) :=
  fun h _ => Bool.noConfusion h
theorem Sys2Proof.Laws.RoundTrip.matrixInstructionEnd (strand : Nat) : Sys2Proof.Laws.RoundTrip.Statement (.matrixInstructionEnd strand) :=
  fun h _ => Bool.noConfusion h
theorem Sys2Proof.Laws.RoundTrip.lightReturn (p : Fin 128) (mask : BitVec 16) : Sys2Proof.Laws.RoundTrip.Statement (.lightReturn p mask) :=
  fun h _ => Bool.noConfusion h
theorem Sys2Proof.Laws.RoundTrip.coolantFlowChange (flowing : Bool) : Sys2Proof.Laws.RoundTrip.Statement (.coolantFlowChange flowing) :=
  fun h _ => Bool.noConfusion h
theorem Sys2Proof.Laws.RoundTrip.pcieCompletion (r : HostReply) : Sys2Proof.Laws.RoundTrip.Statement (.pcieCompletion r) :=
  fun h _ => Bool.noConfusion h

end
end

