-- ==== Sys2Proof/Laws/Shared.lean ====
section
/-! SUPPORT. What each shared operation can do, once: performing and delaying stores, event records, rejecting and aborting a launch,
taking a trap and returning from one; and that each keeps the state sound. -/

namespace Sys2Proof.Laws

open Sys2Proof.Machine

/-! Soundness looks at three things only. -/

/-- A state with the same memory and the same bounded lists is as sound. -/
theorem sound_congr {s t : State} (h : s.Sound) (hm : t.mem = s.mem) (hr : t.hub.rejected = s.hub.rejected)
    (he : t.hub.events.held = s.hub.events.held) : t.Sound :=
  ⟨by unfold State.MemoryCanonical; rw [hm]; exact h.memory, by unfold State.HubBounded; rw [hr, he]; exact h.hub⟩

/-- Replacing memory by a canonical one keeps soundness. -/
theorem sound_mem {s : State} (h : s.Sound) (m : Memory) (hm : m.wf = true) : ({ s with mem := m } : State).Sound := ⟨hm, h.hub⟩

/-! Performing stores (R200, R214). -/

/-- Performing writes changes memory, the die's copies, and what adds that wait for a line know of it, and nothing else. -/
theorem perform_eq (bs : List (Nat × Byte)) (s : State) (die : Nat) :
    s.perform die bs = { s with
      mem := (s.perform die bs).mem, l2 := (s.perform die bs).l2, det := { s.det with due := (s.perform die bs).det.due } } := by
  induction bs generalizing s with
  | nil => rfl
  | cons c bs ih =>
    obtain ⟨k, b⟩ := c
    simp only [State.perform]
    rw [ih]
    split <;> rfl

/-- Performing writes puts those of this package's own memory into it, in order. -/
theorem perform_mem (bs : List (Nat × Byte)) (s : State) (die : Nat) :
    (s.perform die bs).mem = s.mem.setAll (bs.filter fun c => !isFar c.1) := by
  induction bs generalizing s with
  | nil => rfl
  | cons c bs ih =>
    obtain ⟨k, b⟩ := c
    simp only [State.perform, ih]
    by_cases h : isFar k = true
    · simp [h, State.l2Write, State.l2Put]
    · simp [h, get_setAll_cons]

theorem perform_sound {s : State} (die : Nat) (bs : List (Nat × Byte)) (h : s.Sound) : (s.perform die bs).Sound := by
  refine ⟨?_, ?_⟩
  · unfold State.MemoryCanonical; rw [perform_mem]; exact wf_setAll _ h.memory
  · rw [perform_eq]; exact h.hub

/-- Performing nibbles changes what performing writes changes. -/
theorem performHalf_eq (l : List (Nat × Bool × Byte)) (s : State) (die : Nat) :
    s.performHalf die l = { s with
      mem := (s.performHalf die l).mem, l2 := (s.performHalf die l).l2, det := { s.det with due := (s.performHalf die l).det.due } } := by
  induction l generalizing s with
  | nil => rfl
  | cons c l ih =>
    obtain ⟨k, hi, v⟩ := c
    simp only [State.performHalf]
    rw [ih, perform_eq]

theorem performHalf_sound {s : State} (die : Nat) (l : List (Nat × Bool × Byte)) (h : s.Sound) : (s.performHalf die l).Sound := by
  induction l generalizing s with
  | nil => exact h
  | cons c l ih => exact ih (perform_sound die _ h)

/-- The write of an atomic changes what performing writes changes. -/
theorem performAtom_eq (s : State) (die : Nat) (p : PendAtom) :
    s.performAtom die p = { s with
      mem := (s.performAtom die p).mem, l2 := (s.performAtom die p).l2, det := { s.det with due := (s.performAtom die p).det.due } } := by
  unfold State.performAtom
  split
  · rw [perform_eq]
  · rfl

theorem performAtom_sound {s : State} (die : Nat) (p : PendAtom) (h : s.Sound) : (s.performAtom die p).Sound := by
  unfold State.performAtom
  split
  · exact perform_sound _ _ h
  · exact h

/-- Meeting the tags of lines in fall-back changes those tags, and nothing else. -/
theorem tagWords_eq (ws : List Nat) (s : State) (i : StrandId) :
    (s.tagWords i ws).2 = { s with det := { s.det with fallback := (s.tagWords i ws).2.det.fallback } } := by
  induction ws generalizing s with
  | nil => rfl
  | cons w ws ih =>
    simp only [State.tagWords]
    split
    · simp only; exact ih s
    · simp only; rw [ih]

theorem tagged_eq (s : State) (i : StrandId) (b : List (Nat × Byte)) (h : List (Nat × Bool × Byte)) :
    (s.tagged i b h).2 = { s with det := { s.det with fallback := (s.tagged i b h).2.det.fallback } } := by
  unfold State.tagged
  split
  · rfl
  · simp only; exact tagWords_eq _ _ _

/-- With no line in fall-back a store writes all its bytes. -/
theorem tagged_plain {s : State} (i : StrandId) (b : List (Nat × Byte)) (h : List (Nat × Bool × Byte)) (hf : s.det.fallback = []) :
    s.tagged i b h = ((b, h), s) := by
  unfold State.tagged; simp [hf]

/-- Outside a DET launch too. -/
theorem tagged_notDet {s : State} (i : StrandId) (b : List (Nat × Byte)) (h : List (Nat × Bool × Byte)) (hd : s.isDet i.lid = false) :
    s.tagged i b h = ((b, h), s) := by
  unfold State.tagged; simp [hd]

/-- Performing a store changes memory, the die's copies, what adds that wait know of them, and tags. -/
theorem performStore_eq (s : State) (i : StrandId) (b : List (Nat × Byte)) (h : List (Nat × Bool × Byte)) :
    s.performStore i b h = { s with
      mem := (s.performStore i b h).mem, l2 := (s.performStore i b h).l2
      det := { s.det with due := (s.performStore i b h).det.due, fallback := (s.performStore i b h).det.fallback } } := by
  unfold State.performStore
  simp only
  rw [performHalf_eq, perform_eq, tagged_eq]

theorem performStore_sound {s : State} (i : StrandId) (b : List (Nat × Byte)) (h : List (Nat × Bool × Byte)) (hs : s.Sound) :
    (s.performStore i b h).Sound := by
  unfold State.performStore
  simp only
  refine performHalf_sound _ _ (perform_sound _ _ ?_)
  rw [tagged_eq]
  exact sound_congr hs rfl rfl rfl

/-- So do the writes of an access. -/
theorem performWrites_eq (s : State) (i : StrandId) (a : Access) :
    s.performWrites i a = { s with
      mem := (s.performWrites i a).mem, l2 := (s.performWrites i a).l2
      det := { s.det with due := (s.performWrites i a).det.due, fallback := (s.performWrites i a).det.fallback } } := by
  unfold State.performWrites
  simp only
  split
  · rw [performAtom_eq, performStore_eq]
  · rw [performStore_eq]

theorem performWrites_sound {s : State} (i : StrandId) (a : Access) (h : s.Sound) : (s.performWrites i a).Sound := by
  unfold State.performWrites
  simp only
  split
  · exact performAtom_sound _ _ (performStore_sound _ _ _ h)
  · exact performStore_sound _ _ _ h

/-- The data of loads change registers and LDQ slots of the strand in focus, and nothing else. -/
theorem landAll_eq (l : List PendLoad) (s : State) :
    s.landAll l = { s with strand := { s.strand with
      regs := (s.landAll l).strand.regs, q := { s.strand.q with ldq := (s.landAll l).strand.q.ldq } } } := by
  induction l generalizing s with
  | nil => rfl
  | cons x l ih =>
    simp only [State.landAll]
    rw [ih]
    cases h : x.dst <;> rfl

theorem landAll_sound {s : State} (l : List PendLoad) (h : s.Sound) : (s.landAll l).Sound := by
  rw [landAll_eq]; exact sound_congr h rfl rfl rfl

/-- The flags of an AMOFADD reach the FCSR of its slice. -/
theorem flagSide_eq (s : State) (side : Side) (fl : Flags) :
    s.flagSide side fl = { s with strand := { s.strand with
      acc := { s.strand.acc with fcsr := (s.flagSide side fl).strand.acc.fcsr }
      cmp := { s.strand.cmp with fcsr := (s.flagSide side fl).strand.cmp.fcsr } } } := by
  unfold State.flagSide
  simp only
  split <;> rfl

/-- Performing an access changes memory, the die's copies, what adds that wait know of them, tags, and of the strand in focus registers, LDQ
slots and FCSR. -/
theorem performOne_eq (s : State) (a : Access) :
    s.performOne a = { s with
      mem := (s.performOne a).mem, l2 := (s.performOne a).l2, det := { s.det with due := (s.performOne a).det.due, fallback := (s.performOne a).det.fallback }
      strand := { s.strand with
        acc := { s.strand.acc with fcsr := (s.performOne a).strand.acc.fcsr }
        cmp := { s.strand.cmp with fcsr := (s.performOne a).strand.cmp.fcsr }
        regs := (s.performOne a).strand.regs, q := { s.strand.q with ldq := (s.performOne a).strand.q.ldq } } } := by
  unfold State.performOne
  split
  · rw [landAll_eq, performWrites_eq]
  · rw [flagSide_eq, performAtom_eq, landAll_eq]

theorem performOne_sound {s : State} (a : Access) (h : s.Sound) : (s.performOne a).Sound := by
  unfold State.performOne
  split
  · exact landAll_sound _ (performWrites_sound _ _ h)
  · rw [flagSide_eq]
    exact sound_congr (performAtom_sound _ _ (landAll_sound _ h)) rfl rfl rfl

/-- The same for a list of accesses. -/
theorem performAll_eq (l : List Access) (s : State) :
    l.foldl State.performOne s = { s with
      mem := (l.foldl State.performOne s).mem, l2 := (l.foldl State.performOne s).l2
      det := { s.det with due := (l.foldl State.performOne s).det.due, fallback := (l.foldl State.performOne s).det.fallback }
      strand := { s.strand with
        acc := { s.strand.acc with fcsr := (l.foldl State.performOne s).strand.acc.fcsr }
        cmp := { s.strand.cmp with fcsr := (l.foldl State.performOne s).strand.cmp.fcsr }
        regs := (l.foldl State.performOne s).strand.regs
        q := { s.strand.q with ldq := (l.foldl State.performOne s).strand.q.ldq } } } := by
  induction l generalizing s with
  | nil => rfl
  | cons x l ih =>
    simp only [List.foldl_cons]
    rw [ih, performOne_eq]

theorem performAll_sound {s : State} (l : List Access) (h : s.Sound) : (l.foldl State.performOne s).Sound := by
  induction l generalizing s with
  | nil => exact h
  | cons x l ih => exact ih (performOne_sound x h)

/-- Nothing is chosen: everything stays. -/
theorem splitAccesses_none (p : Access → Bool) (l : List Access) (h : (splitAccesses p l).1 = []) : (splitAccesses p l).2 = l := by
  induction l with
  | nil => rfl
  | cons a l ih =>
    simp only [splitAccesses] at h ⊢
    split at h
    · simp at h
    · rename_i hc
      rw [if_neg hc, ih h]

/-- Draining performs the accesses chosen with all that come before them, and takes them from the FIFOs; nothing else changes but
memory, the die's copies, what adds that wait know of them, tags, the registers and LDQ slots that loads fill, and the flags of atomics. -/
theorem drain_eq (s : State) (p : Access → Bool) :
    s.drain p = { s with
      mem := (s.drain p).mem, l2 := (s.drain p).l2, det := { s.det with due := (s.drain p).det.due, fallback := (s.drain p).det.fallback }
      strand := { s.strand with
        acc := { s.strand.acc with fcsr := (s.drain p).strand.acc.fcsr }
        cmp := { s.strand.cmp with fcsr := (s.drain p).strand.cmp.fcsr }
        regs := (s.drain p).strand.regs, q := { s.strand.q with ldq := (s.drain p).strand.q.ldq }
        stores := (splitAccesses p s.strand.stores).2 } } := by
  unfold State.drain
  simp only
  split
  · rename_i h
    rw [splitAccesses_none p _ (List.isEmpty_iff.mp h)]
  · rw [performAll_eq]; rfl

theorem drain_sound {s : State} (p : Access → Bool) (h : s.Sound) : (s.drain p).Sound := by
  unfold State.drain
  simp only
  split
  · exact h
  · exact sound_congr (performAll_sound _ h) rfl rfl rfl

/-- With nothing waiting a drain changes nothing. -/
theorem drain_nil {s : State} (p : Access → Bool) (h : s.strand.stores = []) : s.drain p = s := by
  unfold State.drain
  rw [h]; rfl

/-- The schedule gives its next entry, or no delay at its end. -/
theorem nextDelay_eq (s : State) : s.nextDelay = (s.delays.headD false, { s with delays := s.delays.tail }) := by
  unfold State.nextDelay
  cases h : s.delays with
  | nil => simp only [List.headD_nil, List.tail_nil, Prod.mk.injEq, true_and]; rw [← h]
  | cons d ds => rfl

/-- An access that writes waits in its FIFO, or it is performed behind what comes before it. -/
theorem launchWrite_cases (s : State) (a : Access) :
    (s.delays.headD false = true ∧ s.launchWrite a = ({ s with delays := s.delays.tail } : State).issue a) ∨
    (s.delays.headD false = false ∧
      s.launchWrite a = (({ s with delays := s.delays.tail } : State).ahead a).performWrites s.strand.id a) := by
  unfold State.launchWrite
  rw [nextDelay_eq]
  cases h : s.delays.headD false with
  | true => left; exact ⟨rfl, by simp⟩
  | false => right; exact ⟨rfl, by simp⟩

theorem issue_sound {s : State} (a : Access) (h : s.Sound) : (s.issue a).Sound := sound_congr h rfl rfl rfl

theorem launchWrite_sound {s : State} (a : Access) (h : s.Sound) : (s.launchWrite a).Sound := by
  rcases launchWrite_cases s a with ⟨-, e⟩ | ⟨-, e⟩ <;> rw [e]
  · exact issue_sound _ (sound_congr h rfl rfl rfl)
  · exact performWrites_sound _ _ (drain_sound _ (sound_congr h rfl rfl rfl))

theorem store_sound {s : State} (path : Path) (ms : List Nat) (bytes : List (Nat × Byte)) (half : List (Nat × Bool × Byte))
    (h : s.Sound) : (s.store path ms bytes half).Sound := launchWrite_sound _ h

/-- A read that is performed now: what comes before it is performed, for itself and for the state that goes on; or, when only stores of its
slice at STRAND scope hold it back and the schedule says so, for itself alone. -/
theorem readNow_cases (s : State) (a : Access) : let u : State := { s with delays := s.delays.tail }
    s.readNow a = (s.ahead a, s.ahead a) ∨
    (s.readsAhead a = true ∧ (s.readNow a = (u.ahead a, u.ahead a) ∨ s.readNow a = (u.ahead a, u))) := by
  simp only [State.readNow, nextDelay_eq]
  split
  · rename_i h
    cases hd : s.delays.headD false
    · exact .inr ⟨h, .inl rfl⟩
    · exact .inr ⟨h, .inr rfl⟩
  · exact .inl rfl
theorem readNow_sound {s : State} (a : Access) (h : s.Sound) : (s.readNow a).1.Sound ∧ (s.readNow a).2.Sound := by
  have hu : ({ s with delays := s.delays.tail } : State).Sound := sound_congr h rfl rfl rfl
  rcases readNow_cases s a with e | ⟨-, e | e⟩ <;> rw [e]
  · exact ⟨drain_sound _ h, drain_sound _ h⟩
  · exact ⟨drain_sound _ hu, drain_sound _ hu⟩
  · exact ⟨drain_sound _ hu, hu⟩

/-- An ordering instruction waits among the accesses, or has nothing to order. -/
theorem order_cases (s : State) (e : Edge) : s.order e = s ∨ s.order e = s.issue { s.access .scalar [] .rw with edge := some e } := by
  unfold State.order
  simp only
  split
  · exact .inr rfl
  · exact .inl rfl

theorem order_sound {s : State} (e : Edge) (h : s.Sound) : (s.order e).Sound := by
  rcases order_cases s e with h' | h' <;> rw [h']
  · exact h
  · exact issue_sound _ h

/-- With nothing waiting there is nothing to order. -/
theorem order_nil {s : State} (e : Edge) (h : s.strand.stores = []) : s.order e = s := by
  unfold State.order; simp [h]

/-! Event records (R280). -/

theorem writeRecord_eq (s : State) (r : List Byte) :
    s.writeRecord r = { s with mem := (s.writeRecord r).mem, hub := { s.hub with events := (s.writeRecord r).hub.events } } := rfl

theorem writeRecord_wf {s : State} (r : List Byte) (h : s.mem.wf = true) : (s.writeRecord r).mem.wf = true := by
  simp only [State.writeRecord]
  split
  · exact h
  · exact wf_setAll _ h

theorem writeRecord_sound {s : State} (r : List Byte) (h : s.Sound) : (s.writeRecord r).Sound :=
  ⟨writeRecord_wf r h.memory, h.hub⟩

/-- Writing held records changes memory and the event queue, and nothing else. -/
theorem drainRecords_eq (n : Nat) (s : State) :
    s.drainRecords n = { s with mem := (s.drainRecords n).mem, hub := { s.hub with events := (s.drainRecords n).hub.events } } := by
  induction n generalizing s with
  | zero => rfl
  | succ n ih =>
    simp only [State.drainRecords]
    split
    · rfl
    · split
      · rw [ih]; rfl
      · rfl

/-- Writing held records never makes more of them. -/
theorem drainRecords_held (n : Nat) (s : State) : (s.drainRecords n).hub.events.held.length ≤ s.hub.events.held.length := by
  induction n generalizing s with
  | zero => exact Nat.le_refl _
  | succ n ih =>
    simp only [State.drainRecords]
    split
    · exact Nat.le_refl _
    · rename_i r rs h
      split
      · refine Nat.le_trans (ih _) ?_
        simp [State.writeRecord, h]
      · exact Nat.le_refl _

theorem drainRecords_wf (n : Nat) (s : State) (h : s.mem.wf = true) : (s.drainRecords n).mem.wf = true := by
  induction n generalizing s with
  | zero => exact h
  | succ n ih =>
    simp only [State.drainRecords]
    split
    · exact h
    · split
      · exact ih _ (writeRecord_wf _ h)
      · exact h

theorem drainRecords_sound {s : State} (n : Nat) (h : s.Sound) : (s.drainRecords n).Sound := by
  refine ⟨drainRecords_wf n s h.memory, ?_⟩
  refine ⟨?_, Nat.le_trans (drainRecords_held n s) h.hub.2⟩
  rw [drainRecords_eq]; exact h.hub.1

/-- Posting a record changes memory and the event queue, and nothing else. -/
theorem post_eq (s : State) (r : List Byte) :
    s.post r = { s with mem := (s.post r).mem, hub := { s.hub with events := (s.post r).hub.events } } := by
  unfold State.post
  simp only
  split
  · rw [drainRecords_eq]
  · split
    · rw [drainRecords_eq]
    · rfl

theorem post_sound {s : State} (r : List Byte) (h : s.Sound) : (s.post r).Sound := by
  unfold State.post
  simp only
  split
  · rename_i hl
    refine drainRecords_sound _ ⟨h.memory, h.hub.1, ?_⟩
    simp only [List.length_append, List.length_cons, List.length_nil]
    omega
  · split
    · exact drainRecords_sound _ h
    · exact ⟨h.memory, h.hub⟩

/-- With nothing held and the queue off or full the record is held. -/
theorem post_held {s : State} (r : List Byte) (hl : s.hub.events.held.length < 4096)
    (hq : (s.hub.events.en && s.hub.events.room) = false) :
    s.post r = { s with hub := { s.hub with events :=
      { s.hub.events with held := s.hub.events.held ++ [(r ++ List.replicate 64 0).take 64] } } } := by
  unfold State.post
  simp only [hl, if_true]
  rw [show (4097 : Nat) = 4096 + 1 from rfl, State.drainRecords]
  split
  · rename_i h; simp at h
  · rw [if_neg]
    simpa [EventQueue.room] using hq

/-! Rejected and aborted launches (R27, R277, R278). -/

theorem keepRejected_sound {s : State} (lid : BitVec 32) (h : s.Sound) : (s.keepRejected lid).Sound :=
  ⟨h.memory, by simp only [State.keepRejected, List.length_take]; omega, h.hub.2⟩

theorem popHead_sound {s : State} (q : Nat) (h : s.Sound) : (s.popHead q).Sound := sound_congr h rfl rfl rfl

theorem reject_sound {s : State} (q c : Nat) (lid : BitVec 32) (h : s.Sound) : (s.reject q c lid).Sound :=
  post_sound _ (keepRejected_sound _ (popHead_sound _ h))

theorem predFail_sound (n : Nat) {s : State} (h : s.Sound) : (s.predFail n).Sound := by
  induction n generalizing s with
  | zero => exact h
  | succ n ih =>
    simp only [State.predFail]
    split
    · split
      · exact ih (reject_sound _ _ _ h)
      · exact h
    · exact h

theorem setStrands_eq (s : State) (l : List Strand) :
    s.setStrands l = { s with strand := (s.setStrands l).strand, others := (s.setStrands l).others } := by
  unfold State.setStrands; split <;> rfl

theorem setStrands_sound {s : State} (l : List Strand) (h : s.Sound) : (s.setStrands l).Sound := by
  rw [setStrands_eq]; exact sound_congr h rfl rfl rfl

theorem orphan_sound {s : State} (p : Requester → Bool) (h : s.Sound) : (s.orphan p).Sound := sound_congr h rfl rfl rfl

theorem dropResident_sound {s : State} (lid : BitVec 32) (h : s.Sound) : (s.dropResident lid).Sound := by
  unfold State.dropResident
  simp only
  generalize ho : s.orphan _ = u
  have hu : u.Sound := ho ▸ orphan_sound _ h
  generalize hv : u.setStrands _ = v
  have hs : v.Sound := hv ▸ setStrands_sound _ hu
  exact sound_congr hs rfl rfl rfl

/-- A walk over a list that keeps soundness at every item. -/
theorem foldl_sound {α : Type} (l : List α) (f : State → α → State) (hf : ∀ u x, u.Sound → (f u x).Sound) {s : State} (h : s.Sound) :
    (l.foldl f s).Sound := by
  induction l generalizing s with
  | nil => exact h
  | cons x l ih => exact ih (hf _ _ h)

theorem someStores_sound {s : State} (lid : BitVec 32) (h : s.Sound) : (s.someStores lid).Sound := by
  unfold State.someStores
  simp only
  refine sound_congr (s := List.foldl _ s _) (foldl_sound _ _ (fun u x hu => ?_) h) rfl rfl rfl
  split
  · exact performWrites_sound _ _ hu
  · exact hu

theorem someMovesOf_sound {s : State} (c : Command) (h : s.Sound) : (s.someMovesOf c).Sound := by
  unfold State.someMovesOf
  split
  · exact h
  · refine sound_congr (s := List.foldl _ s _) (foldl_sound _ _ (fun u x hu => ?_) h) rfl rfl rfl
    split
    · exact perform_sound _ _ hu
    · exact hu

theorem someMoves_sound {s : State} (lid : BitVec 32) (h : s.Sound) : (s.someMoves lid).Sound :=
  foldl_sound _ _ (fun _ c hu => someMovesOf_sound c hu) h

theorem clearBusy_sound {s : State} (lid : BitVec 32) (h : s.Sound) : (s.clearBusy lid).Sound := by
  unfold State.clearBusy
  split
  · split
    · exact sound_congr h rfl rfl rfl
    · exact h
  · exact h

theorem abort_sound {s : State} (lid : BitVec 32) (reason : Nat) (h : s.Sound) : (s.abort lid reason).Sound := by
  unfold State.abort
  split
  · refine predFail_sound _ (clearBusy_sound _ (post_sound _ (keepRejected_sound _ ?_)))
    have hd : (((s.someMoves lid).someStores lid).dropResident lid).Sound :=
      dropResident_sound _ (someStores_sound lid (someMoves_sound lid h))
    generalize ((s.someMoves lid).someStores lid).dropResident lid = u at hd ⊢
    exact sound_congr hd rfl rfl rfl
  · exact h

/-! Traps (R258 to R265). -/

/-- Running past VLSYNCs changes what waits in the access slice's FIFOs and its PC, and nothing that soundness looks at. -/
theorem passVlsyncs_sound (n : Nat) {s : State} (h : s.Sound) : (s.passVlsyncs n).Sound := by
  induction n generalizing s with
  | zero => exact h
  | succ n ih =>
    simp only [State.passVlsyncs]
    split
    · refine ih ?_
      unfold State.vlsync State.advance State.goto
      exact sound_congr (order_sound (s := s) ⟨some .vector, .rw, some .vector, .rw, false⟩ h) (by simp) (by simp) (by simp)
    · exact h

theorem pastVlsync_sound {s : State} (h : s.Sound) : s.pastVlsync.Sound :=
  sound_congr (passVlsyncs_sound 16384 (s := { s with side := .access }) (sound_congr h rfl rfl rfl)) rfl rfl rfl

/-- Where the access slice's next instruction is no VLSYNC it stays where it is. -/
theorem pastVlsync_none {s : State} (h : ({ s with side := .access } : State).nextInstr ≠ some .vlsync) : s.pastVlsync = s := by
  unfold State.pastVlsync
  rw [show (16384 : Nat) = 16383 + 1 from rfl, State.passVlsyncs, if_neg h]

/-- A FENCE that a trap makes execute again leaves the vector instruction queue; nothing that soundness looks at changes. -/
theorem stopAtFence_sound {s : State} (h : s.Sound) : s.stopAtFence.Sound := by
  unfold State.stopAtFence
  split
  · split
    · exact sound_congr h rfl rfl rfl
    · exact h
  · exact h

/-- With no FENCE at the young end of the vector instruction queue a trap finds the compute slice where it is. -/
theorem stopAtFence_none {s : State} (h : ∀ e, s.strand.q.viq.getLast? = some e → isFence e.ins = false) : s.stopAtFence = s := by
  unfold State.stopAtFence
  split
  · rename_i e he; simp [h e he]
  · rfl

/-- What the trap registers, the mode and the handler's address are after taking a trap, in terms of the strand whose waiting loads have
their data. A code with bit 7 shows TCAUSE.STATE = 1 and TADDR 0 (R272). -/
theorem enterTrap_trap (s : State) (c : Trap) (b : Bool) (hf : b = true ∨ ∀ e, s.strand.q.viq.getLast? = some e → isFence e.ins = false) :
    (s.enterTrap c b).strand.trap = { s.strand.trap with
      tcause := BitVec.setWidth 64 c.shown + (if c.code.getLsbD 7 then 0x10000 else 0)
      taddr := if c.code.getLsbD 7 then 0 else c.addr, tpca := s.strand.acc.pc, tpcc := s.strand.cmp.pc
      tstat := tstatWord b s.strand.trap.priv false (if b then s.strand.cmp.vstart else s.strand.acc.vstart)
        ({ s.finishLoads.strand with q := s.finishLoads.strand.q.finishLoads.returnMatrix } : Strand).qstat
      priv := true, held := true, accStop := none } ∧
    (s.enterTrap c b).strand.acc.pc = s.strand.trap.tvec &&& 0x00FFFFFFFFFFFFFE ∧
    (s.enterTrap c b).strand.cmp.pc = s.strand.cmp.pc := by
  have hs : (if b then s else s.stopAtFence) = s := by
    rcases hf with h | h
    · simp [h]
    · rw [stopAtFence_none h]; split <;> rfl
  have h := drain_eq s fun a => !a.loads.isEmpty
  have ha : s.finishLoads.strand.acc.pc = s.strand.acc.pc := by unfold State.finishLoads; rw [h]
  have hc : s.finishLoads.strand.cmp.pc = s.strand.cmp.pc := by unfold State.finishLoads; rw [h]
  have hav : s.finishLoads.strand.acc.vstart = s.strand.acc.vstart := by unfold State.finishLoads; rw [h]
  have hcv : s.finishLoads.strand.cmp.vstart = s.strand.cmp.vstart := by unfold State.finishLoads; rw [h]
  have ht : s.finishLoads.strand.trap = s.strand.trap := by unfold State.finishLoads; rw [h]
  simp [State.enterTrap, hs, Strand.enterTrap, State.orphan, ha, hc, hav, hcv, ht]

theorem finishLoads_sound {s : State} (h : s.Sound) : s.finishLoads.Sound := drain_sound _ h

theorem enterTrap_sound {s : State} (c : Trap) (b : Bool) (h : s.Sound) : (s.enterTrap c b).Sound := by
  unfold State.enterTrap
  cases b
  · exact sound_congr (s := s.stopAtFence.finishLoads) (finishLoads_sound (stopAtFence_sound h)) rfl rfl rfl
  · exact sound_congr (s := s.finishLoads) (finishLoads_sound h) rfl rfl rfl

theorem doubleFault_sound {s : State} (c : Trap) (h : s.Sound) : (s.doubleFault c).Sound := by
  unfold State.doubleFault
  exact abort_sound _ _ (post_sound _ (sound_congr h rfl rfl rfl))

/-- A trap enters the handler, is a double fault, stops the access slice, or waits for that slice's answer. -/
theorem raiseAt_cases (s : State) (c : Trap) :
    (∃ d b, s.raiseAt c = s.enterTrap d b ∨ s.raiseAt c = s.pastVlsync.enterTrap d b) ∨
    (s.side = .access ∧ s.strand.trap.priv = true ∧ s.strand.trap.ack = false ∧ s.raiseAt c = s.doubleFault c) ∨
    (s.side = .access ∧ s.strand.trap.priv = false ∧ ∃ u : State,
      u = (s.drain fun a => !a.loads.isEmpty && a.side == .access).orphan (fun w => w == .slice s.strand.key .access) ∧
      ((∃ d, s.strand.cmp.stall = some (.fault d) ∧ s.raiseAt c = u.enterTrap d true) ∨
        s.raiseAt c = { u with strand := { u.strand with
          acc := { u.strand.acc with stall := none, waitReq := none, reply := none, sent := 0 }, q := u.strand.q.finishLoads
          trap := { u.strand.trap with accStop := some c } } })) ∨
    (s.side ≠ .access ∧ s.raiseAt c = s.wait (.fault c)) := by
  unfold State.raiseAt
  split
  · split
    · split
      · exact .inl ⟨c, false, .inl rfl⟩
      · rename_i h1 h2 h3; exact .inr (.inl ⟨h1, h2, by simpa using h3, rfl⟩)
    · rename_i h1 h2
      refine .inr (.inr (.inl ⟨h1, by simpa using h2, _, rfl, ?_⟩))
      have hd := drain_eq s fun a => !a.loads.isEmpty && a.side == .access
      have hs : ((s.drain fun a => !a.loads.isEmpty && a.side == .access).orphan
          (fun w => w == .slice s.strand.key .access)).strand.cmp.stall = s.strand.cmp.stall := by
        rw [hd]; rfl
      simp only
      split
      · rename_i d e; exact .inl ⟨d, hs ▸ e, rfl⟩
      · exact .inr rfl
  · rename_i h1
    split
    · rename_i d _; exact .inl ⟨d, false, .inl rfl⟩
    · split
      · exact .inr (.inr (.inr ⟨h1, rfl⟩))
      · exact .inl ⟨c, true, .inr rfl⟩

theorem raiseAt_sound {s : State} (c : Trap) (h : s.Sound) : (s.raiseAt c).Sound := by
  rcases raiseAt_cases s c with ⟨d, b, e | e⟩ | ⟨-, -, -, e⟩ | ⟨-, -, u, hu, ⟨d, -, e⟩ | e⟩ | ⟨-, e⟩ <;> rw [e]
  · exact enterTrap_sound d b h
  · exact enterTrap_sound d b (pastVlsync_sound h)
  · exact doubleFault_sound c h
  · exact enterTrap_sound d true (hu ▸ orphan_sound _ (drain_sound _ h))
  · exact sound_congr (s := u) (hu ▸ orphan_sound _ (drain_sound _ h)) rfl rfl rfl
  · exact sound_congr h (setCur_mem _ _) (by simp [State.wait]) (by simp [State.wait])

theorem raise_sound {s : State} (c : Trap) (h : s.Sound) : (s.raise c).Sound := by
  unfold State.raise
  refine raiseAt_sound c ?_
  split
  · exact sound_congr h (by simp) (by simp) (by simp)
  · exact h

theorem trap_sound {s : State} (code : Nat) (a : Word) (h : s.Sound) : (s.trap code a).Sound := raise_sound _ h
theorem illegal_sound {s : State} (i : Instr) (h : s.Sound) : (s.illegal i).Sound := trap_sound _ _ h
theorem vtype_sound {s : State} (h : s.Sound) : s.vtype.Sound := trap_sound _ _ h
theorem privTrap_sound {s : State} (h : s.Sound) : s.privTrap.Sound := trap_sound _ _ h
theorem misalign_sound {s : State} (a : Word) (h : s.Sound) : (s.misalign a).Sound := trap_sound _ _ h
theorem trapReturn_sound {s : State} (h : s.Sound) : s.trapReturn.Sound := sound_congr h rfl rfl rfl

/-! Updates of the strand alone. -/

theorem setCur_sound {s : State} (c : Slice) (h : s.Sound) : (s.setCur c).Sound := sound_congr h (by simp) (by simp) (by simp)
theorem setX_sound {s : State} (r : Reg) (v : Word) (h : s.Sound) : (s.setX r v).Sound := sound_congr h (by simp) (by simp) (by simp)
theorem goto_sound {s : State} (pc : Word) (h : s.Sound) : (s.goto pc).Sound := setCur_sound _ h
theorem advance_sound {s : State} (n : Nat) (h : s.Sound) : (s.advance n).Sound := goto_sound _ h
theorem wait_sound {s : State} (w : Stall) (h : s.Sound) : (s.wait w).Sound := setCur_sound _ h
theorem result_sound {s : State} (r : Reg) (v : Word) (n : Nat) (h : s.Sound) : (s.result r v n).Sound :=
  advance_sound _ (setX_sound _ _ h)

/-! The CRC of a flit depends on everything but the CRC field (R234, R236). -/

theorem flit_crcOf_crc (f : Flit) (c : BitVec 32) : Flit.crcOf { f with crc := c } = Flit.crcOf f := rfl
theorem turnFlit_crcOf_crc (f : TurnFlit) (c : BitVec 32) : TurnFlit.crcOf { f with crc := c } = TurnFlit.crcOf f := rfl

theorem flit_crc_sealed (f : Flit) : (Flit.sealed f).crc = Flit.crcOf (Flit.sealed f) := by
  have h := flit_crcOf_crc f (Flit.crcOf f)
  unfold Flit.sealed
  rw [h]

theorem turnFlit_crc_sealed (f : TurnFlit) : (TurnFlit.sealed f).crc = TurnFlit.crcOf (TurnFlit.sealed f) := by
  have h := turnFlit_crcOf_crc f (TurnFlit.crcOf f)
  unfold TurnFlit.sealed
  rw [h]

theorem turnFlit_crc (s : State) (p : Nat) : (s.turnFlit p).crc = TurnFlit.crcOf (s.turnFlit p) := turnFlit_crc_sealed _

end Sys2Proof.Laws
end

