-- ==== Sys2Proof/Tests/Slice0.lean ====
section
/-! SUPPORT. The model's own tests: ill-formed terms, words written out from the layouts of file 12, a state that meets the
hypotheses of each statement (test_hyp_…), and single steps whose results the rules give. -/

open Sys2Proof Sys2Proof.Machine Sys2Proof.Laws

/-- Major 0x00: words written out from the layouts of file 12, every field with a value of its own. -/
theorem test_decode_arithmetic :
    decodeTableWord 32 0x0074D301 = some (.add ⟨19, 6, 29⟩) ∧
    decodeTableWord 32 0x00F4D301 = some (.sub ⟨19, 6, 29⟩) ∧
    decodeTableWord 32 0x0174D301 = some (.mul ⟨19, 6, 29⟩) ∧
    decodeTableWord 32 0x01F4D301 = some (.mulh ⟨19, 6, 29⟩) ∧
    decodeTableWord 32 0x0274D301 = some (.mulhn ⟨19, 6, 29⟩) ∧
    decodeTableWord 32 0x02F4D301 = some (.div ⟨19, 6, 29⟩) ∧
    decodeTableWord 32 0x0374D301 = some (.divn ⟨19, 6, 29⟩) ∧
    decodeTableWord 32 0x03F4D301 = some (.rem ⟨19, 6, 29⟩) ∧
    decodeTableWord 32 0x0474D301 = some (.remn ⟨19, 6, 29⟩) ∧
    decodeTableWord 32 0x04F4D301 = some (.and ⟨19, 6, 29⟩) ∧
    decodeTableWord 32 0x0574D301 = some (.or ⟨19, 6, 29⟩) ∧
    decodeTableWord 32 0x05F4D301 = some (.xor ⟨19, 6, 29⟩) ∧
    decodeTableWord 32 0x0674D301 = some (.sll ⟨19, 6, 29⟩) ∧
    decodeTableWord 32 0x06F4D301 = some (.srl ⟨19, 6, 29⟩) ∧
    decodeTableWord 32 0x0774D301 = some (.sra ⟨19, 6, 29⟩) := by decide

/-- Major 0x01: words written out from the layouts of file 12, every field with a value of its own. -/
theorem test_decode_comparisons_counts_fields :
    decodeTableWord 32 0x0074D305 = some (.slt ⟨19, 6, 29⟩) ∧
    decodeTableWord 32 0x00F4D305 = some (.sltn ⟨19, 6, 29⟩) ∧
    decodeTableWord 32 0x0174D305 = some (.min ⟨19, 6, 29⟩) ∧
    decodeTableWord 32 0x01F4D305 = some (.max ⟨19, 6, 29⟩) ∧
    decodeTableWord 32 0x0274D305 = some (.minn ⟨19, 6, 29⟩) ∧
    decodeTableWord 32 0x02F4D305 = some (.maxn ⟨19, 6, 29⟩) ∧
    decodeTableWord 32 0x0300D305 = some (.clz ⟨19, 6⟩) ∧
    decodeTableWord 32 0x0380D305 = some (.ctz ⟨19, 6⟩) ∧
    decodeTableWord 32 0x0400D305 = some (.popc ⟨19, 6⟩) ∧
    decodeTableWord 32 0x04F4D305 = some (.bext ⟨19, 6, 29⟩) ∧
    decodeTableWord 32 0x0574D305 = some (.bins ⟨19, 6, 29⟩) := by decide

/-- Majors 0x02 to 0x07: words written out from the layouts of file 12, every field with a value of its own. -/
theorem test_decode_immediates :
    decodeTableWord 32 0xC350D309 = some (.addi ⟨19, 6, 0xC35⟩) ∧
    decodeTableWord 32 0xC354D309 = some (.andi ⟨19, 6, 0xC35⟩) ∧
    decodeTableWord 32 0xC358D309 = some (.ori ⟨19, 6, 0xC35⟩) ∧
    decodeTableWord 32 0xC35CD309 = some (.xori ⟨19, 6, 0xC35⟩) ∧
    decodeTableWord 32 0xC350D30D = some (.slti ⟨19, 6, 0xC35⟩) ∧
    decodeTableWord 32 0xC354D30D = some (.sltin ⟨19, 6, 0xC35⟩) ∧
    decodeTableWord 32 0xC358D30D = some (.jalr ⟨19, 6, 0xC35⟩) ∧
    decodeTableWord 32 0x02D0D311 = some (.slli ⟨19, 6, 0x2D⟩) ∧
    decodeTableWord 32 0x02D4D311 = some (.srli ⟨19, 6, 0x2D⟩) ∧
    decodeTableWord 32 0x02D8D311 = some (.srai ⟨19, 6, 0x2D⟩) ∧
    decodeTableWord 32 0xD834B315 = some (.lui ⟨19, 0x6C1A5⟩) ∧
    decodeTableWord 32 0xD834B319 = some (.auipc ⟨19, 0x6C1A5⟩) ∧
    decodeTableWord 32 0xD834B31D = some (.jal ⟨19, 0x6C1A5⟩) := by decide

/-- Majors 0x08 and 0x09, the offset split over [31:26] and [12:8]: words written out from the layouts of file 12, every field with a value of its own. -/
theorem test_decode_branches :
    decodeTableWord 32 0xB474C321 = some (.beq ⟨6, 29, 0x5A3⟩) ∧
    decodeTableWord 32 0xB4F4C321 = some (.bne ⟨6, 29, 0x5A3⟩) ∧
    decodeTableWord 32 0xB574C321 = some (.blt ⟨6, 29, 0x5A3⟩) ∧
    decodeTableWord 32 0xB5F4C321 = some (.bge ⟨6, 29, 0x5A3⟩) ∧
    decodeTableWord 32 0xB674C321 = some (.bltn ⟨6, 29, 0x5A3⟩) ∧
    decodeTableWord 32 0xB6F4C321 = some (.bgen ⟨6, 29, 0x5A3⟩) ∧
    decodeTableWord 32 0xB400C325 = some (.bany ⟨6, 0x5A3⟩) ∧
    decodeTableWord 32 0xB480C325 = some (.ball ⟨6, 0x5A3⟩) ∧
    decodeTableWord 32 0xB500C325 = some (.bnone ⟨6, 0x5A3⟩) ∧
    decodeTableWord 32 0xB5800325 = some (.bqz 0x5A3) ∧
    decodeTableWord 32 0xB6000325 = some (.bqnz 0x5A3) := by decide

/-- Majors 0x0A to 0x0C, the offset of a store split: words written out from the layouts of file 12, every field with a value of its own. -/
theorem test_decode_loads_and_stores :
    decodeTableWord 32 0x9B68D329 = some (.ld ⟨.wn, .shared, 19, 6, 0x13A⟩) ∧
    decodeTableWord 32 0x9574DA2D = some (.st ⟨.w, .spad, 6, 29, 0x13A⟩) ∧
    decodeTableWord 32 0x3A80D331 = some (.ldAcq ⟨.hn, .device, .shared, 19, 6⟩) ∧
    decodeTableWord 32 0xACF4C031 = some (.stRel ⟨.h, .squad, .tcm, 6, 29⟩) := by decide

/-- Majors 0x0D to 0x0F: words written out from the layouts of file 12, every field with a value of its own. -/
theorem test_decode_atomics :
    decodeTableWord 32 0x0FF4D335 = some (.amoadd ⟨(.acq .squad), .tcm, .d, 19, 6, 29⟩) ∧
    decodeTableWord 32 0x5074D335 = some (.amoand ⟨(.acq .device), .global, .w, 19, 6, 29⟩) ∧
    decodeTableWord 32 0x95F4D335 = some (.amoor ⟨(.acq .system), .spad, .d, 19, 6, 29⟩) ∧
    decodeTableWord 32 0xDA74D335 = some (.amoxor ⟨(.rel .strand), .shared, .w, 19, 6, 29⟩) ∧
    decodeTableWord 32 0x1FF4D339 = some (.amomin ⟨(.rel .gang), .tcm, .d, 19, 6, 29⟩) ∧
    decodeTableWord 32 0x6074D339 = some (.amomax ⟨(.rel .squad), .global, .w, 19, 6, 29⟩) ∧
    decodeTableWord 32 0xA5F4D339 = some (.amoswp ⟨(.rel .device), .spad, .d, 19, 6, 29⟩) ∧
    decodeTableWord 32 0xEA74D339 = some (.cas ⟨(.rel .system), .shared, .w, 19, 6, 29⟩) ∧
    decodeTableWord 32 0x2FF4D33D = some (.amofadd ⟨(.ar .strand), .tcm, .d, 19, 6, 29⟩) ∧
    decodeTableWord 32 0x42F4C03D = some (.amofaddDet ⟨.shared, .d, 6, 29⟩) := by decide

/-- Majors 0x10 and 0x11: words written out from the layouts of file 12, every field with a value of its own. -/
theorem test_decode_scalar_floating_point :
    decodeTableWord 32 0x00F4D341 = some (.fadd ⟨.d, 19, 6, 29⟩) ∧
    decodeTableWord 32 0x01F4D341 = some (.fsub ⟨.d, 19, 6, 29⟩) ∧
    decodeTableWord 32 0x02F4D341 = some (.fmul ⟨.d, 19, 6, 29⟩) ∧
    decodeTableWord 32 0x03F4D341 = some (.fdiv ⟨.d, 19, 6, 29⟩) ∧
    decodeTableWord 32 0x0480D341 = some (.fsqrt ⟨.d, 19, 6⟩) ∧
    decodeTableWord 32 0x5D74D341 = some (.ffma ⟨.s, 19, 6, 29, 11⟩) ∧
    decodeTableWord 32 0x06F4D341 = some (.fmin ⟨.d, 19, 6, 29⟩) ∧
    decodeTableWord 32 0x07F4D341 = some (.fmax ⟨.d, 19, 6, 29⟩) ∧
    decodeTableWord 32 0x00F4D345 = some (.fcmpEq ⟨.d, 19, 6, 29⟩) ∧
    decodeTableWord 32 0x01F4D345 = some (.fcmpLt ⟨.d, 19, 6, 29⟩) ∧
    decodeTableWord 32 0x02F4D345 = some (.fcmpLe ⟨.d, 19, 6, 29⟩) ∧
    decodeTableWord 32 0x0380D345 = some (.fclass ⟨.d, 19, 6⟩) ∧
    decodeTableWord 32 0x042CD345 = some (.fcvt (.ofInt .d .w) ⟨19, 6⟩) := by decide

/-- Major 0x12: words written out from the layouts of file 12, every field with a value of its own. -/
theorem test_decode_system_registers_and_trap :
    decodeTableWord 32 0x10E01349 = some (.mfs 19 0x10E) ∧
    decodeTableWord 32 0x10E4C049 = some (.mts 0x10E 6) ∧
    decodeTableWord 32 0xC3580049 = some (.trap 0xC35) := by decide

/-- Major 0x13: words written out from the layouts of file 12, every field with a value of its own. -/
theorem test_decode_system :
    decodeTableWord 32 0x0000004D = some (.nop) ∧
    decodeTableWord 32 0x0080004D = some (.halt) ∧
    decodeTableWord 32 0x0100004D = some (.tack) ∧
    decodeTableWord 32 0x0180004D = some (.tret) ∧
    decodeTableWord 32 0x0200004D = some (.convoy) ∧
    decodeTableWord 32 0x0280004D = some (.svfence) ∧
    decodeTableWord 32 0x0300004D = some (.vlsync) ∧
    decodeTableWord 32 0x038CC04D = some (.fence .device .r .w) ∧
    decodeTableWord 32 0x0410004D = some (.ltrig .system) ∧
    decodeTableWord 32 0x04F4D34D = some (.vfork ⟨19, 6, 29⟩) ∧
    decodeTableWord 32 0x0500C04D = some (.join 6) ∧
    decodeTableWord 32 0x05F4D34D = some (.seal ⟨19, 6, 29⟩) ∧
    decodeTableWord 32 0x0600C04D = some (.vsave 6) ∧
    decodeTableWord 32 0x0680C04D = some (.vrestore 6) := by decide

/-- Major 0x14: words written out from the layouts of file 12, every field with a value of its own. -/
theorem test_decode_queues :
    decodeTableWord 32 0x00740051 = some (.apush 29) ∧
    decodeTableWord 32 0x00801351 = some (.apop 19) ∧
    decodeTableWord 32 0x01740051 = some (.cpush 29) ∧
    decodeTableWord 32 0x01801351 = some (.cpop 19) ∧
    decodeTableWord 32 0x02740051 = some (.vpush 29) ∧
    decodeTableWord 32 0x02801351 = some (.vpop 19) ∧
    decodeTableWord 32 0x03740051 = some (.slipReg 29) ∧
    decodeTableWord 32 0x33800051 = some (.slipImm 6) ∧
    decodeTableWord 32 0x04001351 = some (.vsetlQ 19) ∧
    decodeTableWord 32 0x1CF41351 = some (.vsetl .e32 19 29) ∧
    decodeTableWord 32 0x05000051 = some (.mtsetGlobal) ∧
    decodeTableWord 32 0x05800051 = some (.mtsetSpad) ∧
    decodeTableWord 32 0x06000051 = some (.mtsetShared) ∧
    decodeTableWord 32 0x06800051 = some (.mtsetTcm) := by decide

/-- Major 0x15: words written out from the layouts of file 12, every field with a value of its own. -/
theorem test_decode_barriers :
    decodeTableWord 32 0x9AF41355 = some (.barinit ⟨19, 0x135, 29⟩) ∧
    decodeTableWord 32 0x9A802055 = some (.barArrive 0x135) ∧
    decodeTableWord 32 0x9A804055 = some (.barSync 0x135) ∧
    decodeTableWord 32 0x1AF49355 = some (.barinitSq ⟨19, 0x35, 29⟩) ∧
    decodeTableWord 32 0x1A80A055 = some (.barArriveSq 0x35) ∧
    decodeTableWord 32 0x1A80C055 = some (.barSyncSq 0x35) := by decide

/-- Majors 0x20 to 0x22: words written out from the layouts of file 12, every field with a value of its own. -/
theorem test_decode_vector_memory :
    decodeTableWord 32 0x0000C081 = some (.vle 6) ∧
    decodeTableWord 32 0x4074C081 = some (.vls 6 29) ∧
    decodeTableWord 32 0x8000C081 = some (.vlx 6) ∧
    decodeTableWord 32 0xC000C081 = some (.vlff 6) ∧
    decodeTableWord 32 0x0074C085 = some (.vlb 6 29) ∧
    decodeTableWord 32 0x4000C085 = some (.vse 6) ∧
    decodeTableWord 32 0x8074C085 = some (.vss 6 29) ∧
    decodeTableWord 32 0xC000C085 = some (.vsx 6) ∧
    decodeTableWord 32 0x0074C089 = some (.vsb 6 29) ∧
    decodeTableWord 32 0x6000C089 = some (.vamo .swp 6) := by decide

/-- Majors 0x24 to 0x27: words written out from the layouts of file 12, every field with a value of its own. -/
theorem test_decode_vector_integer :
    decodeTableWord 32 0x3B74D391 = some (.vadd ⟨7, .m1, .vi 29, 6, 19⟩) ∧
    decodeTableWord 32 0x5474D391 = some (.vsub ⟨2, .m2, .vv 29, 6, 19⟩) ∧
    decodeTableWord 32 0xAEF4D391 = some (.vmul ⟨5, .m3, .vs 29, 6, 19⟩) ∧
    decodeTableWord 32 0xC174D391 = some (.vmulh ⟨0, .none, .vi 29, 6, 19⟩) ∧
    decodeTableWord 32 0x1A74D395 = some (.vdiv ⟨3, .m1, .vv 29, 6, 19⟩) ∧
    decodeTableWord 32 0x74F4D395 = some (.vrem ⟨6, .m2, .vs 29, 6, 19⟩) ∧
    decodeTableWord 32 0x8F74D395 = some (.vmin ⟨1, .m3, .vi 29, 6, 19⟩) ∧
    decodeTableWord 32 0xE074D395 = some (.vmax ⟨4, .none, .vv 29, 6, 19⟩) ∧
    decodeTableWord 32 0x3AF4D399 = some (.vand ⟨7, .m1, .vs 29, 6, 19⟩) ∧
    decodeTableWord 32 0x5574D399 = some (.vor ⟨2, .m2, .vi 29, 6, 19⟩) ∧
    decodeTableWord 32 0xAE74D399 = some (.vxor ⟨5, .m3, .vv 29, 6, 19⟩) ∧
    decodeTableWord 32 0xC0F4D399 = some (.vsll ⟨0, .none, .vs 29, 6, 19⟩) ∧
    decodeTableWord 32 0x1B74D39D = some (.vsrl ⟨3, .m1, .vi 29, 6, 19⟩) ∧
    decodeTableWord 32 0x7474D39D = some (.vsra ⟨6, .m2, .vv 29, 6, 19⟩) := by decide

/-- Majors 0x28 to 0x2B: words written out from the layouts of file 12, every field with a value of its own. -/
theorem test_decode_vector_floating_point :
    decodeTableWord 32 0x0EF4D3A1 = some (.vfadd ⟨1, .m3, .vs 29, 6, 19⟩) ∧
    decodeTableWord 32 0x6174D3A1 = some (.vfsub ⟨4, .none, .vi 29, 6, 19⟩) ∧
    decodeTableWord 32 0xBA74D3A1 = some (.vfmul ⟨7, .m1, .vv 29, 6, 19⟩) ∧
    decodeTableWord 32 0xD4F4D3A1 = some (.vfdiv ⟨2, .m2, .vs 29, 6, 19⟩) ∧
    decodeTableWord 32 0x2F74D3A5 = some (.vfma ⟨5, .m3, .vi 29, 6, 19⟩) ∧
    decodeTableWord 32 0x4074D3A5 = some (.vfms ⟨0, .none, .vv 29, 6, 19⟩) ∧
    decodeTableWord 32 0x9AF4D3A5 = some (.vfnma ⟨3, .m1, .vs 29, 6, 19⟩) ∧
    decodeTableWord 32 0xF400D3A5 = some (.vfsqrt ⟨6, .m2, 6, 19⟩) ∧
    decodeTableWord 32 0x0E74D3A9 = some (.vfmin ⟨1, .m3, .vv 29, 6, 19⟩) ∧
    decodeTableWord 32 0x60F4D3A9 = some (.vfmax ⟨4, .none, .vs 29, 6, 19⟩) ∧
    decodeTableWord 32 0xBA00D3A9 = some (.vfcvt ⟨7, .m1, 6, 19⟩) ∧
    decodeTableWord 32 0xD474D3A9 = some (.vwma ⟨2, .m2, .vv 29, 6, 19⟩) ∧
    decodeTableWord 32 0x35F4D5AD = some (.vwait ⟨some .device, .m2, 5, 6, 29, 11⟩) := by decide

/-- Major 0x2C: words written out from the layouts of file 12, every field with a value of its own. -/
theorem test_decode_function_arrays :
    decodeTableWord 32 0x000033B1 = some (.pmov 3 6) ∧
    decodeTableWord 32 0x200003B1 = some (.pzero 3) ∧
    decodeTableWord 32 0x400173B1 = some (.padd ⟨3, 6, 5⟩) ∧
    decodeTableWord 32 0x600173B1 = some (.psub ⟨3, 6, 5⟩) ∧
    decodeTableWord 32 0x900173B1 = some (.pmul .coll ⟨3, 6, 5⟩) ∧
    decodeTableWord 32 0xA80033B1 = some (.pdiff .d2 3 6) ∧
    decodeTableWord 32 0xC01A33B1 = some (.pproj 3 6 13) ∧
    decodeTableWord 32 0xE00173B1 = some (.ptrace 3 6 5) := by decide

/-- Major 0x2D: words written out from the layouts of file 12, every field with a value of its own. -/
theorem test_decode_function_windows :
    decodeTableWord 32 0x12FA33B5 = some (.pscl ⟨.m2, 3, 6, 29, 11⟩) ∧
    decodeTableWord 32 0x2AFB73B5 = some (.paxpy ⟨.m1, 3, 6, 5, 29, 11⟩) ∧
    decodeTableWord 32 0x5AFA30B5 = some (.pint ⟨.m3, 29, 6, 11⟩) ∧
    decodeTableWord 32 0x7AFA30B5 = some (.peval ⟨.m3, 29, 6, 11⟩) ∧
    decodeTableWord 32 0x8AFB73B5 = some (.pjump ⟨.m1, 3, 6, 5, 29, 11⟩) ∧
    decodeTableWord 32 0xAAFB73B5 = some (.pavg ⟨.m1, 3, 6, 5, 29, 11⟩) ∧
    decodeTableWord 32 0xC2C003B5 = some (.ppop 3 11) ∧
    decodeTableWord 32 0xCAC030B5 = some (.ppush 6 11) ∧
    decodeTableWord 32 0xE2C003B5 = some (.pset 3 11) ∧
    decodeTableWord 32 0xEAC003B5 = some (.psetDg 3 11) ∧
    decodeTableWord 32 0xF4C030B5 = some (.pget 19 6) ∧
    decodeTableWord 32 0xFCC030B5 = some (.pgetDg 19 6) := by decide

/-- Majors 0x30 to 0x32: words written out from the layouts of file 12, every field with a value of its own. -/
theorem test_decode_vector_moves :
    decodeTableWord 32 0x2A74D3C1 = some (.vcmp ⟨5, .m1, .vv 29, 6, .lt, 3⟩) ∧
    decodeTableWord 32 0x6CF4DBC1 = some (.vfcmp ⟨5, .m2, .vs 29, 6, .un, 3⟩) ∧
    decodeTableWord 32 0x9474D3C1 = some (.vmerge ⟨2, .m2, .vv 29, 6, 19⟩) ∧
    decodeTableWord 32 0xED7413C1 = some (.vmv ⟨5, .m2, .vi 29, 19⟩) ∧
    decodeTableWord 32 0x0174D3C5 = some (.vslideup ⟨0, .none, .vi 29, 6, 19⟩) ∧
    decodeTableWord 32 0x5A74D3C5 = some (.vslidedn ⟨3, .m1, .vv 29, 6, 19⟩) ∧
    decodeTableWord 32 0xB4F4D3C5 = some (.vperm ⟨6, .m2, .vs 29, 6, 19⟩) ∧
    decodeTableWord 32 0xCE00D3C5 = some (.vcompress ⟨1, .m3, 6, 19⟩) ∧
    decodeTableWord 32 0x2000D3C9 = some (.vexpand ⟨4, .none, 6, 19⟩) ∧
    decodeTableWord 32 0x6EF4D3C9 = some (.viota ⟨5, .m3, .vs 29, 6, 19⟩) ∧
    decodeTableWord 32 0xA800D3C9 = some (.vpruneN4M8 ⟨5, 19, 6⟩) := by decide

/-- Majors 0x33 and 0x34: words written out from the layouts of file 12, every field with a value of its own. -/
theorem test_decode_reductions :
    decodeTableWord 32 0x2E74D3CD = some (.vredsum ⟨5, .m3, .vv 29, 6, 19⟩) ∧
    decodeTableWord 32 0x40F4D3CD = some (.vredmin ⟨0, .none, .vs 29, 6, 19⟩) ∧
    decodeTableWord 32 0x9B74D3CD = some (.vredmax ⟨3, .m1, .vi 29, 6, 19⟩) ∧
    decodeTableWord 32 0xF474D3CD = some (.vscan ⟨6, .m2, .vv 29, 6, 19⟩) ∧
    decodeTableWord 32 0x0EF4D3D1 = some (.vfredsum ⟨1, .m3, .vs 29, 6, 19⟩) ∧
    decodeTableWord 32 0x6174D3D1 = some (.vfredmin ⟨4, .none, .vi 29, 6, 19⟩) ∧
    decodeTableWord 32 0xBA74D3D1 = some (.vfredmax ⟨7, .m1, .vv 29, 6, 19⟩) ∧
    decodeTableWord 32 0xD4F4D3D1 = some (.vfscan ⟨2, .m2, .vs 29, 6, 19⟩) := by decide

/-- Majors 0x35 to 0x37: words written out from the layouts of file 12, every field with a value of its own. -/
theorem test_decode_masks :
    decodeTableWord 32 0x0014C3D5 = some (.vmand ⟨3, 6, 5⟩) ∧
    decodeTableWord 32 0x4014C3D5 = some (.vmor ⟨3, 6, 5⟩) ∧
    decodeTableWord 32 0x8014C3D5 = some (.vmxor ⟨3, 6, 5⟩) ∧
    decodeTableWord 32 0xC014C3D5 = some (.vmandn ⟨3, 6, 5⟩) ∧
    decodeTableWord 32 0x0000C3D9 = some (.vmnot 3 6) ∧
    decodeTableWord 32 0x4400D3D9 = some (.vpopc ⟨.m2, 19, 6⟩) ∧
    decodeTableWord 32 0x8400D3D9 = some (.vfirst ⟨.m2, 19, 6⟩) ∧
    decodeTableWord 32 0xC400C3D9 = some (.vbrkb ⟨.m2, 3, 6⟩) ∧
    decodeTableWord 32 0x0400C3DD = some (.vbrka ⟨.m2, 3, 6⟩) := by decide

/-- Majors 0x38 and 0x39: words written out from the layouts of file 12, every field with a value of its own. -/
theorem test_decode_sparse :
    decodeTableWord 32 0x2874D3E1 = some (.vbmand ⟨5, 19, 6, 29⟩) ∧
    decodeTableWord 32 0x68F4D3E1 = some (.vbprefix ⟨5, 19, 6, 29⟩) ∧
    decodeTableWord 32 0xA874D3E1 = some (.visect ⟨5, 19, 6, 29⟩) ∧
    decodeTableWord 32 0xE874CBE1 = some (.vhacc ⟨5, 6, 29, 11⟩) ∧
    decodeTableWord 32 0x2800D3E5 = some (.vpruneN1M4 ⟨5, 19, 6⟩) ∧
    decodeTableWord 32 0x6800D3E5 = some (.vpruneN2M4 ⟨5, 19, 6⟩) ∧
    decodeTableWord 32 0xA800D3E5 = some (.vpruneN1M8 ⟨5, 19, 6⟩) ∧
    decodeTableWord 32 0xE800D3E5 = some (.vpruneN2M8 ⟨5, 19, 6⟩) := by decide

/-- The 16-bit forms (R291): words written out from the layouts of file 12, every field with a value of its own. -/
theorem test_decode_halfwords :
    decodeTableWord 16 0xB530 = some (.hAddi 19 0x5A) ∧
    decodeTableWord 16 0xB532 = some (.hSeti 19 0x5A) ∧
    decodeTableWord 16 0x3B34 = some (.hCopy 19 29) ∧
    decodeTableWord 16 0x3B36 = some (.hAdd 19 29) ∧
    decodeTableWord 16 0xB468 = some (.hBz 6 0x5A) ∧
    decodeTableWord 16 0xB46A = some (.hBnz 6 0x5A) := by decide

/-- The 64-bit forms (R158, R186), and the worked words of ECOPY x6, x7 and MMA acc3, p5, v8, x25. -/
theorem test_decode_64_bit :
    decodeTableWord 64 0x00000017A6006843 = some (.mldb ⟨13, 6, 29, 5⟩) ∧
    decodeTableWord 64 0x00000017A6006943 = some (.mldbP ⟨13, 6, 29, 5⟩) ∧
    decodeTableWord 64 0x00000014009DEA43 = some (.mma ⟨11, 13, 19, 5⟩) ∧
    decodeTableWord 64 0x0000001400058343 = some (.mzero 11 5) ∧
    decodeTableWord 64 0x00000017A6058443 = some (.mst ⟨11, 6, 29, 5⟩) ∧
    decodeTableWord 64 0x00000017A6058543 = some (.mldacc ⟨11, 6, 29, 5⟩) ∧
    decodeTableWord 64 0x0000000006980047 = some (.ecopy 19 6) ∧
    decodeTableWord 64 0x0000000006980147 = some (.equant 19 6) ∧
    decodeTableWord 64 0x0000000006980247 = some (.epack 19 6) ∧
    decodeTableWord 64 0x0000000006980347 = some (.eunpack 19 6) ∧
    decodeTableWord 64 0x0000000000980447 = some (.eseq 19) ∧
    decodeTableWord 64 0x0000000006980547 = some (.evpop 19 6) ∧
    decodeTableWord 64 0x0000000007300047 = some (.ecopy 6 7) ∧
    decodeTableWord 64 0x000000040041AA43 = some (.mma ⟨3, 5, 8, 1⟩) := by decide

/-- Words that no instruction has: a reserved major, a must-be-zero bit, an unlisted size code, the atomic order field of
AMOFADD.DET, a zero destination of a 16-bit form, FENCE with an empty kind (R283, R287, R291). -/
theorem test_decode_refuses :
    decodeTableWord 32 0x000000FD = none ∧ decodeTableWord 16 0x0000 = none ∧ decodeTableWord 32 0x08000001 = none ∧
    decodeTableWord 32 0x03800029 = none ∧ decodeTableWord 32 0x4400003D = none ∧ decodeTableWord 16 0x0002 = none ∧
    decodeTableWord 32 0x0380004D = none ∧ decodeTableWord 64 0x0000002000001343 = none ∧ decodeTableWord 32 0x018080B1 = none := by
  decide

namespace Sys2Proof.Tests

/-- The loaded strand with the access slice in turn, at U; vector length 0 and no legal type. -/
def acc : State := State.reset.withFetchWord 32 0x4D
/-- The same with the compute slice in turn. -/
def cmp : State := { acc with side := .compute }
/-- The access slice in turn, at S, in a handler that has not run TACK. -/
def sup : State := { acc.mapTrap fun t => { t with priv := true, held := true } with side := .access }
/-- The same after the TACK. -/
def supAck : State := sup.mapTrap fun t => { t with tstat := 8 }
/-- A state with a launch of DET = 1. -/
def det (s : State) : State := s.mapLaunch 1 fun l => { l with pkt := { l.pkt with ctl := l.pkt.ctl ||| 0x4000 } }
/-- A state with two registers of the slice in turn set: x6 and x7. -/
def with67 (s : State) (a b : Word) : State := (s.setX 6 a).setX 7 b
/-- An entry of a scalar queue full of zeros. -/
def fullAq : List AqEntry := List.replicate 32 ⟨0, false, 0⟩

/-- A state whose page 1 is the first page of the host's memory, its first line held by die 0 with the byte 0x4D and `dirty`. -/
def hostLine (s : State) (dirty : BitVec 64) : State :=
  { s with tlb := [⟨0x800, 1, 0x23F, 0⟩], l2 := [⟨0, 2 ^ 60, true, 0x4D, dirty, 0⟩] }

/-- A state whose link 0 has trained. -/
def linked (s : State) : State := { s with hub := { s.hub with link0 := 1 } }

/-- Does the result say `k`? -/
def isOk (r : Except Nat Nat) (k : Nat) : Bool := match r with | .ok j => j == k | .error _ => false
/-- Does the result fail with `c`? -/
def isErr {α : Type} (r : Except Nat α) (c : Nat) : Bool := match r with | .ok _ => false | .error d => d == c

theorem ok_of {r : Except Nat Nat} {k : Nat} (h : isOk r k = true) : r = .ok k := by
  cases r <;> simp_all [isOk]
theorem err_of {α : Type} {r : Except Nat α} {c : Nat} (h : isErr r c = true) : r = .error c := by
  cases r <;> simp_all [isErr]

end Sys2Proof.Tests

open Sys2Proof.Tests

/-- DivisionTable: the four rows meet their hypotheses. -/
theorem test_hyp_DivisionTable :
    ((with67 acc 7 2).x 6 = 7 ∧ (with67 acc 7 2).x 7 = 2) ∧
    ((with67 acc 0xFFFFFFFFFFFFFFF9 2).x 6 = 0xFFFFFFFFFFFFFFF9 ∧ (with67 acc 0xFFFFFFFFFFFFFFF9 2).x 7 = 2) ∧
    (with67 acc 5 0).x 7 = 0 ∧
    ((with67 cmp 0x8000000000000000 0xFFFFFFFFFFFFFFFF).x 6 = 0x8000000000000000 ∧
      (with67 cmp 0x8000000000000000 0xFFFFFFFFFFFFFFFF).x 7 = 0xFFFFFFFFFFFFFFFF) := by decide

/-- UpperImmediatesAndJumps: an even and an odd JALR target. -/
theorem test_hyp_UpperImmediatesAndJumps :
    (BitVec.ofInt 64 (((with67 acc 1 0).x 6).toInt + (0xFFF : BitVec 12).toInt)).toNat % 2 = 0 ∧
    (BitVec.ofInt 64 (((with67 acc 1 0).x 6).toInt + (0 : BitVec 12).toInt)).toNat % 2 = 1 := by decide

/-- BranchOutcomes: the compute slice with a legal type, VLC = 4,096 and an idle queue; and with an illegal type. -/
theorem test_hyp_BranchOutcomes :
    (let s := cmp.mapCmp fun c => { c with legal := true, vl := 4096 }
     s.side = .compute ∧ s.strand.cmp.legal = true ∧ s.strand.trap.vabsent = false ∧ s.strand.q.viq = [] ∧
       s.strand.cmp.vl.toNat ≤ 4096) ∧ (cmp.side = .compute ∧ cmp.strand.cmp.legal = false) := by decide

/-- FloatingPointExactness: 1.5 and the smallest subnormal of .D at k = 1,074, and an addend of FFMA at 2 k. -/
theorem test_hyp_FloatingPointExactness :
    (let s := with67 acc 0x3FF8000000000000 1
     (s.fp .d 6).finiteFrom 1074 ∧ (s.fp .d 7).finiteFrom 1074 ∧ (s.fp .d 6).finiteFrom (2 * 1074) ∧ (0 : Int) ≤ 1074) := by
  refine ⟨?_, ?_, ?_, ?_⟩ <;> first | decide | exact of_decide_eq_true (p := (_ : Int) ≤ _) rfl

/-- FloatingPointSpecialOperands: 1 / 0, 0 / 0, ∞ / ∞, 0 × ∞, ∞ × 0, the root of −0 and of −1, 1.5 / 3, ∞ / 3, 3 / ∞, a NaN, and the roots of
1.5 and of ∞. -/
theorem test_hyp_FloatingPointSpecialOperands :
    (let s := with67 acc 0x3F800000 0x80000000
     (s.fp .s 6).isNaN = false ∧ (s.fp .s 6).isInf = false ∧ (s.fp .s 6).isZero = false ∧ (s.fp .s 7).isZero = true) ∧
    (let s := with67 acc 0 0; (s.fp .s 6).isZero = true ∧ (s.fp .s 7).isZero = true) ∧
    (let s := with67 acc 0x7F800000 0xFF800000; (s.fp .s 6).isInf = true ∧ (s.fp .s 7).isInf = true) ∧
    (let s := with67 acc 0x7F800000 0; (s.fp .s 6).isInf = true ∧ (s.fp .s 7).isZero = true) ∧
    (let s := with67 acc 0x8000000000000000 0xBFF0000000000000
     (s.fp .d 6).isZero = true ∧ (s.fp .d 7).isNaN = false ∧ (s.fp .d 7).isZero = false ∧ (s.fp .d 7).neg? = true) ∧
    (let s := with67 acc 0x3FC00000 0x40400000
     (s.fp .s 6).isNaN = false ∧ (s.fp .s 6).isInf = false ∧ (s.fp .s 6).isZero = false ∧ (s.fp .s 6).neg? = false ∧
     (s.fp .s 7).isNaN = false ∧ (s.fp .s 7).isInf = false ∧ (s.fp .s 7).isZero = false) ∧
    (let s := with67 acc 0x7F800000 0x40400000
     s.fp .s 6 = .inf false ∧ (s.fp .s 6).isInf = true ∧ (s.fp .s 7).isNaN = false ∧ (s.fp .s 7).isInf = false ∧ (s.fp .s 7).isZero = false) ∧
    (with67 acc 0x7F800001 0).fp .s 6 = .nan true ∧
    (let s := with67 acc 0x7F800000 0xFF800000; s.fp .s 6 = .inf false ∧ s.fp .s 7 = .inf (!false) ∧ s.fp .s 7 ≠ .inf false) ∧
    (let s := with67 acc 0x40400000 0xFF800000
     s.fp .s 7 = .inf true ∧ (s.fp .s 6).isNaN = false ∧ (s.fp .s 6).isInf = false) ∧
    (let s := with67 acc 0x7F800000 0xFF800000; let x := s.fp .s 6; let y := s.fp .s 6; let z := s.fp .s 7
     ((x.isZero && y.isInf) || (x.isInf && y.isZero)) = false ∧ z = .inf (x.neg? == y.neg?) ∧ x ≠ .inf (x.neg? == y.neg?)) := by decide

/-- FloatingPointComparisons: a NaN on either side, on both; two finite values, the first the smaller, equal ones, zeros of both signs, an
infinity and a finite value; and no trap enabled. -/
theorem test_hyp_FloatingPointComparisons :
    (let s := with67 acc 0x7FC00000 0x3F800000
     (s.fp .s 6).isNaN = true ∧ (s.fp .s 7).isNaN = false ∧ ((s.fp .s 7).isNaN = false ∧ (s.fp .s 6).isNaN = true)) ∧
    (let s := with67 acc 0x7FC00000 0x7F800001; (s.fp .s 6).isNaN = true ∧ (s.fp .s 7).isNaN = true) ∧
    (let s := with67 acc 0x80000001 0x3F800000
     (s.fp .s 6).finiteFrom 149 ∧ (s.fp .s 7).finiteFrom 149 ∧ (s.fp .s 6).inUnits 149 < (s.fp .s 7).inUnits 149) ∧
    (let s := with67 acc 0x80000000 0; Below (s.fp .s 6) (s.fp .s 7)) ∧
    (let s := with67 acc 0x3F800000 0x7F800000
     Below (s.fp .s 6) (s.fp .s 7) ∧ (s.fp .s 6).isNaN = false ∧ (s.fp .s 7).isNaN = false ∧ (s.fp .s 7).isInf = true) ∧
    fcsrEn acc.strand.cmp.fcsr = 0 ∧ fcsrEn acc.cur.fcsr = 0 := by
  refine ⟨by decide, by decide, ⟨?_, ?_, ?_⟩, .inr (.inr (by decide)), ⟨.inr (.inl (by decide)), by decide⟩, by decide, by decide⟩ <;>
    first | decide | exact of_decide_eq_true (p := (_ : Int) ≤ _) rfl

/-- FloatingPointConversions: each integer type stands in the list of ranges; a NaN, an infinity and a value beyond the range. -/
theorem test_hyp_FloatingPointConversions :
    (IntTy.ln, (0 : Int), (18446744073709551615 : Int)) ∈ [(IntTy.w, (-2147483648 : Int), (2147483647 : Int)), (.wn, 0, 4294967295),
      (.l, -9223372036854775808, 9223372036854775807), (.ln, 0, 18446744073709551615)] ∧
    (with67 acc 0x7FC00000 0).fp .s 6 = .nan false ∧ (with67 acc 0xFF800000 0).fp .s 6 = .inf true ∧
    (match (with67 acc 0xBF800000 0).fp .s 6 with | .fin neg _ _ => neg | _ => false) = true := by decide

/-- LoadsReadTheirBytes: an aligned load of the loaded page, performed at once and one that waits; a load of a line of the host that the
die holds; and acquires of a scratchpad word, one at SYSTEM scope that does not wait and others that may. -/
theorem test_hyp_LoadsReadTheirBytes :
    (let s := with67 acc 0x4000 0
     s.isDet s.strand.id.lid = false ∧ (BitVec.ofInt 64 ((s.x 6).toInt + (0 : BitVec 9).toInt)).toNat % ldBytes .w = 0 ∧
     s.locate .global .load (BitVec.ofInt 64 ((s.x 6).toInt + (0 : BitVec 9).toInt)) = .ok 0x4000 ∧ isFar 0x4000 = false ∧
     s.delays.headD false = false ∧ ({ s with delays := [true] } : State).delays.headD false = true) ∧
    (let s := with67 (hostLine acc 0) 0x10000 0
     s.isDet s.strand.id.lid = false ∧ (s.x 6).toNat % ldBytes .w = 0 ∧ s.locate .global .load (s.x 6) = .ok (2 ^ 60) ∧
     isFar (2 ^ 60) = true ∧
     ((s.used .global 0x10000).ahead (scalarOf s (2 ^ 60) (ldBytes .w) .r false .none)).bytesAt s.strand.die (2 ^ 60) (ldBytes .w) =
       some [0x4D, 0, 0, 0]) ∧
    (let s := with67 acc 0x1FFFF8 0
     (s.x 6).toNat % ldBytes .d = 0 ∧ s.locate .spad .load (s.x 6) = .ok (spadKey 0 0x1FFFF8) ∧ isFar (spadKey 0 0x1FFFF8) = false ∧
     ¬ MayWait s (some .system) ∧ MayWait s (some .strand) ∧ MayWait s (some .gang) ∧ s.delays.headD false = false ∧
     ({ s with delays := [true] } : State).delays.headD false = true ∧ ∀ y ∈ s.strand.stores, y.edge = none) := by
  and_intros <;> first | decide +kernel | exact ok_of (by decide) | exact err_of (by decide) | (intro h; exact absurd rfl h.1) | (intro _; decide)

/-- StoresWriteTheirBytes: a store performed at once, one that waits, and a release at SYSTEM scope on the compute slice. -/
theorem test_hyp_StoresWriteTheirBytes :
    (let s := with67 acc 0x8000 5
     s.isDet s.strand.id.lid = false ∧
     s.storeCheck (stBytes .w) .global (BitVec.ofInt 64 ((s.x 6).toInt + (0 : BitVec 9).toInt)) = .ok 0x8000 ∧
     s.delays.headD false = false ∧ { s with delays := [true] }.delays.headD false = true) ∧
    (let s := with67 cmp 0x8000 5
     s.storeCheck (stBytes .d) .global (s.x 6) = .ok 0x8000 ∧ s.side = .compute ∧ s.strand.q.memoryWaits = false ∧ isFar 0x8000 = false ∧
     NothingFar (s.used .global 0x8000).settleOwn) := by
  and_intros <;> first | decide | exact ok_of (by decide) | exact err_of (by decide)

/-- ScalarAccessTraps: a misaligned address, an address that no page maps, an offset behind the scratchpad, a line with an uncorrectable error,
and a page of a package that cannot be reached. -/
theorem test_hyp_ScalarAccessTraps :
    (let s := with67 acc 0x4001 0x40000000
     (s.x 6 + BitVec.ofInt 64 (0 : BitVec 9).toInt).toNat % ldBytes .h ≠ 0 ∧ (s.x 6).toNat % stBytes .h ≠ 0 ∧ (s.x 6).toNat % atBytes .w ≠ 0 ∧
     (s.x 7).toNat % ldBytes .h = 0 ∧ s.locate .global .load (s.x 7) = .error 5 ∧
     (s.x 7).toNat % stBytes .h = 0 ∧ s.locate .global .store (s.x 7) = .error 6 ∧
     s.locate .spad .store 0x200000 = .error 6 ∧ s.cur.reply = none ∧ s.cur.waitReq = none ∧ s.place .spad .atomic 0x200000 = .error 6) ∧
    (let s := with67 { acc with bad := [0x8000] } 0x8000 0
     s.locate .global .store (s.x 6) = .ok 0x8000 ∧ s.place .global .atomic (s.x 6) = .ok 0x8000 ∧ isRemote 0x8000 = false ∧ isFar 0x8000 = false ∧
     s.detDom 0x8000 = false ∧ s.isBad 0x8000 = true ∧ stBytes .w < 8) ∧
    (let s := with67 { acc with tlb := [⟨0x800, 1, 0x33F, 0⟩] } 0x10000 0
     s.locate .global .load (s.x 6) = .ok (remoteKey 0 0) ∧ s.locate .global .store (s.x 6) = .ok (remoteKey 0 0) ∧
     isRemote (remoteKey 0 0) = true ∧ s.remoteFails (remotePa (remoteKey 0 0)).1 = true) := by
  and_intros <;> first | decide | exact ok_of (by decide) | exact err_of (by decide)

/-- AtomicsReadModifyWrite: every operation on an aligned location, with an order at SYSTEM scope; FADD in double precision; and one that
waits. -/
theorem test_hyp_AtomicsReadModifyWrite :
    let s := with67 cmp 0x8000 5
    (∀ op ∈ [AtOp.add, .and, .or, .xor, .min, .max, .swp, .cas], ∀ z ∈ [AtSize.w, .d],
      AtomicGoes s op ⟨.ar .system, .global, z, 5, 6, 7⟩ 0x8000) ∧ AtomicGoes s .fadd ⟨.plain, .spad, .d, 5, 6, 7⟩ (spadKey 0 0x8000) ∧
    (let d := { s with delays := [true] }
     d.delays.headD false = true ∧ d.cur.reply = none ∧ d.cur.waitReq = none ∧ isFar 0x8000 = false ∧ d.isDet d.strand.id.lid = false ∧
     d.atCheck .cas (atBytes .w) .global (d.x 6) false = .ok 0x8000) ∧
    (∀ a : AArgs, a = ⟨.ar .gang, .global, .w, 5, 6, 7⟩ → MayWait (atomicFrom s a) (Order.acqScope a.order)) ∧
    MayWait (atomicFrom s ⟨.acq .strand, .global, .w, 5, 6, 7⟩) (some .strand) := by
  refine ⟨?_, ⟨by decide, fun _ => by decide, ok_of (by decide), by decide, by decide, (fun h => nomatch h), (fun h => nomatch h), (fun h => nomatch h)⟩,
    ⟨by decide, by decide, by decide, by decide, by decide, ok_of (by decide)⟩, (fun a h => by subst h; exact ⟨by decide, (fun h => nomatch h)⟩), ⟨by decide, (fun _ => by decide)⟩⟩
  intro op hop z hz
  refine ⟨by decide, (fun h => absurd rfl h.1), ok_of ?_, by decide, by decide, fun _ _ => by decide, fun _ => ⟨?_, ?_, ?_, ?_, ?_⟩, fun _ => ?_⟩ <;>
    revert op z <;> decide

/-- DeterministicAddsAreBuffered: with DET = 1 room for the add and no conflict; and with DET = 0. -/
theorem test_hyp_DeterministicAddsAreBuffered :
    (let s := det (with67 acc 0x8000 5)
     (s.cur.reply = none ∧ s.cur.waitReq = none) ∧ s.atCheck .fadd (atBytes .d) .global (s.x 6) true = .ok 0x8000 ∧
     s.isDet s.strand.id.lid = true ∧
     (s.det.adds.filter fun x => s.addSlice x == memSlice s.strand.die 0x8000).length < 4096 ∧
     ∃ d, (s.used .global (s.x 6)).detect s.strand.id 0x8000 [3] = .ok d) ∧
    (let s := with67 acc 0x8000 5
     (s.cur.reply = none ∧ s.cur.waitReq = none) ∧ s.atCheck .fadd (atBytes .d) .global (s.x 6) true = .ok 0x8000 ∧
     s.isDet s.strand.id.lid = false ∧
     s.atCheck .fadd (atBytes .d) .global (s.x 6) false = .ok 0x8000) := by
  refine ⟨⟨by decide, ok_of (by decide), by decide, by decide, _, rfl⟩, by decide, ok_of (by decide), by decide, ok_of (by decide)⟩

/-- MfsReadsEveryRegister and MtsWritesEveryRegister: each slice and mode, vector work done, and values at the ends of their
ranges for each register that refuses some, and behind those ends. -/
theorem test_hyp_SystemRegisters :
    (cmp.side = .compute ∧ cmp.strand.q.vectorDone = true ∧ cmp.atS = false ∧ cmp.flagsComing = false ∧ cmp.strand.sys.vbrun = false) ∧
    (acc.side = .access ∧ acc.atS = false ∧ acc.flagsComing = false) ∧
    (sup.side = .access ∧ sup.strand.trap.priv = true) ∧
    (let s := with67 acc 0xFFFFFFFFFFFFF3FF 3; (s.x 6).toNat / 2 ^ 10 % 8 < 5 ∧ (s.x 7).toNat < 4) ∧
    (let s := with67 sup 8 0x1FFFF; 1 ≤ (s.x 6).toNat ∧ (s.x 6).toNat ≤ 8 ∧ (s.x 7).toNat < 2 ^ 17) ∧
    (let s := with67 sup 0x1FFFFFFFFFFFFB 0xFFFFFFFFFFFFFE
     (s.x 6).toNat < 2 ^ 53 ∧ (s.x 6).getLsbD 2 = false ∧ (s.x 7).toNat % 2 = 0 ∧ (s.x 7).toNat < 2 ^ 56) ∧
    (let s := with67 sup 0xFFFFFFFFFF801 0; (s.x 6).toNat % 2 ^ 11 < 2 ∧ (s.x 6).toNat < 2 ^ 52) ∧ (31 : Reg) ≠ 0 ∧
    (let s := with67 acc 0x1400 4; 5 ≤ (s.x 6).toNat / 2 ^ 10 % 8 ∧ s.side = .access ∧ 4 ≤ (s.x 7).toNat) ∧
    (let s := with67 sup 0 9; s.atS = true ∧ s.x 6 = 0 ∧ 8 < (s.x 7).toNat) ∧
    (let s := with67 sup 0x20000000000000 4; s.atS = true ∧ 2 ^ 17 ≤ (s.x 6).toNat ∧ 2 ^ 53 ≤ (s.x 6).toNat ∧ (s.x 7).getLsbD 2 = true) ∧
    (let s := with67 sup 0x100000000000000 1
     s.atS = true ∧ 2 ^ 56 ≤ (s.x 6).toNat ∧ (s.x 7).toNat % 2 = 1 ∧ 2 ^ 52 ≤ (s.x 6).toNat ∧ 2 ≤ ((2 : Word).toNat % 2 ^ 11)) := by decide

/-- TrapEntry: the compute slice, also while the access slice waits for an answer; the access slice at S after the TACK, and at U, also with a
partner that stands stopped on a fault; and a stopped access slice whose partner has stopped. -/
theorem test_hyp_TrapEntry :
    (cmp.side = .compute ∧ cmp.strand.trap.accStop = none ∧ cmp.strand.acc.waitReq = none) ∧
    (supAck.side = .access ∧ supAck.strand.trap.priv = true ∧ supAck.strand.trap.ack = true) ∧
    (acc.side = .access ∧ acc.strand.trap.priv = false ∧ ∀ c, acc.strand.cmp.stall ≠ some (.fault c)) ∧
    (let s := cmp.mapAcc fun c => { c with waitReq := some 9 }
     s.side = .compute ∧ s.strand.trap.accStop = none ∧ s.strand.acc.waitReq.isSome = true) ∧
    (let s := acc.mapCmp fun c => { c with stall := some (.fault ⟨1, 0⟩) }
     s.side = .access ∧ s.strand.trap.priv = false ∧ s.strand.cmp.stall = some (.fault ⟨1, 0⟩)) ∧
    (let s := (acc.mapTrap fun t => { t with accStop := some ⟨4, 0x4001⟩ }).mapCmp fun c => { c with stall := some .cqFull }
     let s := s.mapQ fun q => { q with cq := List.replicate 32 ⟨0, 0⟩ }
     s.strand.trap.accStop = some ⟨4, 0x4001⟩ ∧ s.strand.trap.dead = false ∧ s.computeStopped = true) := by
  refine ⟨by decide, by decide, ⟨by decide, by decide, fun c h => nomatch h⟩, by decide, by decide, by decide⟩

/-- DoubleFaultAndSupervisorTraps: at S before the TACK in a launch in flight, with the event queue off, and with room; on the compute slice,
and at U. -/
theorem test_hyp_DoubleFaultAndSupervisorTraps :
    (sup.side = .access ∧ sup.strand.trap.priv = true ∧ sup.strand.trap.ack = false ∧ sup.inFlight sup.strand.id.lid = true) ∧
    (let e := sup.hub.events; e.held.length < 4096 ∧ (e.en && e.room) = false ∧ e.held = [] ∧ { e with en := true, size := 6 }.room = true) ∧
    cmp.side = .compute ∧ (acc.side = .access ∧ acc.strand.trap.priv = false) := by decide

/-- TackAndTret: at S after the TACK with PPRIV = 0 and nothing pending, with PPRIV = 1, and before the TACK. -/
theorem test_hyp_TackAndTret :
    (supAck.side = .access ∧ supAck.strand.trap.priv = true ∧ supAck.strand.trap.ack = true ∧ supAck.strand.q.viq = [] ∧
      supAck.strand.trap.preempt = false ∧ supAck.strand.acc.halted = false) ∧
    (let s := sup.mapTrap fun t => { t with tstat := 10 }; s.strand.trap.ack = true ∧ s.strand.trap.tstat.getLsbD 1 = true) ∧
    sup.strand.trap.ack = false := by decide

/-- HaltStopsItsSlice: each slice at U with its partner running; at S in a PREEMPT handler, and before the TACK. -/
theorem test_hyp_HaltStopsItsSlice :
    (acc.side = .access ∧ acc.strand.trap.priv = false ∧ acc.accessQuiet = true ∧ acc.strand.cmp.halted = false) ∧
    (cmp.side = .compute ∧ cmp.strand.q.allDone = true ∧ cmp.strand.acc.halted = false) ∧
    (let s := supAck.mapTrap fun t => { t with tcause := 0x17 }
     s.side = .access ∧ s.strand.trap.priv = true ∧ s.strand.trap.ack = true ∧ s.strand.trap.tcause.toNat % 256 = 0x17) ∧
    sup.strand.trap.ack = false := by decide

/-- FencesPerformEarlierStores and LaunchTriggers: nothing waits and nothing far is held; CONVOY with DET = 0 and with DET = 1; and a
launch whose squads are all placed and whose one strand has not triggered. -/
theorem test_hyp_FencesAndTriggers :
    (cmp.side = .compute ∧ cmp.strand.q.memoryWaits = false ∧ cmp.isDet cmp.strand.id.lid = false) ∧ acc.side = .access ∧
    ((det cmp).isDet (det cmp).strand.id.lid = true ∧ (det cmp).strand.q.viq.length < 32) ∧
    (∀ s ∈ [acc, cmp], NothingFar s.settleOwn) ∧
    (cmp.strand.q.viq.length < 32 ∧ cmp.strand.q.headStall = none ∧ cmp.strand.q.headReq = none ∧ cmp.strand.q.headReply = none ∧
     NothingFar (cmp.ahead { scalarOf cmp 0 0 .rw false .none with mslices := [], edge := some ⟨none, .rw, none, .rw, false⟩ }) ∧
     (cmp.mapQ fun q => { q with viq := [⟨.vwait ⟨none, .none, 0, 1, 2, 6⟩, 0, 0, 0, none, false, 0, 0, false⟩] }).strand.q.memoryWaits = true) ∧
    (let l := acc.launchOf acc.strand.id.lid
     acc.inFlight acc.strand.id.lid = true ∧ acc.strand.resident = true ∧ l.saved = [] ∧ l.pkt.squads.toNat ≤ l.nextSquad ∧
     l.loose = [] ∧ l.firing = [] ∧ acc.settleOwn.l2 = [] ∧ acc.others = []) := by
  and_intros <;> first | decide | (unfold NothingFar; decide)

/-- SealMeasuresItsPages: one page at S, with no region in use and with 64. -/
theorem test_hyp_SealMeasuresItsPages :
    (let s := with67 sup 0x10000 0x10000
     s.side = .access ∧ s.strand.trap.priv = true ∧ (s.x 6).toNat % 65536 = 0 ∧ (s.x 7).toNat % 65536 = 0 ∧ s.x 7 ≠ 0 ∧
     (s.x 7).toNat ≤ 2 ^ 36 ∧ s.sealPages (s.x 6).toNat ((s.x 7).toNat / 65536) = .ok [0x10000] ∧ isFar 0x10000 = false ∧
     (s.hub.seals.length < 64 ∧ ∀ k ∈ [0x10000], ∀ b ∈ s.bad, ¬ (k ≤ b ∧ b < k + 65536)) ∧
     sealedLeaf s.settleOwn.mem s.strand.trap.ptbr ((s.x 6).toNat + 65536 * 0) = some 0x2000) ∧
    (let s := with67 { sup with hub := { sup.hub with seals := List.replicate 64 ⟨0, 0, [], 0⟩ } } 0x10000 0x10000
     s.sealPages (s.x 6).toNat ((s.x 7).toNat / 65536) = .ok [0x10000] ∧ 64 ≤ s.hub.seals.length) := by
  and_intros <;> first | decide | rfl

/-- ScalarQueuesMoveInOrder: room, an entry and a grant at the head, and full and empty queues. -/
theorem test_hyp_ScalarQueuesMoveInOrder :
    (acc.side = .access ∧ acc.strand.q.aq.length < 32 ∧ acc.strand.q.cq = []) ∧
    (cmp.side = .compute ∧ cmp.strand.q.cq.length < 32 ∧ cmp.strand.q.memoryWaits = false ∧ cmp.strand.q.aq = []) ∧
    (let s := cmp.mapQ fun q => { q with aq := [⟨5, false, 3⟩] }; s.side = .compute ∧ s.strand.q.aq = ⟨5, false, 3⟩ :: []) ∧
    (let s := cmp.mapQ fun q => { q with aq := [⟨5, true, 0⟩] }; s.side = .compute ∧ s.strand.q.aq = ⟨5, true, 0⟩ :: []) ∧
    (let s := acc.mapQ fun q => { q with cq := [⟨0, 2⟩, ⟨1, 3⟩] }; s.side = .access ∧ s.strand.q.cq = ⟨0, 2⟩ :: [⟨1, 3⟩]) ∧
    (let s := acc.mapQ fun q => { q with aq := fullAq }; s.side = .access ∧ 32 ≤ s.strand.q.aq.length) ∧
    (let s := cmp.mapQ fun q => { q with cq := List.replicate 32 ⟨0, 0⟩ }; s.side = .compute ∧ 32 ≤ s.strand.q.cq.length) := by decide

/-- LengthGrantsAndModes: a width of the list on the access slice, a grant at the head on the compute slice, and a slip of 8. -/
theorem test_hyp_LengthGrantsAndModes :
    ((EWidth.e64, 64) ∈ [(EWidth.e4, 4), (.e8, 8), (.e16, 16), (.e32, 32), (.e64, 64)] ∧ acc.side = .access ∧ acc.strand.q.aq.length < 32) ∧
    (let s := cmp.mapQ fun q => { q with aq := [⟨0x400000100, true, 0⟩] }
     s.side = .compute ∧ s.strand.q.aq = ⟨0x400000100, true, 0⟩ :: [] ∧ s.strand.q.vectorDone = true) ∧
    (let s := with67 acc 8 0; 1 ≤ (s.x 6).toNat ∧ (s.x 6).toNat ≤ 8 ∧ (1 ≤ (8 : BitVec 4).toNat ∧ (8 : BitVec 4).toNat ≤ 8)) := by decide

/-- BarrierInitialisation: an idle gang and squad barrier at the largest number and count, a busy one, counts out of range, and a squad
barrier number of 64. -/
theorem test_hyp_BarrierInitialisation :
    (let s := with67 acc 16 640; let i := s.strand.id
     (1 ≤ (s.x 6).toNat ∧ (s.x 6).toNat ≤ 16) ∧ (s.barrier i false 511).count = 0 ∧
     (s.gangs.any fun g => g.lid == i.lid && g.squad == i.squad && g.index == i.gang) = true ∧
     (1 ≤ (s.x 7).toNat ∧ (s.x 7).toNat ≤ 640) ∧ (63 : BitVec 9).toNat < 64 ∧ (s.barrier i true 63).count = 0 ∧
     (s.squads.any fun q => q.lid == i.lid && q.index == i.squad) = true) ∧
    (let s := (with67 acc 1 17).mapGang acc.strand.id fun g => { g with bars := [(3, ⟨2, 1, 0, []⟩)] }
     (s.barrier s.strand.id false 3).count ≠ 0 ∧ 1 ≤ (s.x 6).toNat ∧ (s.x 6).toNat ≤ 16 ∧ 16 < (s.x 7).toNat) ∧
    (with67 acc 0 641).x 6 = 0 ∧ 640 < ((with67 acc 0 641).x 7).toNat ∧ 64 ≤ (64 : BitVec 9).toNat := by decide

/-- BarrierArrivals: a barrier of two of the gang and one of the squad, on each slice; the last arrival and an earlier one. -/
theorem test_hyp_BarrierArrivals :
    (∀ s ∈ [acc, cmp], (s.gangs.any fun g => g.lid == s.strand.id.lid && g.squad == s.strand.id.squad && g.index == s.strand.id.gang) = true ∧
      (s.squads.any fun q => q.lid == s.strand.id.lid && q.index == s.strand.id.squad) = true ∧ s.cur.barWait = none ∧
      s.strand.q.viq = []) ∧
    (let bars := [(63, (⟨2, 0, 0, []⟩ : Barrier)), (64, ⟨2, 1, 0, []⟩)]
     let s := acc.mapGang acc.strand.id fun g => { g with bars := bars }
     s.side = .access ∧ (s.barrier s.strand.id false 63).count + 1 < (s.barrier s.strand.id false 63).expected ∧
       (s.barrier s.strand.id false 64).expected ≤ (s.barrier s.strand.id false 64).count + 1) := by decide

/-- ForkAndJoin: room and a free core pair, too few lanes, a completed child whose lanes adjoin, also one that has left, and a name of no child. -/
theorem test_hyp_ForkAndJoin :
    (let s := with67 cmp 0x4000 0x4002
     s.side = .compute ∧ s.strand.q.vectorDone = true ∧ (s.x 6).toNat % 2 = 0 ∧ (s.x 7).toNat % 2 = 0 ∧
     s.freePairs s.strand.id.cluster = 1 :: [2, 3, 4, 5, 6, 7] ∧ 8 ≤ s.strand.id.lanes ∧ s.strand.q.ldq = [] ∧ s.strand.q.sdq = [] ∧
     s.strand.q.aq = []) ∧
    (let s := { cmp with strand := { cmp.strand with id := { cmp.strand.id with lanes := 4 } } }
     s.strand.id.lanes < 8 ∧ s.side = .compute ∧ s.strand.q.vectorDone = true) ∧
    (let s := with67 { cmp with strand := { cmp.strand with id := { cmp.strand.id with lanes := 16, children := [⟨6, true, []⟩] } } } 7 8
     let k := { loadStrand with id := { loadStrand.id with name := 14, pair := 1, lane0 := 16, lanes := 16 } }
     let s := { s with others := [k] }
     s.strand.id.children.find? (fun d => 1 + d.name == (s.x 6).toNat) = some ⟨6, true, []⟩ ∧ s.side = .compute ∧
     s.strand.q.vectorDone = true ∧
     (s.others.filter fun u => u.resident && u.id.sameGang s.strand.id && u.id.name == 8 + 6) = [k] ∧
     k.id.lane0 = s.strand.id.lane0 + s.strand.id.lanes ∧ k.id.lanes = s.strand.id.lanes ∧ k.id.back = [] ∧ k.id.children = [] ∧
     s.strand.id.back = [] ∧
     s.strand.id.children.find? (fun d => 1 + d.name == (s.x 7).toNat) = none) ∧
    (let c : Child := ⟨6, true, [(loadStrand.id.lane0 + 16, 16)]⟩
     let s := with67 { cmp with strand := { cmp.strand with id := { cmp.strand.id with lanes := 16, children := [c] } } } 7 8
     s.strand.id.children.find? (fun d => 1 + d.name == (s.x 6).toNat) = some c ∧ c.completed = true ∧
     (s.others.filter fun u => u.resident && u.id.sameGang s.strand.id && u.id.name == 8 + c.name) = [] ∧
     c.kept = [(s.strand.id.lane0 + s.strand.id.lanes, s.strand.id.lanes)] ∧ s.strand.id.back = []) := by decide +kernel

namespace Sys2Proof.Tests

/-- The compute slice at a type of that width and length, with format word `word` in x24. -/
def vec (word : Word) (width : BitVec 3) (vl : BitVec 24) : State :=
  (cmp.setX 24 word).mapCmp fun c => { c with legal := true, width := width, vl := vl }
/-- The same with 4 lanes. -/
def narrow (s : State) : State := { s with strand := { s.strand with id := { s.strand.id with lanes := 4 } } }
/-- Element `i` of width `w` of a vector register set. -/
def setV (s : State) (r : Fin 32) (w i x : Nat) : State := s.mapVec fun v => v.put s.lanes r w i x
/-- What VCalm asks for, as data. -/
def calm (s : State) : Prop :=
  s.side = .compute ∧ s.strand.cmp.legal = true ∧ s.strand.trap.vabsent = false ∧ s.strand.q.viq = [] ∧ 1 ≤ s.lanes ∧ s.lanes ≤ 32 ∧
    s.strand.cmp.vl.toNat ≤ s.vlmax s.vw

theorem vcalm_of {s : State} (h : calm s) : VCalm s :=
  ⟨h.1, h.2.1, h.2.2.1, h.2.2.2.1, ⟨h.2.2.2.2.1, h.2.2.2.2.2.1⟩, h.2.2.2.2.2.2⟩
theorem pcalm_of {s : State} (h : calm s) : PCalm s :=
  ⟨h.1, h.2.1, h.2.2.1, h.2.2.2.1, h.2.2.2.2.1, h.2.2.2.2.2.1⟩
theorem vready_of {s : State} {fmt : Fin 8} {f : FmtWord} (h : calm s) (w : fmtParse (s.fmtReg fmt) = some f) : VReady s fmt f :=
  ⟨vcalm_of h, w⟩

/-- I32 in each field, and SAT. -/
def fI32 : FmtWord := ⟨.i32, .i32, .i32, .rne, true, false⟩
/-- FP32 in each field. -/
def fFp32 : FmtWord := ⟨.fp32, .fp32, .fp32, .rne, false, false⟩

end Sys2Proof.Tests

/-- VectorIntegerResults: a full register of I32; an illegal type; a type of another width; the access slice; a format word that names
no format. -/
theorem test_hyp_VectorIntegerResults :
    (let s := vec 0x44631 3 512
     VReady s 0 fI32 ∧ fI32.scaled = false ∧ fI32.src1.isInt = true ∧ fI32.src2.isInt = true ∧ fI32.dst.isInt = true ∧
     fI32.src1.width = s.vw ∧ fI32.src2.width = s.vw ∧ fI32.dst.width = s.vw) ∧ acc.side = .access ∧
    (let s := vec 0xFFFFF 3 512; s.side = .compute ∧ fmtParse (s.fmtReg 0) = none) ∧
    (let s := vec 0x44631 4 256
     s.side = .compute ∧ fmtParse (s.fmtReg 0) = some fI32 ∧ intOk ⟨0, .none, .vi 31, 1, 2⟩ fI32 = true ∧ s.strand.trap.vabsent = false ∧
       widths3 fI32 s.vw = false) ∧
    (let s := cmp.setX 24 0x44631; s.side = .compute ∧ s.strand.cmp.legal = false ∧ fmtParse (s.fmtReg 0) = some fI32) := by
  refine ⟨⟨vready_of (by unfold calm; decide +kernel) (by decide +kernel), by decide +kernel⟩, by decide +kernel⟩

/-- VectorFloatingPointResults: FP32 elements, with a trap on DZ enabled for the division of element 1 by zero; a scaled square root. -/
theorem test_hyp_VectorFloatingPointResults :
    (let s := (setV (setV (vec 0x00421 3 2) 1 32 0 0x3F800000) 1 32 1 0x3F800000).mapCmp fun c => { c with fcsr := 0x100 }
     let s := setV s 2 32 0 0x3F800000
     VReady s 0 fFp32 ∧ fltOk ⟨0, .none, .vv 2, 1, 3⟩ fFp32 = true ∧ widths3 fFp32 s.vw = true ∧ takes s .none 1 = true ∧
     fcsrTraps s.strand.cmp.fcsr ((s.srcVal 1 .fp32 false 1).divExact (secondVal s (.vv 2) fFp32 1)).2 = true ∧
     fcsrTraps s.strand.cmp.fcsr ((s.srcVal 1 .fp32 false 0).divExact (secondVal s (.vv 2) fFp32 0)).2 = false) ∧
    (let s := vec 0x81084 1 32; let f : FmtWord := ⟨.e4m3, .e4m3, .e4m3, .rne, false, true⟩
     VReady s 0 f ∧ f.src1.isFlt = true ∧ f.dst.isFlt = true ∧ f.src1.width = s.vw ∧ f.dst.width = s.vw ∧ f.src1.isMx = true ∧
     (30 : VReg) ≠ 31) := by
  refine ⟨⟨vready_of (by unfold calm; decide +kernel) (by decide +kernel), by decide +kernel⟩, vready_of (by unfold calm; decide +kernel) (by decide +kernel), by decide +kernel⟩

/-- VectorConversionsAndWideMultiplyAdd: FP32 to BF16, FP32 to scaled FP8 without an enabled flag and with NV enabled, and VWMA into its group. -/
theorem test_hyp_VectorConversionsAndWideMultiplyAdd :
    (let s := vec 0x00801 3 4; let f : FmtWord := ⟨.fp32, .fp64, .bf16, .rne, false, false⟩
     VReady s 0 f ∧ cvtOk ⟨0, .none, 1, 2⟩ f = true ∧ max f.src1.width f.dst.width = s.vw ∧ (f.scaled && f.dst.isMx) = false) ∧
    (let s := vec 0x81001 3 64; let f : FmtWord := ⟨.fp32, .fp64, .e4m3, .rne, false, true⟩
     VReady s 0 f ∧ cvtOk ⟨0, .none, 1, 30⟩ f = true ∧ max f.src1.width f.dst.width = s.vw ∧ (f.scaled && f.dst.isMx) = true ∧
       fcsrEn s.strand.cmp.fcsr = 0) ∧
    (let s := setV ((vec 0x81001 3 2).mapCmp fun c => { c with fcsr := 0x3E0 }) 1 32 0 0x7F800001
     let f : FmtWord := ⟨.fp32, .fp64, .e4m3, .rne, false, true⟩
     let q := quantBlock f.dst f.rnd f.sat (((List.range s.strand.cmp.vl.toNat).filter fun i => takes s .none i && i / 32 == 0).map fun i =>
       s.srcVal 1 f.src1 f.scaled i)
     takes s .none 0 = true ∧ fcsrTraps s.strand.cmp.fcsr (q.2.getD 0 (0, Flags.none)).2 = true) ∧
    (let s := vec 0x04673 1 8; let f : FmtWord := ⟨.i8, .i8, .i32, .rne, false, false⟩
     VReady s 0 f ∧ wmaOk ⟨0, .none, .vv 2, 1, 8⟩ f = true ∧ f.src1.width = s.vw) := by
  refine ⟨⟨vready_of (by unfold calm; decide +kernel) (by decide +kernel), by decide +kernel⟩, ⟨vready_of (by unfold calm; decide +kernel) (by decide +kernel), by decide +kernel⟩,
    by decide +kernel, vready_of (by unfold calm; decide +kernel) (by decide +kernel), by decide +kernel⟩

/-- VectorComparisonsMergesAndMoves: integer and floating-point comparisons, a merge under m3 and a move of an immediate. -/
theorem test_hyp_VectorComparisonsMergesAndMoves :
    (let s := vec 0x44631 3 512
     VReady s 0 fI32 ∧ cmpOk ⟨0, .m3, .vi 31, 1, .le, 7⟩ fI32 = true ∧ widths2 fI32 s.vw = true ∧ Gov.m3 ≠ .none ∧ fI32.scaled = false ∧
     immOk fI32 (.vi 31) = true ∧ widths3 fI32 s.vw = true) ∧
    (let s := vec 0x00421 3 512
     VReady s 0 fFp32 ∧ fcmpOk ⟨0, .none, .vv 2, 1, .un, 0⟩ fFp32 = true ∧ widths2 fFp32 s.vw = true ∧
     (∀ i, takes s .none i = true → fcsrTraps s.strand.cmp.fcsr (fCompare .un (s.srcVal 1 .fp32 false i) (secondVal s (.vv 2) fFp32 i)).2 = false)) := by
  refine ⟨⟨vready_of (by unfold calm; decide +kernel) (by decide +kernel), by decide +kernel⟩, vready_of (by unfold calm; decide +kernel) (by decide +kernel), by decide +kernel, by decide +kernel, ?_⟩
  intro i _
  have h : (vec 0x00421 3 512).strand.cmp.fcsr = 0 := by decide +kernel
  generalize (fCompare _ _ _).2 = x
  rw [h]
  simp [fcsrTraps, fcsrEn]

/-- SlidesAndPermutations: slides, a permutation, a compression, VIOTA and VPRUNE of a whole number of groups. -/
theorem test_hyp_SlidesAndPermutations :
    (let s := vec 0x44631 3 512
     VReady s 0 fI32 ∧ slideOk ⟨0, .m1, .vi 15, 1, 2⟩ fI32 = true ∧ slideOk ⟨0, .none, .vs 6, 1, 2⟩ fI32 = true ∧ widths13 fI32 s.vw = true ∧
     (2 : VReg) ≠ 1 ∧ (3 : VReg) ≠ 2 ∧ fI32.scaled = false ∧ fI32.src2.isInt = true ∧ fI32.dst.isInt = true ∧ fI32.src2.width = s.vw ∧
     fI32.dst.width = s.vw) ∧
    (let s := vec 0x04673 1 16; let f : FmtWord := ⟨.i8, .i8, .i32, .rne, false, false⟩
     VReady s 0 f ∧ (30 : VReg) ≠ 31 ∧ f.src1.width ≤ 16 ∧ f.scaled = false ∧ f.src1.width = s.vw ∧ s.strand.cmp.vl.toNat % 8 = 0) := by
  refine ⟨⟨vready_of (by unfold calm; decide +kernel) (by decide +kernel), by decide +kernel⟩, vready_of (by unfold calm; decide +kernel) (by decide +kernel), by decide +kernel⟩

/-- MaskInstructions: VLC = 4,096 of 4-bit elements; VFIRST with a set bit, and with none. -/
theorem test_hyp_MaskInstructions :
    VCalm (vec 0 0 4096) ∧
    (let s := (vec 0 0 4).mapVec fun v => v.putMask 5 2
     (List.range s.strand.cmp.vl.toNat).filter (fun i => takes s .none i && (s.strand.vec.m.get 5).getLsbD i) = [1] ∧
     (List.range s.strand.cmp.vl.toNat).filter (fun i => takes s .none i && (s.strand.vec.m.get 6).getLsbD i) = []) := by
  refine ⟨vcalm_of (by unfold calm; decide +kernel), by decide +kernel⟩

/-- ReductionsAndScans: integer and floating-point reductions and scans, and sums into a wider format, with no trap enabled. -/
theorem test_hyp_ReductionsAndScans :
    (let s := vec 0x44631 3 512; let a : VArgs := ⟨0, .none, .vv 2, 1, 3⟩
     VReady s 0 fI32 ∧ fI32.src1.width = s.vw ∧ redOk a false false fI32 = true ∧ fitsSum fI32 = true ∧ fitsSame fI32 = true ∧
     fitsScan fI32 = true) ∧
    (let s := vec 0x00421 3 512; let a : VArgs := ⟨0, .none, .vs 6, 1, 3⟩
     VReady s 0 fFp32 ∧ fFp32.src1.width = s.vw ∧ fcsrEn s.strand.cmp.fcsr = 0 ∧ redOk a true true fFp32 = true ∧
     redOk a true false fFp32 = true ∧ fitsSum fFp32 = true ∧ fitsSame fFp32 = true ∧ fitsScan fFp32 = true) ∧
    (let s := vec 0x04633 1 2048; let f : FmtWord := ⟨.i8, .i32, .i32, .rne, false, false⟩
     VReady s 0 f ∧ f.src1.width = s.vw ∧ redOk ⟨0, .m1, .vv 2, 1, 3⟩ false false f = true ∧ fitsSum f = true) := by
  refine ⟨⟨vready_of (by unfold calm; decide +kernel) (by decide +kernel), by decide +kernel⟩, ⟨vready_of (by unfold calm; decide +kernel) (by decide +kernel), by decide +kernel⟩,
    vready_of (by unfold calm; decide +kernel) (by decide +kernel), by decide +kernel⟩

/-- The access slice at 32-bit elements with two of them, and x6 at a mapped address. -/
def Sys2Proof.Tests.vmem (base : Word) (vl : BitVec 24) : State :=
  (with67 acc base 8).mapAcc fun c => { c with legal := true, width := 3, vl := vl }
/-- The keys of their elements under the unit-stride form. -/
def Sys2Proof.Tests.unitKey (base : Nat) (i : Nat) : Nat := base + 4 * i

theorem Sys2Proof.Tests.memoryGoes_of {s : State} {need : Need} {el : Nat → VEl} {key : Nat → Nat}
    (h : s.side = .access ∧ s.strand.acc.legal = true ∧ s.strand.acc.width.toNat ≤ 4 ∧
      s.strand.acc.vl.toNat * widthBits s.strand.acc.width.toNat ≤ 16384 ∧ s.isDet s.strand.id.lid = false ∧
      (s.strand.acc.reply = none ∧ s.strand.acc.waitReq = none ∧ s.strand.acc.sent = 0) ∧
      (∀ a ∈ s.strand.stores, a.loads = [] ∧ a.atom = none) ∧ s.delays = [] ∧ s.stopElement = none)
    (g : (memoryElements s).all (fun i => (el i).va.toNat % max 1 (widthBits s.strand.acc.width.toNat / 8) == 0 &&
      isOk (s.locate s.mspace need (el i).va) (key i) && !isFar (key i + 7)) = true) : MemoryGoes s need el key := by
  refine ⟨h.1, h.2.1, h.2.2.1, h.2.2.2.1, h.2.2.2.2.1, h.2.2.2.2.2.1, h.2.2.2.2.2.2.1, h.2.2.2.2.2.2.2.1, h.2.2.2.2.2.2.2.2,
    fun i hi => ?_⟩
  have := List.all_eq_true.mp g i hi
  simp only [Bool.and_eq_true, beq_iff_eq, Bool.not_eq_true'] at this
  exact ⟨this.1.1, ok_of this.1.2, this.2⟩

/-- VectorLoads: a free slot and a mapped block of elements; an index entry at the head of SDQ; for VLFF, a second element on a page that
nothing maps. -/
theorem test_hyp_VectorLoads :
    (let s := vmem 0x8000 2
     slotFree s ∧ MemoryGoes s .load (elementAt s .unit (s.x 6) fun _ => 0) (unitKey 0x8000) ∧
     MemoryGoes s .load (elementAt s (.stride (s.x 7)) (s.x 6) fun _ => 0) (fun i => 0x8000 + 8 * i) ∧
     MemoryGoes s .load (elementAt s (.lane (s.x 7)) (s.x 6) fun _ => 0) (fun i => 0x8000 + 8 * i) ∧ s.strand.q.aq.length < 32) ∧
    (let e : QSlot := ⟨2, 3, true, true, 2, 0x4, 0⟩; let s := (vmem 0x8000 2).mapQ fun q => { q with sdq := [e] }
     slotFree s ∧ indexReady s e [] ∧ MemoryGoes s .load (elementAt s .index (s.x 6) e.elem) (fun i => 0x8000 + if i = 0 then 4 else 0)) ∧
    (let s := vmem 0x3FFFFFFC 2; let el := elementAt s .unit (s.x 6) fun _ => 0
     s.side = .access ∧ s.strand.acc.legal = true ∧ s.strand.acc.width.toNat ≤ 4 ∧
     s.strand.acc.vl.toNat * widthBits s.strand.acc.width.toNat ≤ 16384 ∧ s.isDet s.strand.id.lid = false ∧ s.strand.q.aq.length < 32 ∧
     s.strand.acc.reply = none ∧ s.strand.acc.waitReq = none ∧ (∀ a ∈ s.strand.stores, a.loads = []) ∧ s.delays = [] ∧
     s.stopElement = none ∧ s.strand.acc.vstart.toNat < 1 ∧ 1 < s.strand.acc.vl.toNat ∧
     0x05 ∈ [0x05, 0x08, 0x09, 0x0A] ∧
     (memoryElements s).all (fun i => (el i).va.toNat % max 1 (widthBits s.strand.acc.width.toNat / 8) == 0) = true ∧
     s.locate s.mspace .load (el 0).va = .ok 0x3FFFFFFC ∧ isFar (0x3FFFFFFC + 7) = false ∧ s.locate s.mspace .load (el 1).va = .error 0x05) := by
  refine ⟨⟨by unfold slotFree; decide +kernel, memoryGoes_of (by decide +kernel) (by decide +kernel), memoryGoes_of (by decide +kernel) (by decide +kernel),
    memoryGoes_of (by decide +kernel) (by decide +kernel), by decide +kernel⟩, ⟨by unfold slotFree; decide +kernel, by unfold indexReady; decide +kernel,
    memoryGoes_of (by decide +kernel) (by decide +kernel)⟩, ?_⟩
  and_intros <;> first | decide +kernel | exact ok_of (by decide +kernel) | exact err_of (by decide +kernel)

/-- VectorStoresAndAtomics: a data entry of the access slice's width, an index and a data entry, and the same for VAMO. -/
theorem test_hyp_VectorStoresAndAtomics :
    (let d : QSlot := ⟨2, 3, true, true, 2, 7, 0⟩; let s := (vmem 0x8000 2).mapQ fun q => { q with sdq := [d] }
     s.delays = [] ∧ dataReady s s.strand.q.sdq d [] ∧ MemoryGoes s .store (elementAt s .unit (s.x 6) fun _ => 0) (unitKey 0x8000) ∧
     MemoryGoes s .store (elementAt s (.stride (s.x 7)) (s.x 6) fun _ => 0) (fun i => 0x8000 + 8 * i) ∧
     MemoryGoes s .store (elementAt s (.lane (s.x 7)) (s.x 6) fun _ => 0) (fun i => 0x8000 + 8 * i) ∧
     ∀ i ∈ memoryElements s, s.isBad (unitKey 0x8000 i) = false ∧ s.isBad (0x8000 + 8 * i) = false) ∧
    (let x : QSlot := ⟨2, 3, true, true, 2, 0x4, 0⟩; let d : QSlot := ⟨2, 3, true, true, 2, 7, 0⟩
     let s := (vmem 0x8000 2).mapQ fun q => { q with sdq := [x, d] }
     let key (i : Nat) : Nat := 0x8000 + if i = 0 then 4 else 0
     indexReady s x [d] ∧ dataReady s [d] d [] ∧ (∀ i ∈ memoryElements s, s.isBad (key i) = false) ∧
     MemoryGoes s .store (elementAt s .index (s.x 6) x.elem) key ∧ slotFree s ∧ widthBits s.strand.acc.width.toNat = 32 ∧
     MemoryGoes s .atomic (elementAt s .index (s.x 6) x.elem) key ∧ (∀ i ∈ memoryElements s, s.detDom (key i) = false) ∧
     (∀ n i is, (memoryElements s).drop n = i :: is →
        let u := (amoElements (s.orderSdq 2) .add (elementAt s .index (s.x 6) x.elem) key d.elem ((memoryElements s).take n).reverse).1
        u.locate u.mspace .atomic (elementAt s .index (s.x 6) x.elem i).va = .ok (key i))) := by
  refine ⟨⟨by decide +kernel, by unfold dataReady; decide +kernel, memoryGoes_of (by decide +kernel) (by decide +kernel), memoryGoes_of (by decide +kernel) (by decide +kernel),
    memoryGoes_of (by decide +kernel) (by decide +kernel), by decide +kernel⟩, by unfold indexReady; decide +kernel, by unfold dataReady; decide +kernel, by decide +kernel,
    memoryGoes_of (by decide +kernel) (by decide +kernel), by unfold slotFree; decide +kernel, by decide +kernel, memoryGoes_of (by decide +kernel) (by decide +kernel), by decide +kernel, ?_⟩
  intro n i is h
  match n with
  | 0 => obtain rfl : 0 = i := by injection h
         exact ok_of (by decide +kernel)
  | 1 => obtain rfl : 1 = i := by injection h
         exact ok_of (by decide +kernel)
  | n + 2 => exact absurd h (by rw [List.drop_eq_nil_of_le (by show 2 ≤ n + 2; omega)]; exact fun h => nomatch h)

/-- A load-table memory with more cells. -/
def Sys2Proof.Tests.cells (s : State) (cs : List (Nat × Byte)) : State := { s with mem := s.mem.setAll cs }

theorem Sys2Proof.Tests.takes_lt {s : State} {g : Gov} {i : Nat} (h : takes s g i = true) : i < s.strand.cmp.vl.toNat := by
  simp only [takes, Bool.and_eq_true, decide_eq_true_eq] at h
  exact h.1.2

/-- The states of VHACC's clause for a range of one element. -/
def Sys2Proof.Tests.haccStates (s : State) (f : FmtWord) (base c k v : Nat) : Nat → State
  | 0 => s.setSpstat 1 false
  | _ + 1 => match (s.setSpstat 1 false).haccOne f base 0 c k v with
    | .next t => t
    | _ => s

/-- N64 keys and I64 values, in the format word's fields. -/
def Sys2Proof.Tests.fHacc : FmtWord := ⟨.n64, .i64, .i64, .rne, false, false⟩

/-- VHACC's state: a table of capacity 2 at offset 0, its count, and the two entries; v1 element 0 is key 5. -/
def Sys2Proof.Tests.haccState (entries : List (Nat × Byte)) : State :=
  cells (setV (vec 0x4218 4 1) 1 64 0 5) ([(spadKey 0 0, 2)] ++ entries)

/-- SparseInstructions: VBMAND and VBPREFIX at 64 bits; VISECT with all its pairs, and with the second element beyond 16 L = 64 pairs; VHACC
with its key in the home entry, and with an empty home entry and room; the states of its clause for any range. -/
theorem test_hyp_SparseInstructions :
    (let s := vec 0x4210 4 256
     VCalm s ∧ s.vw = 64 ∧ fmtParse (s.fmtReg 0) = some ⟨.i64, .i64, .i64, .rne, false, false⟩ ∧
     (8 : VReg) ≠ 31 ∧ (4 : VReg) ≠ 31 ∧ (6 : VReg) ≠ 31 ∧ ((8 : VReg).val + 1 < (4 : VReg).val ∨ (4 : VReg).val + 1 < (8 : VReg).val) ∧
     ((8 : VReg).val + 1 < (6 : VReg).val ∨ (6 : VReg).val + 1 < (8 : VReg).val)) ∧
    (let s := narrow (vec 0x4210 4 2)
     let s := s.mapVec fun v => { v with v := (v.v.set 4 (BitVec.allOnes 16384)).set 6 (BitVec.allOnes 16384) }
     let pairs (i : Nat) : List (Nat × Nat) := isectWord (s.vget 4 64 i) (s.vget 6 64 i) (s.vget 5 64 i) (s.vget 7 64 i)
     VCalm s ∧ ([0].flatMap pairs).length ≤ 16 * s.lanes ∧ 16 * s.lanes < (([0] ++ [1]).flatMap pairs).length ∧
     (List.range s.strand.cmp.vl.toNat).drop s.strand.cmp.vstart.toNat = [0] ++ 1 :: []) ∧
    (∀ n ∈ [0, 1], let s := haccState (if n = 0 then [(spadKey 0 16, 5), (spadKey 0 32, 5)] else
        atKeys (spadKey 0 16) (List.replicate 8 0xFF) ++ atKeys (spadKey 0 32) (List.replicate 8 0xFF))
     let d := s.drain fun a => (a.side == s.side && a.path == Path.vector) || (a.side != s.side && a.num < s.cur.popMark)
     let base := spadKey 0 0; let h := 5 * 0x9E3779B97F4A7C15 % 2 ^ 64 / 2 ^ (64 - Nat.log2 2)
     let entry (j : Nat) : Nat := d.mem.readNat (base + 16 + 2 * 8 * ((h + j) % 2)) 8
     fmtParse (s.fmtReg 0) = some fHacc ∧ haccOk fHacc = true ∧ fHacc.src1.width = s.vw ∧ (s.x 6).toNat % 8 = 0 ∧
     (haccTable d base).1 = 2 ^ 1 ∧ (s.x 6).toNat + 16 + 2 * 8 * 2 ≤ (s.gangOf s.strand.id).spadPages * 4096 ∧ s.isBad base = false ∧
     s.vget 1 64 0 = 5 ∧ 5 ≠ 2 ^ 64 - 1 ∧ (List.range s.strand.cmp.vl.toNat).drop s.strand.cmp.vstart.toNat = [0] ∧
     s.isDet s.strand.id.lid = false ∧ fcsrEn s.strand.cmp.fcsr = 0 ∧ s.bad = [] ∧ isFar (base + 16 + 2 * 8 * 2) = false ∧
     (if n = 0 then entry 0 = 5 else entry 0 = 2 ^ 64 - 1 ∧ (haccTable d base).2 + 1 ≠ 2)) ∧
    (let s := haccState [(spadKey 0 16, 5), (spadKey 0 32, 5)]
     let s := s.drain fun a => (a.side == s.side && a.path == Path.vector) || (a.side != s.side && a.num < s.cur.popMark)
     haccStates s fHacc (spadKey 0 0) 2 5 0 0 = s.setSpstat 1 false ∧
     (haccStates s fHacc (spadKey 0 0) 2 5 0 0).haccOne fHacc (spadKey 0 0) 0 2 5 0 = .next (haccStates s fHacc (spadKey 0 0) 2 5 0 1)) := by
  refine ⟨⟨vcalm_of (by unfold calm; decide +kernel), by decide +kernel⟩, ⟨vcalm_of (by unfold calm; decide +kernel), by decide +kernel⟩,
    by decide +kernel, by decide +kernel, by decide +kernel⟩

/-- VectorQueuesAndFlagWaits: room in SDQ; a FULL head of 512 elements of 32 bits, and one that still fills; a flag that has its value, and one that has not, with
xs = 0 and with xs ≠ 0. -/
theorem test_hyp_VectorQueuesAndFlagWaits :
    (let s := vec 0 3 512; VCalm s ∧ s.strand.q.sdq.length < 8) ∧
    (let e : QSlot := ⟨512, 3, true, true, 512, 0, 0⟩; let s := (vec 0 3 512).mapQ fun q => { q with ldq := [e] }
     VCalm s ∧ s.strand.q.ldq = e :: [] ∧ e.full = true ∧ e.count.toNat ≤ s.vlmax (widthBits e.width.toNat) ∧ e.width.toNat ≤ 4 ∧
     { e with full := false }.full = false) ∧
    (let s := (setV (vec 0 4 1) 1 64 0 0x8000).setX 6 9
     let on (i : Nat) : Bool := decide (i < s.strand.cmp.vl.toNat) && s.governs .none i
     VCalm s ∧ s.vw = 64 ∧ s.strand.q.headStall = none ∧ s.strand.q.headReq = none ∧ s.strand.q.headReply = none ∧
     s.isDet s.strand.id.lid = false ∧
     (∀ i, on i = true → s.vget 1 64 i % 8 = 0 ∧ isFar (0x8000 + 7) = false ∧
        s.locate .global .load (BitVec.ofNat 64 (s.vget 1 64 i)) = .ok 0x8000) ∧
     (let u := beforeVector s (((List.range s.strand.cmp.vl.toNat).filter on).flatMap fun _ => memSlices s.strand.die 0x8000 8) .r
      (∀ i, (on i && u.mem.readNat 0x8000 8 != s.vget 2 64 i) = false) ∧
      ∃ i, (on i && u.mem.readNat 0x8000 8 != s.vget 1 64 i) = true) ∧ s.x 0 = 0 ∧ s.x 6 ≠ 0) := by
  refine ⟨⟨vcalm_of (by unfold calm; decide +kernel), by decide +kernel⟩, ⟨vcalm_of (by unfold calm; decide +kernel), by decide +kernel⟩,
    vcalm_of (by unfold calm; decide +kernel), by decide +kernel, by decide +kernel, by decide +kernel, by decide +kernel, by decide +kernel,
    ?_, ⟨?_, ⟨0, by decide +kernel⟩⟩, by decide +kernel, by decide +kernel⟩
  · intro i h
    have : i = 0 := Nat.lt_one_iff.mp (of_decide_eq_true (Bool.and_eq_true_iff.mp h).1)
    subst this
    exact ⟨by decide +kernel, by decide +kernel, ok_of (by decide +kernel)⟩
  · intro i
    match i with
    | 0 => decide +kernel
    | n + 1 => rw [Bool.and_eq_false_iff, Bool.and_eq_false_iff]; exact .inl (.inl (decide_eq_false (by show ¬ n + 1 < 1; omega)))

/-- Three functions of FP32 on lines in LEG, of capacity 3, in f0 to f2, and one on a point in f3; f1 at degree 3. -/
def Sys2Proof.Tests.functions (fcsr : BitVec 13) : State :=
  ((vec 0 3 2).mapCmp fun c => { c with fcsr := fcsr }).mapVec fun v => { v with
    pdesc := ((((v.pdesc.set 0 0x10400C8).set 1 0x10400C8).set 2 0x10400C8).set 3 0x10400CB)
    dg := v.dg.set 1 3 }
/-- Their bindings. -/
def Sys2Proof.Tests.line (n p : Nat) : FuncReg := ⟨n, 0, 0, .fp32, 1, 3, 256, p⟩

/-- FunctionArrayInstructions: bindings that agree and fit at degrees 0 and 3; a face of a line; a product at capacity; PSET of a span of
eight; a register that is not bound; an addition of infinities with NV enabled. -/
theorem test_hyp_FunctionArrayInstructions :
    (let s := functions 0
     PCalm s ∧ bound s 0 (line 0 0) ∧ bound s 1 (line 1 3) ∧ bound s 2 (line 2 0) ∧ agrees (line 0 0) (line 1 3) = true ∧
     dirIndex .d1 < (line 1 3).dim ∧ (line 1 3).p ≤ (line 0 0).cap ∧ (line 0 0).fmt = (line 1 3).fmt ∧ (3 : BitVec 4).toNat ≤ (line 0 0).cap ∧
     agrees (line 0 0) (line 2 0) = true ∧ (line 1 3).p + (line 2 0).p ≤ (line 0 0).cap ∧ PMode.proj ≠ .exact ∧
     s.strand.vec.func 7 = none) ∧
    (let s := functions 0; ∃ d, bound s 3 d ∧ (line 1 3).dim ≠ 0 ∧ (1 : BitVec 3).toNat < 2 * (line 1 3).dim ∧
      d.shape = faceShape (line 1 3).shape ∧ d.basis = (line 1 3).basis ∧ d.fmt = (line 1 3).fmt ∧ 3 ≤ d.cap) ∧
    (let s := (functions 0).setX 6 0xFFA; let v := (s.x 6).toNat
     v < 2 ^ 25 ∧ (v % 4 = 3 → v / 64 % 16 = 0) ∧ 2 ^ (v / 16 % 4) * 4096 / ((v / 64 % 16 + 1) ^ (v % 4 + 1) * (if v / 8 % 2 = 1 then 4 else 8)) ≠ 0 ∧
     (0 : FReg).val % 2 ^ (v / 16 % 4) = 0 ∧ ((functions 0).x 6).toNat ≤ (line 0 0).cap ∧ ((functions 0).x 6).toNat ≤ 15) ∧
    fcsrTraps (functions 0x200).strand.cmp.fcsr ((Val.inf false).addExact .rne (Val.inf false).negate).2 = true := by
  refine ⟨⟨pcalm_of (by unfold calm; decide +kernel), by unfold bound; decide +kernel, by unfold bound; decide +kernel,
    by unfold bound; decide +kernel, by decide +kernel⟩, ⟨⟨3, 3, 0, .fp32, 1, 3, 1024, 0⟩, by unfold bound; decide +kernel, by decide +kernel⟩,
    by decide +kernel, by decide +kernel⟩

/-- FunctionWindowInstructions: a window of two places in the last slot; equal and unequal degrees; a point of a line; rows of blocks up to
the last; a FULL head of the right length. -/
theorem test_hyp_FunctionWindowInstructions :
    (let s := (functions 0).setX 6 255
     PCalm s ∧ bound s 0 (line 0 0) ∧ bound s 1 (line 1 3) ∧ bound s 2 (line 2 0) ∧ agrees (line 1 3) (line 0 0) = true ∧
     s.vw = (line 1 3).fmt.width ∧ (∀ i ∈ List.range s.strand.cmp.vl.toNat, (s.x 6).toNat + i / s.lanes < (line 0 0).e) ∧
     (line 1 3).p ≤ (line 0 0).cap ∧ (line 0 0).p = (line 2 0).p ∧ (line 1 3).shape ≠ 2 ∧
     (∀ i ∈ List.range s.strand.cmp.vl.toNat, s.vget 1 32 i ≤ codeMask (line 1 3).shape) ∧
     max (line 1 3).p (line 2 0).p ≤ (line 0 0).cap ∧ s.strand.cmp.vl.toNat ≤ s.vlmax 32 ∧ (31 : VReg).val + (line 1 3).dim ≤ 32) ∧
    (let e : QSlot := ⟨512, 3, true, true, 512, 0, 0⟩; let s := ((functions 0).setX 6 63).mapQ fun q => { q with ldq := [e] }
     bound s 0 (line 0 0) ∧ (s.x 6).toNat < (line 0 0).span * 64 ∧ s.strand.q.sdq.length < 8 ∧ s.strand.q.ldq = e :: [] ∧ e.full = true ∧
     e.width.toNat ≤ 4 ∧ e.count.toNat * widthBits e.width.toNat = 512 * s.lanes) := by
  refine ⟨⟨pcalm_of (by unfold calm; decide +kernel), by unfold bound; decide +kernel, by unfold bound; decide +kernel,
    by unfold bound; decide +kernel, by decide +kernel⟩, by unfold bound; decide +kernel, by decide +kernel⟩

/-- What MatrixGoes asks for, as data. -/
def Sys2Proof.Tests.matrixCalm (s : State) (fmt : Fin 8) (f : FmtWord) : Prop :=
  s.side = .compute ∧ fmtParse (s.fmtReg fmt) = some f ∧ s.strand.cmp.legal = true ∧ s.strand.trap.vabsent = false ∧
    (s.strand.q.viq = [] ∧ s.strand.q.mq = []) ∧
    (s.gangs.any fun g => g.lid == s.strand.id.lid && g.squad == s.strand.id.squad && g.index == s.strand.id.gang) = true ∧
    isFar (s.spadBase + s.spadLimit) = false ∧ s.bad = [] ∧ s.isDet s.strand.id.lid = false ∧ s.mem.wf = true ∧
    ∀ a ∈ s.strand.stores, a.loads = [] ∧ a.atom = none

theorem Sys2Proof.Tests.matrixGoes_of {s : State} {fmt : Fin 8} {f : FmtWord} (h : matrixCalm s fmt f) : MatrixGoes s fmt f :=
  ⟨h.1, h.2.1, h.2.2.1, h.2.2.2.1, h.2.2.2.2.1, h.2.2.2.2.2.1, h.2.2.2.2.2.2.1, h.2.2.2.2.2.2.2.1, h.2.2.2.2.2.2.2.2.1,
    h.2.2.2.2.2.2.2.2.2.1, h.2.2.2.2.2.2.2.2.2.2⟩

theorem Sys2Proof.Tests.rowsPass_of {s : State} {x1 x2 : Word} {least rows size : Nat}
    (h : (x1.toNat % 64 = 0 ∧ x2.toNat % 64 = 0) ∧ least ≤ x2.toNat ∧ x1.toNat + (rows - 1) * x2.toNat + size ≤ s.spadLimit) :
    RowsPass s x1 x2 least rows size := ⟨h.1, h.2.1, h.2.2⟩

/-- E4M3 products into FP32, the same scaled, and INT32 into INT32. -/
def Sys2Proof.Tests.fMat (scaled : Bool) : FmtWord := ⟨.e4m3, .e4m3, .fp32, .rne, false, scaled⟩

/-- MatrixInstructions: loads of a dense and a scaled panel, of a pruned one and of a tile; a store of a tile in FP32 and in scaled E4M3;
MZERO; and an MMA of 32 rows of 64 on a loaded panel, with nothing before it. -/
theorem test_hyp_MatrixInstructions :
    (let s := with67 (vec 0x484 1 2048) 0x40 0x100
     MatrixGoes s 0 (fMat false) ∧ 15 < s.gang.npanels ∧ matB (fMat false).src2 = true ∧ s.panelFree 15 = true ∧
     RowsPass s (s.x 6) (s.x 7) (rowBytes .e4m3) 64 (rowBytes .e4m3) ∧ RowsPass s (s.x 6) (s.x 7) (rowBytes .e4m3) 128 (rowBytes .e4m3) ∧
     15 < s.gang.naccs ∧ (fMat false).dst = .fp32 ∧ s.tileIdle 15 = true ∧
     s.grantable ⟨.mzero 15 0, s.fmtReg 0, 0, 0, 0, false, 0, 0, 0, 0, none⟩ = true ∧ s.delays.headD false = false) ∧
    (let s := with67 (vec 0x80484 1 2048) 0 0x100
     MatrixGoes s 0 (fMat true) ∧ (fMat true).src2.isMx = true ∧ RowsPass s (s.x 6) (s.x 7) 256 66 256) ∧
    (let s := with67 (vec 0x401 1 32) 0x1F8000 0x400
     let f : FmtWord := ⟨.fp32, .fp64, .fp32, .rne, false, false⟩
     MatrixGoes s 0 f ∧ f.dst ≠ .e8m0 ∧ f.scaled = false ∧ f.src1 = (if (s.tile 0).isInt then .i32 else .fp32) ∧
     RowsPass s (s.x 6) (s.x 7) 1024 32 1024 ∧ RowsPass s (s.x 6) (s.x 7) (rowBytes f.dst) 32 (rowBytes f.dst) ∧
     fcsrEn s.strand.cmp.fcsr = 0 ∧ s.delays = [] ∧ s.strand.stores = []) ∧
    (let s := with67 (vec 0x81001 1 32) 0 0x100
     let f : FmtWord := ⟨.fp32, .fp64, .e4m3, .rne, false, true⟩
     MatrixGoes s 0 f ∧ f.dst.isMx = true ∧ RowsPass s (s.x 6) (s.x 7) (rowBytes f.dst) 33 256) ∧
    (let s := (vec 0x484 1 2048).mapGang acc.strand.id fun g => { g with panels := [(15, ⟨some 4, false, false, 0, 0, 0⟩)] }
     let a : MmaArgs := ⟨15, 15, 1, 0⟩
     MatrixGoes s 0 (fMat false) ∧ s.mmaOk a (fMat false) = true ∧ s.mmaLen a (fMat false) = true ∧ fcsrEn s.strand.cmp.fcsr = 0 ∧
     s.grantable (s.mmaEntry a (s.fmtReg 0)) = true ∧ s.delays.headD false = false) := by
  refine ⟨⟨matrixGoes_of (by unfold matrixCalm; decide +kernel), by decide +kernel, by decide +kernel, by decide +kernel,
    rowsPass_of (by decide +kernel), rowsPass_of (by decide +kernel), by decide +kernel⟩,
    ⟨matrixGoes_of (by unfold matrixCalm; decide +kernel), by decide +kernel, rowsPass_of (by decide +kernel)⟩,
    ⟨matrixGoes_of (by unfold matrixCalm; decide +kernel), by decide +kernel, by decide +kernel, by decide +kernel,
      rowsPass_of (by decide +kernel), rowsPass_of (by decide +kernel), by decide +kernel⟩,
    ⟨matrixGoes_of (by unfold matrixCalm; decide +kernel), by decide +kernel, rowsPass_of (by decide +kernel)⟩,
    matrixGoes_of (by unfold matrixCalm; decide +kernel), by decide +kernel⟩

/-- A command of the loaded strand that copies `n` bytes of FP32 elements from scratchpad offset 0 to 256. -/
def Sys2Proof.Tests.copyCommand (moved : Bool) : Command :=
  ⟨1, 0, leBytes 8 0 ++ leBytes 8 256 ++ leBytes 4 4 ++ leBytes 4 2 ++ leBytes 4 4 ++ leBytes 4 4 ++ leBytes 4 5 ++ leBytes 4 0x421 ++
    leBytes 24 0, loadStrand.id, 0x800, false, none, moved, moved, false, 0, 0, 0, 0⟩

theorem Sys2Proof.Tests.foldl_nv {α : Type} (g : α → Flags) (l : List α) (a : Flags) (h : a.nv = true ∨ ∃ r ∈ l, (g r).nv = true) :
    (l.foldl (fun x r => x.or (g r)) a).nv = true := by
  induction l generalizing a with
  | nil => simpa using h
  | cons r l ih =>
    refine ih _ ?_
    rcases h with h | ⟨q, hq, h⟩
    · exact .inl (by simp [Flags.or, h])
    · rcases List.mem_cons.mp hq with rfl | hq
      · exact .inl (by simp [Flags.or, h])
      · exact .inr ⟨q, hq, h⟩
theorem Sys2Proof.Tests.traps_nv {fl : Flags} (h : fl.nv = true) : fcsrTraps 0x3E0 fl = true := by
  obtain ⟨a, b, c, d, e⟩ := fl
  cases h
  revert a b c d
  decide

/-- MatrixInstructions: a tile with a signalling NaN and every flag enabled: an MST of it and an MMA into it raise NV. -/
theorem test_hyp_MatrixTraps :
    (let s := ((vec 0x401 1 32).mapCmp fun c => { c with fcsr := 0x3E0 }).mapGang acc.strand.id fun g => { g with tiles := [(0, ⟨false, 0x7F800001⟩)] }
     let f : FmtWord := ⟨.fp32, .fp64, .fp32, .rne, false, false⟩
     MatrixGoes s 0 f ∧ s.delays = [] ∧ s.strand.stores = [] ∧ f.src1 = (if (s.tile 0).isInt then .i32 else .fp32) ∧
     s.strand.cmp.fcsr = 0x3E0 ∧
     fcsrTraps 0x3E0 ((List.range 32).foldl (fun (x : Flags) r => x.or (mstRow f (s.tile 0) r).2.2) Flags.none) = true) ∧
    (let s := ((vec 0x484 1 64).mapCmp fun c => { c with fcsr := 0x3E0 }).mapGang acc.strand.id fun g =>
       { g with panels := [(15, ⟨some 4, false, false, 0, 0, 0⟩)], tiles := [(15, ⟨false, 0x7F800001⟩)] }
     let a : MmaArgs := ⟨15, 15, 1, 0⟩; let p := s.panel 15
     let new := mmaNew (fMat false) s.lanes p (s.tile 15) (s.mmaEntry a (s.fmtReg 0)); let rows := s.strand.cmp.vl.toNat / p.depth
     s.mmaOk a (fMat false) = true ∧ s.mmaLen a (fMat false) = true ∧ s.grantable (s.mmaEntry a (s.fmtReg 0)) = true ∧
     s.strand.cmp.fcsr = 0x3E0 ∧ rows = 1 ∧
     fcsrTraps 0x3E0
       ((List.range 1).foldl (fun (x : Flags) r => (List.range 256).foldl (fun (x : Flags) n => x.or (new r n).2) x) Flags.none) = true) := by
  refine ⟨⟨matrixGoes_of (by unfold matrixCalm; decide +kernel), by decide +kernel, by decide +kernel, by decide +kernel, by decide +kernel,
    traps_nv (foldl_nv _ _ _ (.inr ⟨0, List.mem_range.mpr (by decide), by decide +kernel⟩))⟩, by decide +kernel, by decide +kernel,
    by decide +kernel, by decide +kernel, by decide +kernel, ?_⟩
  rw [List.range_one, List.foldl_cons, List.foldl_nil]
  refine traps_nv (foldl_nv _ _ _ (.inr ⟨0, List.mem_range.mpr (by decide), ?_⟩))
  decide +kernel

/-- EngineCommands: an issue with room and at the limit, a command that passes its checks and one that fails them; a record to pop and none;
a command that has moved, and a copy in the scratchpad. -/
theorem test_hyp_EngineCommands :
    (let s := acc.setX 6 0xFFC0
     s.side = .access ∧ gangThere s s.strand.id ∧ (s.x 6).toNat % 64 = 0 ∧ (s.x 6).toNat + 64 ≤ 65536 ∧
     (s.gangOf s.strand.id).outstanding < 32 ∧ s.isDet s.strand.id.lid = false ∧ (issued s 0 (s.x 6)).failed.isSome = true ∧
     s.engWaits (issued s 0 (s.x 6)) = false ∧ (s.engine s.strand.id.cluster).settle.sysFirst = none ∧ (s.gangOf s.strand.id).records = []) ∧
    (let s := acc.mapGang acc.strand.id fun g => { g with outstanding := 32, records := [leBytes 32 7] }
     32 ≤ (s.gangOf s.strand.id).outstanding ∧ (s.x 6).toNat % 32 = 0 ∧ (s.x 6).toNat + 32 ≤ 65536 ∧
     (s.gangOf s.strand.id).records = leBytes 32 7 :: [] ∧ (leBytes 32 7).length = 32 ∧ s.delays.headD false = false ∧
     isFar (tcmKey s.strand.id.cluster s.strand.id.pair .access (s.x 6).toNat + 32) = false) ∧
    (let s := { cells acc (atKeys (tcmKey 0 0 .access 0) (copyCommand false).desc) with delays := [true] }
     (issued s 0 (s.x 6)).failed = none ∧ s.delays.headD false = true) ∧
    (let s := acc.setEngine ⟨0, 1, 0, [], 0, [copyCommand true], none⟩
     (s.engine 0).cmds.find? (fun x => x.seq == 1) = some (copyCommand true) ∧ (copyCommand true).owner.cluster = 0 ∧
     (copyCommand true).moved = true ∧ (engDesc (copyCommand true).desc).rel = false ∧ s.engWaits (copyCommand true) = false ∧ gangThere s (copyCommand true).owner) ∧
    (let s := acc.setEngine ⟨0, 1, 0, [], 0, [copyCommand false], none⟩
     (s.engine 0).cmds.find? (fun x => x.seq == 1) = some (copyCommand false) ∧ SpadCopy s (copyCommand false) .fp32) := by
  refine ⟨⟨by decide +kernel, by unfold gangThere; decide +kernel, by decide +kernel⟩, by decide +kernel, by decide +kernel,
    ⟨by decide +kernel, by decide +kernel, by decide +kernel, by decide +kernel, by decide +kernel, by unfold gangThere; decide +kernel⟩, by decide +kernel,
    ⟨by decide +kernel, by decide +kernel, by decide +kernel, by decide +kernel, by decide +kernel, by decide +kernel,
      by unfold gangThere; decide +kernel, by decide +kernel, by decide +kernel⟩⟩

namespace Sys2Proof.Tests

/-- At S after the TACK, with x6 at a save area whose eighteen pages the TLB maps onto themselves. -/
def area : State :=
  { supAck.setX 6 0x10000 with
    tlb := (List.range 18).map fun i => ⟨0x800, 1 + i, BitVec.ofNat 64 (0x3F + (1 + i) * 65536), 0⟩ }
/-- The same with a GEOM of 32 lanes and version 1 in memory. -/
def areaGeom : State := cells area [(0x10000, 32), (0x10003, 1)]

theorem areaMaps_area (s : State) (n : Need) (ht : s.tlb = area.tlb) (hp : s.strand.trap.ptbr = 0x800)
    (hn : n = .store ∨ n = .load) (hs : s.hub.seals = []) : AreaMaps s n 0x10000 0x10000 := by
  refine ⟨by decide, fun m o ho => ?_⟩
  obtain ⟨j, r, hj, hr, rfl⟩ : ∃ j r, j < 18 ∧ r < 65536 ∧ o = 65536 * j + r :=
    ⟨o / 65536, o % 65536, by omega, by omega, by omega⟩
  have hva : (BitVec.ofNat 64 (0x10000 + (65536 * j + r))).toNat = 65536 * (1 + j) + r := by
    rw [BitVec.toNat_ofNat]; omega
  have hq : (65536 * (1 + j) + r) / 65536 = 1 + j := by omega
  have hm : (65536 * (1 + j) + r) % 65536 = r := by omega
  have hlt : 65536 * (1 + j) + r < 2 ^ 56 := by omega
  have hfind : s.tlb.find? (fun t => t.ptbr == (0x800 : Word) && t.vpn == 1 + j) =
      some ⟨0x800, 1 + j, BitVec.ofNat 64 (0x3F + (1 + j) * 65536), 0⟩ := by
    rw [ht]; clear hva hq hm hlt ho; revert j; decide +kernel
  have hseal (k : Nat) : ({ s with mem := m } : State).sealedKey k = false := by simp [State.sealedKey, hs]
  have hleaf : ({ s with mem := m } : State).leafOf 0x800 (65536 * (1 + j) + r) = some (0x3F + (1 + j) * 65536, 0) := by
    simp only [State.leafOf, if_pos hlt, show (2 : Nat) ^ 16 = 65536 from rfl, hq, hfind, BitVec.toNat_ofNat]
    rw [Nat.mod_eq_of_lt (by omega)]
  have hkey : leafKey (0x3F + (1 + j) * 65536) 0 (65536 * (1 + j) + r) = some (65536 * (1 + j) + r) := by
    have h1 : pte (0x3F + (1 + j) * 65536) 16 36 = 1 + j := by simp only [pte, bits]; omega
    have h2 : pte (0x3F + (1 + j) * 65536) 8 2 = 0 := by simp only [pte, bits]; omega
    have h3 : 65536 * (1 + j) + r < Config.hbmBytes := by simp only [Config.hbmBytes]; omega
    have h4 : inSpill (65536 * (1 + j) + r) = false := by simp only [inSpill, decide_eq_false_iff_not]; omega
    simp only [leafKey, h1, h2, pageSize, show (2 : Nat) ^ 16 = 65536 from rfl, if_neg (by decide : ¬ (0 : Nat) = 2),
      if_neg (by decide : ¬ (0 : Nat) = 1), hm]
    rw [show (1 + j) * 65536 + r = 65536 * (1 + j) + r by omega]
    simp [localKey, h3, h4]
  have hr1 : pte (0x3F + (1 + j) * 65536) 1 1 = 1 := by simp only [pte, bits]; omega
  have hw1 : pte (0x3F + (1 + j) * 65536) 2 1 = 1 := by simp only [pte, bits]; omega
  have hs1 : pte (0x3F + (1 + j) * 65536) 7 1 = 0 := by simp only [pte, bits]; omega
  have hp1 : pte (0x3F + (1 + j) * 65536) 6 1 = 0 := by simp only [pte, bits]; omega
  rw [hp]
  simp only [State.translate, hva, hleaf, hkey, hseal, hr1, hw1, hs1, hp1]
  rcases hn with rfl | rfl <;> simp [Need.store, Need.load] <;> omega

theorem exists_some {α : Type} {o : Option α} (h : o.isSome = true) : ∃ a, o = some a := Option.isSome_iff_exists.mp h
/-- Is the result good? -/
def good {ε α : Type} (r : Except ε α) : Bool := match r with | .ok _ => true | .error _ => false
theorem exists_ok {ε α : Type} {r : Except ε α} (h : good r = true) : ∃ a, r = .ok a := by
  cases r with
  | ok a => exact ⟨a, rfl⟩
  | error e => cases h

/-- A range inside one page is one piece. -/
theorem pagePieces_one {a : Nat} {bs : List Byte} (h0 : bs ≠ []) (h : bs.length ≤ 65536 - a % 65536) (h1 : bs.length < 65536) :
    pagePieces a bs = [(a, bs)] := by
  have hd : bs.drop (65536 - a % 65536) = [] := List.drop_eq_nil_of_le h
  have ht : bs.take (65536 - a % 65536) = bs := List.take_of_length_le h
  have hr : List.range (bs.length / 65536 + 2) = [0, 1] := by rw [Nat.div_eq_of_lt h1]; rfl
  have hk : (bs.take (65536 - a % 65536 + 1 * 65536)).drop (65536 - a % 65536 + (1 - 1) * 65536) = [] :=
    List.drop_eq_nil_of_le (by simp; omega)
  have h2 : (bs.take (65536 - a % 65536 + 0 * 65536)).drop 0 = bs := by simp [List.take_of_length_le h]
  have he : bs.isEmpty = false := by cases bs with
    | nil => exact absurd rfl h0
    | cons => rfl
  rw [pagePieces, hr]
  simp only [List.filterMap_cons, List.filterMap_nil, if_pos, if_neg (by decide : ¬ (1 : Nat) = 0), h2, hk, he, List.isEmpty_nil]
  rfl

/-- Reading inside one page is good when its piece is. -/
theorem readArea_one {s : State} {die a n : Nat} {ptbr : Word} (h0 : n ≠ 0) (h : n ≤ 65536 - a % 65536) (h1 : n < 65536)
    (g : good (s.readPiece die ptbr a n) = true) : ∃ bs, s.readArea die ptbr a n = .ok bs := by
  obtain ⟨bs, hb⟩ := exists_ok g
  refine ⟨[] ++ bs, ?_⟩
  have hp := pagePieces_one (a := a) (bs := List.replicate n (0 : Byte)) (by simpa using h0) (by simpa using h) (by simpa using h1)
  simp only [State.readArea, hp, List.foldl_cons, List.foldl_nil, List.length_replicate, hb]

end Sys2Proof.Tests

/-- SaveAndRestoreOfAContext: at U; at S after the TACK with a misaligned address, and with an area that is mapped, with and without a GEOM
that suits. -/
theorem test_hyp_SaveAndRestoreOfAContext :
    (acc.side = .access ∧ acc.strand.trap.priv = false) ∧
    (let s := supAck.setX 6 0x10001; s.strand.trap.priv = true ∧ s.strand.trap.ack = true ∧ (s.x 6).toNat % 65536 ≠ 0) ∧
    (let u := area.settleOwn
     area.side = .access ∧ area.strand.trap.priv = true ∧ area.strand.trap.ack = true ∧ (area.x 6).toNat = 0x10000 ∧ u.MemoryCanonical ∧
     area.strand.trap.vabsent = false ∧ AreaFits area.strand ∧ AreaMaps u.countConflicts .store 0x10000 0x10000 ∧ area.strand.id.lanes = 32 ∧ u.bad = [] ∧
     AreaMaps u .load 0x10000 0x10000 ∧ ¬ GeomSuits u.mem 0x10000 32) ∧
    (let u := areaGeom.settleOwn
     u.MemoryCanonical ∧ AreaMaps u .load 0x10000 0x10000 ∧ GeomSuits u.mem 0x10000 areaGeom.strand.id.lanes) := by
  refine ⟨by decide +kernel, by decide +kernel, ⟨by decide +kernel, by decide +kernel, by decide +kernel, by decide +kernel, by unfold State.MemoryCanonical; decide +kernel, by decide +kernel,
    ⟨by decide +kernel, by decide +kernel, by decide +kernel⟩, areaMaps_area _ _ rfl rfl (.inl rfl) rfl, by decide +kernel, by decide +kernel,
    areaMaps_area _ _ rfl rfl (.inr rfl) rfl, ?_⟩, by unfold State.MemoryCanonical; decide +kernel, areaMaps_area _ _ rfl rfl (.inr rfl) rfl, ?_⟩
  · unfold GeomSuits; decide +kernel
  · unfold GeomSuits; decide +kernel

/-- PreemptionCommandsAndSwitchIn: a GO with a resident squad and without one, a busy hub, a parked launch with and without saved squads, an
ABORT, also behind a RESUME, a squad that may be saved, and a strand that is to be switched in. -/
theorem test_hyp_PreemptionCommandsAndSwitchIn :
    (let v : Word := 1; let l := acc.launchOf (BitVec.setWidth 32 v)
     v.getLsbD 33 = false ∧ v.getLsbD 34 = false ∧ acc.hub.busy = none ∧ acc.inFlight (BitVec.setWidth 32 v) = true ∧ l.parked = false ∧
     l.go = false ∧ l.resume = false ∧ (acc.launches.filter (·.parked)).length < 64 ∧
     (∀ x ∈ acc.launches, (x.parked = true ∨ x.go = true) →
        acc.hub.saveBase.toNat + 2 ^ 39 ≤ x.saveBase.toNat ∨ x.saveBase.toNat + 2 ^ 39 ≤ acc.hub.saveBase.toNat) ∧
     (∃ q ∈ acc.squads, q.lid = BitVec.setWidth 32 v ∧ q.index = acc.strand.id.squad) ∧ acc.strand.resident = true ∧
     acc.strand.id.lid = BitVec.setWidth 32 v ∧ acc.strand.completed = false ∧
     (∀ q ∈ ({ acc with squads := [] } : State).squads, q.lid ≠ 1) ∧ l.done < l.pkt.squads.toNat) ∧
    linkUp (linked acc).hub.link0 = true ∧ ¬ linkUp acc.hub.link0 = true ∧
    (let s := { acc with hub := { acc.hub with busy := some ⟨1, true, false⟩ } }; s.hub.busy ≠ none ∧ s.inFlight 1 = true) ∧
    (let s := acc.mapLaunch 1 fun l => { l with parked := true }
     (s.launchOf 1).parked = true ∧ (s.launchOf 1).saved = [] ∧
     ((acc.mapLaunch 1 fun l => { l with parked := true, saved := [⟨0, 0, 0, [], [], []⟩] }).launchOf 1).saved ≠ []) ∧
    (let s := { (acc.mapLaunch 1 fun l => { l with go := true }).mapTrap fun t => { t with parked := true } with
       gangs := [], tlb := [⟨0x800, 0x5000, 0x1003F, 0⟩] }
     acc.savable 1 0 = false ∧ s.savable 1 0 = true ∧ ∃ u, s.writeRegions (s.launchOf 1) loadSquad (loadSquad.slot.getD 0) = some u) ∧
    (let s := acc.mapTrap fun t => { t with loading := true }; let r := s.launchOf s.strand.id.lid
     let a := s.strand.trap.restaddr
     s.strand.resident = true ∧ s.strand.key = 0 ∧ s.strand.trap.loading = true ∧
     (∃ low, s.readArea s.strand.die r.ptbr a.toNat 4096 = .ok low) ∧ ∃ pay, s.readArea s.strand.die r.ptbr (a.toNat + 0x2000) 0x8000 = .ok pay) := by
  refine ⟨by decide +kernel, by decide +kernel, by decide +kernel, by decide +kernel, by decide +kernel,
    ⟨by decide +kernel, by decide +kernel, exists_some (by decide +kernel)⟩, by decide +kernel, by decide +kernel, by decide +kernel,
    readArea_one (by decide) (by decide) (by decide) (by decide +kernel), readArea_one (by decide) (by decide) (by decide) (by decide +kernel)⟩

namespace Sys2Proof.Tests

/-- A launch packet of one strand in one gang, with LID 2. -/
def packet2 : Packet :=
  { Packet.zero with entrya := 0x4000, entryc := 0x4000, ctl := 0x01000018, lid := 2, squads := 1, args := List.replicate 8 0 }
/-- The hub ready, with launch queue 3 at 0x9000, on, of 16 entries, its packet not checked. -/
def posted (cs : List (Nat × Byte)) (checked : Option Head) : State :=
  let s := cells acc cs
  { s with hub := { s.hub with ready := true, phase := 7, queues := [(3, ⟨0x9000, 4, 0, 1, 0x800, true, false, checked, [(1, 0)]⟩)] } }
/-- The bytes of `packet2` at 0x9000. -/
def packetCells : List (Nat × Byte) :=
  [(0x9001, 0x40), (0x9009, 0x40), (0x9018, 0x18), (0x901B, 1), (0x9020, 2), (0x902C, 1)]
/-- Launch 1 with all its squads complete and that completion address. -/
def ended (done : Word) : State :=
  acc.mapLaunch 1 fun l => { l with done := 1, pkt := { l.pkt with doneaddr := done } }

end Sys2Proof.Tests

/-- HostRegistersAndLaunches: tails at the edge of the queue and beyond it, sizes in and out of range, a packet that passes and one that does
not, a ready head, a squad placed on a free cluster, and launches that complete without, with and with a failing completion write. -/
theorem test_hyp_HostRegistersAndLaunches :
    (let l := acc.lq 0; let w (v : Word) : BitVec 32 := BitVec.setWidth 32 v
     (l.tail - l.head).toNat ≤ (w 1 - l.head).toNat ∧ (w 1 - l.head).toNat ≤ 2 ^ (l.size.toNat % 32) ∧
     2 ^ (l.size.toNat % 32) < (w 2 - l.head).toNat) ∧
    (4 ≤ (4 : Word).toNat % 32 ∧ (16 : Word).toNat % 32 ≤ 16 ∧ (5 : Word).toNat % 32 < 6 ∧ 20 < (21 : Word).toNat % 32 ∧
     6 ≤ (6 : Word).toNat % 32 ∧ (20 : Word).toNat % 32 ≤ 20 ∧ acc.hub.events.held = []) ∧
    (let s := posted packetCells none; let l := s.lq 3
     let p := parsePacket (s.mem.read (baseKey l.base + l.head.toNat % 2 ^ (l.size.toNat % 32) * 128) 128)
     s.takesLaunches = true ∧ l.en = true ∧ l.checked = none ∧ l.head ≠ l.tail ∧ p = packet2 ∧ s.packetCode p = none) ∧
    (let s := posted [] none; let l := s.lq 3
     let p := parsePacket (s.mem.read (baseKey l.base + l.head.toNat % 2 ^ (l.size.toNat % 32) * 128) 128)
     s.packetCode p = some 2 ∧ ∀ x ∈ s.hub.queues, x.2.checked = none) ∧
    (let s := posted packetCells (some ⟨packet2, 0⟩); s.takesLaunches = true ∧ s.readyHeads ≠ []) ∧
    (let s := posted [] none; let s := { s with launches := s.launches ++ [{ Launch.none with pkt := packet2, ptbr := 0x800 }] }
     let g : GangPlace := ⟨39, 0, [⟨7, 0⟩]⟩
     (2 : BitVec 32) ≠ 0 ∧ s.takesLaunches = true ∧ s.placesNext 2 = true ∧ s.placesFit (s.launchOf 2).pkt 0 [g] = true ∧
     (s.launchOf 2).saved = [] ∧ s.seatsFit (s.launchOf 2).pkt 39 g = true) ∧
    (let s := ended 0; let l := s.launchOf 1
     s.inFlight 1 = true ∧ l.parked = false ∧ l.pkt.squads.toNat ≤ l.done ∧ s.launchWaits 1 = false ∧ s.writesOnWay 1 = false ∧ l.ending = 0 ∧
     l.faulty = false ∧ (∀ x ∈ s.l2, x.dirty = 0) ∧ l.pkt.doneaddr = 0) ∧
    (let s := ended 0x3FFFFFF8; let l := s.launchOf 1
     l.pkt.doneaddr ≠ 0 ∧ l.pkt.doneaddr.toNat % 8 = 0 ∧ s.translate l.ptbr true .store l.pkt.doneaddr = .ok 0x3FFFFFF8 ∧
     isFar 0x3FFFFFF8 = false ∧ s.MemoryCanonical) ∧
    (let s := ended 0x40000000; let l := s.launchOf 1
     l.pkt.doneaddr ≠ 0 ∧ s.translate l.ptbr true .store l.pkt.doneaddr = .error 0x06) := by
  refine ⟨by decide +kernel, by decide +kernel, by decide +kernel, by decide +kernel, by decide +kernel, by decide +kernel, by decide +kernel,
    ⟨by decide +kernel, by decide +kernel, ok_of (by decide +kernel), by decide +kernel, by unfold State.MemoryCanonical; decide⟩, by decide +kernel, err_of (by decide +kernel)⟩

namespace Sys2Proof.Tests

/-- A strand with one entry in its matrix queue. -/
def withMq (ins : Instr) (granted : Bool) : State := acc.mapQ fun q => { q with mq := [⟨ins, 0x4411, 0, 0, 0, granted, 0, 0, 0, 0, none⟩] }
/-- A strand with one entry at the head of its vector instruction queue. -/
def withViq (ins : Instr) : State := acc.mapQ fun q => { q with viq := [⟨ins, 0, 0, 0x4000, none, true, 0, 0, false⟩] }
/-- A VWAIT without scope of v1 and v2. -/
def vwaitArgs : VWaitArgs := ⟨none, .none, 0, 1, 2, 6⟩
/-- It waits at the head of the vector instruction queue, with that timeout. -/
def vwaiting (timeout : Word) : State :=
  let s := (cmp.mapCmp fun c => { c with legal := true, width := 4, vl := 1 }).mapQ fun q => { q with
    viq := [⟨.vwait vwaitArgs, timeout, 0, 0x4000, none, false, 0, 0, false⟩], headStall := some .vwait }
  { setV s 1 64 0 0x8000 with side := .access }
/-- A slice waiting for space at an AMOFADD.DET of x6. -/
def detWaiting (side : Side) : State :=
  let s := State.reset.withFetchWord 32 0x4000C03D
  if side = .access then s.mapAcc fun c => { c with stall := some .detSpace } else s.mapCmp fun c => { c with stall := some .detSpace }

end Sys2Proof.Tests

/-- UnitEvents: matrix entries granted and not granted, markers at the head of the queue, an arrived slot, slices that wait for each other,
a stopped access slice, a pre-emption that is ready, a VWAIT that waits with a timeout and without, and AMOFADD.DET on either slice. -/
theorem test_hyp_UnitEvents :
    inFocus acc 0 ∧
    (let s := withMq (.mzero 15 0) false
     inFocus s 0 ∧ s.strand.q.mq = ⟨.mzero 15 0, 0x4411, 0, 0, 0, false, 0, 0, 0, 0, none⟩ :: [] ∧ s.grantable ⟨.mzero 15 0, 0x4411, 0, 0, 0, false, 0, 0, 0, 0, none⟩ = true) ∧
    (let s := withMq (.mzero 15 0) true
     isSyncMatrix (.mzero 15 0) = false ∧ isSyncMatrix (.mst ⟨11, 6, 29, 5⟩) = true ∧
     (withMq (.mst ⟨11, 6, 29, 5⟩) false).strand.q.mq = ⟨.mst ⟨11, 6, 29, 5⟩, 0x4411, 0, 0, 0, false, 0, 0, 0, 0, none⟩ :: [] ∧
     s.strand.q.mq = ⟨.mzero 15 0, 0x4411, 0, 0, 0, true, 0, 0, 0, 0, none⟩ :: [] ∧ (fmtParse 0x4411).isSome = true ∧ gangThere s s.strand.id) ∧
    ((withViq (.barSyncSq 63)).strand.q.viq = ⟨.barSyncSq 63, 0, 0, 0x4000, none, true, 0, 0, false⟩ :: [] ∧
     (withViq .convoy).strand.q.viq = ⟨.convoy, 0, 0, 0x4000, none, true, 0, 0, false⟩ :: []) ∧
    (let e : QSlot := ⟨1, 3, false, true, 1, 0, 0⟩; let s := acc.mapQ fun q => { q with ldq := [⟨1, 3, false, false, 0, 0, 0⟩, e] }
     s.strand.q.ldq[1]? = some e ∧ e.arrived = true ∧ e.full = false ∧
     (∀ m < 1, ∀ x, s.strand.q.ldq[m]? = some x → x.arrived = true → x.full = true)) ∧
    (let s := (acc.mapAcc fun c => { c with stall := some .cqEmpty }).mapCmp fun c => { c with stall := some .aqEmpty }
     AtPeace s ∧ (s.strand.acc.stall = some .cqEmpty ∧ s.strand.q.cq = []) ∧ (s.strand.cmp.stall = some .aqEmpty ∧ s.strand.q.aq = []) ∧
     s.strand.acc.halted = false) ∧
    (let s := (acc.mapAcc fun c => { c with halted := true }).mapCmp fun c => { c with stall := some .popUnreserved }
     AtPeace s ∧ s.strand.acc.halted = true ∧ (s.strand.cmp.stall = some .popUnreserved ∧ s.strand.q.ldq = []) ∧
     s.strand.cmp.halted = false) ∧
    (acc.strand.cmp.stall = none ∧ acc.strand.cmp.halted = false) ∧
    (let s := acc.mapTrap fun t => { t with accStop := some ⟨5, 0x40000000⟩ }
     s.strand.trap.accStop = some ⟨5, 0x40000000⟩ ∧ s.strand.trap.dead = false ∧ s.strand.cmp.waitReq = none ∧ s.strand.q.matrixBegun = false ∧
     s.computeStopped = false ∧
     (s.mapCmp fun c => { c with halted := true }).computeStopped = true) ∧
    (acc.mapTrap fun t => { t with preempt := true }).preemptReady = true ∧
    (let cannot (s : State) : Bool := s.strand.trap.dead || s.strand.trap.parked || s.strand.trap.loading || s.strand.completed || s.strand.q.matrixBegun
     cannot acc = false ∧ acc.strand.trap.priv = false ∧ cannot (acc.mapTrap fun t => { t with dead := true }) = true) ∧
    (∀ timeout, (vwaiting timeout).strand.q.viq = ⟨.vwait vwaitArgs, timeout, 0, 0x4000, none, false, 0, 0, false⟩ :: []) ∧
    (let s := vwaiting 7
     s.strand.q.headStall = some .vwait ∧
     s.strand.q.headReq = none ∧ s.strand.q.headReply = none ∧ s.viqFrozen = false ∧ s.isDet s.strand.id.lid = false ∧
     s.strand.cmp.vl.toNat ≤ 4096) ∧ ((7 : Word) ≠ 0 ∧ (7 : Word) ≠ BitVec.allOnes 64) ∧
    (let s := vwaiting 7; let v : State := { s with side := .compute }
     let on (i : Nat) : Bool := decide (i < s.strand.cmp.vl.toNat) && s.governs .none i
     let u := beforeVector v (((List.range s.strand.cmp.vl.toNat).filter on).flatMap fun _ => memSlices s.strand.die 0x8000 8) .r
     (∀ i, on i = true → s.vget 1 64 i % 8 = 0 ∧ isFar (0x8000 + 7) = false ∧
       v.locate .global .load (BitVec.ofNat 64 (s.vget 1 64 i)) = .ok 0x8000) ∧
     (∀ i, (on i && u.mem.readNat 0x8000 8 != s.vget 2 64 i) = false) ∧
     ∃ i, (on i && u.mem.readNat 0x8000 8 != s.vget 1 64 i) = true) ∧
    (let s := detWaiting .compute
     s.strand.acc.stall ≠ some .detSpace ∧ s.strand.cmp.stall = some .detSpace ∧ s.strand.trap.held = false ∧ s.strand.trap.accStop = none ∧
     s.strand.acc.waitReq = none ∧ s.atPc .compute = some (.amofaddDet ⟨.global, .w, 6, 0⟩)) ∧
    (let s := detWaiting .access
     s.strand.acc.stall = some .detSpace ∧ s.strand.trap.priv = false ∧ s.strand.cmp.stall = none ∧ s.atPc .access = some (.amofaddDet ⟨.global, .w, 6, 0⟩)) := by
  refine ⟨by unfold inFocus; decide +kernel, ⟨by unfold inFocus; decide +kernel, by decide +kernel, by decide +kernel⟩, ⟨by decide, by decide, by decide +kernel, by decide +kernel, by decide +kernel, by unfold gangThere; decide⟩,
    by decide +kernel, ⟨by decide +kernel, by decide +kernel, by decide +kernel, ?_⟩, ⟨⟨by decide +kernel, by decide +kernel, by decide +kernel⟩, by decide +kernel⟩, ⟨⟨by decide +kernel, by decide +kernel, by decide +kernel⟩, by decide +kernel⟩,
    by decide +kernel, by decide +kernel, by decide +kernel, by decide +kernel, fun _ => rfl, by decide +kernel, by decide, ⟨?_, ?_, 0, by decide +kernel⟩,
    by decide +kernel, by decide +kernel⟩
  · intro m hm x hx h
    obtain rfl : m = 0 := by omega
    obtain rfl := Option.some.inj hx
    cases h
  · intro i h
    have : i = 0 := Nat.lt_one_iff.mp (of_decide_eq_true (Bool.and_eq_true_iff.mp h).1)
    subst this
    exact ⟨by decide +kernel, by decide +kernel, ok_of (by decide +kernel)⟩
  · intro i
    match i with
    | 0 => decide +kernel
    | n + 1 => rw [Bool.and_eq_false_iff, Bool.and_eq_false_iff]; exact .inl (.inl (decide_eq_false (by show ¬ n + 1 < 1; omega)))

/-- A state with DET = 1 in which the line of 0x8000 is in fall-back with a tag, and one access waits. -/
def Sys2Proof.Tests.fallen (tag : Nat) (x : Access) : State :=
  let s := det acc
  { s with det := { s.det with fallback := [⟨s.strand.id.lid, s.strand.id.squad, lineOf 0x8000, s.strand.die, [(0x8004 / 8, tag)]⟩] }, strand := { s.strand with stores := [x] } }

/-- RequestsAndMemorySlices: a line in fall-back with a higher tag; a waiting store, a scalar load, an atomic and an element of a vector load, each behind an access of the partner; a dirty
copy of a host line and a clean one; a fill, and an access slice that waits for a good and a bad completion; and a completion that nothing
waits for. -/
theorem test_hyp_RequestsAndMemorySlices :
    (∀ st ∈ [(⟨.access, .scalar, [5], 1, 0, .w, false, .none, none, atKeys 0x8000 [7, 8], [], [], none⟩ : Access),
        ⟨.access, .scalar, [5], 1, 0, .r, false, .none, none, [], [], [⟨0x8000, ldBytes .w, .reg .access false 5 .w⟩], none⟩,
        ⟨.access, .scalar, [5], 1, 0, .rw, false, .none, none, [], [], [⟨0x8000, atBytes .d, .reg .access false 5 .d⟩],
          some ⟨.swp, .d, .rne, 0x8000, 7, 0⟩⟩,
        ⟨.access, .vector, [5], 1, 0, .r, false, .none, none, [], [], [⟨0x8000, 32 / 8, .slot (0 + BitVec.ofNat 3 0) 1 32 false⟩], none⟩],
     let before : Access := ⟨.compute, .scalar, [5], 0, 0, .w, false, .none, none, [(0x8000, 9)], [], [], none⟩
     let e : QSlot := ⟨2, 3, false, true, 0, 0, 0⟩
     let s := { acc with strand := { acc.strand with stores := [before, st] } }.mapQ fun q => { q with ldq := [e] }
     (s.strand.resident = true ∧ s.strand.key = 0) ∧ s.strand.stores[1]? = some st ∧
     before.side ≠ st.side ∧ ¬ (before.num < st.after) ∧ before.acq ≠ .strand ∧ isFar (0x8000 + 7) = false ∧ 32 ∈ [8, 16, 32, 64] ∧ s.strand.q.ldqHead = 0 ∧
     s.strand.q.ldq.length ≤ 8 ∧ s.strand.q.ldq[0]? = some e ∧ 1 * 32 + 32 ≤ 16384) ∧
    (let l : L2Line := ⟨0, hostKey 0x40, true, 0, 0x8000000000000001, 0⟩; let s := { acc with l2 := [l, { l with dirty := 0, line := hostKey 0 }] }
     s.l2[0]? = some l ∧ l.dirty ≠ 0 ∧ isRemote l.line = false ∧ s.backInFlight l.die l.line = false ∧
     (∀ m, s.l2[1]? = some m → m.dirty = 0 ∧ m.line % 64 = 0 ∧ s.backInFlight m.die m.line = false)) ∧
    (let st : Access := ⟨.access, .scalar, [5], 1, 0, .w, false, .none, none, atKeys 0x8004 [7, 8], [], [], none⟩
     let s := fallen 9 st
     (s.strand.resident = true ∧ s.strand.key = 0) ∧ s.strand.stores[0]? = some st ∧ 0x8004 % 8 + 2 ≤ 8 ∧ s.isDet s.strand.id.lid = true ∧
     (s.det.tagsOf (lineOf 0x8004) s.strand.die).isSome = true ∧
     (s.det.tagsOf (lineOf 0x8004) s.strand.die).bind (fun f => f.tags.lookup (0x8004 / 8)) = some 9 ∧ s.strand.id.detid < 9) ∧
    (let r (fill : Bool) : Request := ⟨9, .slice 0 .access, hostKey 0, fill, false, 0, 0, 0, 0, false, [], 0, 0, none, []⟩
     let s (fill : Bool) : State := { acc.mapAcc fun c => { c with waitReq := some 9 } with reqs := [r fill] }
     (s true).reqs.find? (fun x => x.id == 9 && !x.remote) = some (r true) ∧ (r true).fill = true ∧
     (s false).reqs.find? (fun x => x.id == 9 && !x.remote) = some (r false) ∧ inFocus (s false) 0 ∧
     (s false).strand.acc.waitReq = some (r false).id ∧ (r false).fill = false ∧ (r false).mask = 0 ∧ (s false).strand.acc.reply = none ∧
     (s false).det.due = [] ∧ (∀ l ∈ (s false).launches, l.atSystem = true → l.triggered = true) ∧ (s false).others = []) ∧
    (let r (stale : Bool) : Request := ⟨9, .slice 0 .access, hostKey 0, true, stale, 0, 0, 0, 0, false, [], 0, 0, none, []⟩
     let s (stale : Bool) : State := { acc with reqs := [r stale] }
     ∀ stale, (s stale).reqs.find? (fun x => x.id == 9 && !x.remote) = some (r stale) ∧ (r stale).fill = true ∧ (r stale).stale = stale ∧
       (s stale).det.due = []) ∧
    acc.reqs.find? (fun x => x.id == 9 && !x.remote) = none := by
  refine ⟨by decide +kernel, by decide +kernel, by decide +kernel,
    ⟨by decide +kernel, by decide, by decide +kernel, by unfold inFocus; decide +kernel, by decide +kernel⟩, fun b => by cases b <;> decide +kernel, by decide +kernel⟩

/-- DeviceErrorsPowerAndGrants: temperatures of 125, 115, 105, 99 and 100 °C on a die, lowered grants and full ones, and the last bytes of both
tiers. -/
theorem test_hyp_DeviceErrorsPowerAndGrants :
    (Instr.deviceFatal .watchdog, acc.hub.warm || acc.hub.auto) ∈ [(Instr.hubWatchdogExpiry, acc.hub.warm || acc.hub.auto),
        (.deviceFatal .thermal, acc.hub.warm || acc.hub.auto), (.deviceFatal .ucie, acc.hub.warm || acc.hub.auto),
        (.deviceFatal .internalState, acc.hub.warm || acc.hub.auto), (.deviceFatal .watchdog, acc.hub.warm || acc.hub.auto)] ∧
    (125 ≤ 125 ∧ 115 ≤ 115 ∧ 115 < 125 ∧ 114 < 115) ∧
    (∃ d, 105 ≤ (acc.power.celsius.set 4 105).get d) ∧ (∀ d, (acc.power.celsius.set 4 99).get d < 100) ∧
    ((∀ d, (acc.power.celsius.set 4 100).get d < 105) ∧ ∃ d, 100 ≤ (acc.power.celsius.set 4 100).get d) ∧
    (acc.power.thermalLanes = 32 ∧ acc.power.thermalRate = 16 ∧ { acc.power with thermalRate := 15 }.thermalRate ≠ 16) ∧
    localKey .hbm (Config.hbmBytes - 2 ^ 30 - 1) = some (Config.hbmBytes - 2 ^ 30 - 1) ∧
    localKey .lpddr (Config.lpddrBytes - 1) = some (lpddrKey (Config.lpddrBytes - 1)) ∧ acc.isBad 0 = false := by
  refine ⟨.tail _ (.tail _ (.tail _ (.tail _ (.head _)))), by decide, ⟨4, by decide⟩, by decide, ⟨by decide, ⟨4, by decide⟩⟩, by decide,
    by decide, by decide, by decide⟩

/-- What a start meets: everything good, but for two faulty lanes of cluster 0. -/
def Sys2Proof.Tests.goodStart : StartInputs :=
  { celsius := Vector.replicate 5 40, fuseOk := true, fuses := [⟨0, 5, true⟩], badImages := [], link0 := 1, link1 := 2, memFail := none
    lit := Vector.replicate 128 0xFFFF, trims := 7, trimsRead := 7, fabric := none, clearOk := true }

/-- A hub that a warm start is due on, with a pending image and saved trims. -/
def Sys2Proof.Tests.dueStart (keep : Bool) : State :=
  { acc with hub := { acc.hub with
      warm := true, keep := keep, link0 := 1, pending := some 1
      trims := some ⟨Config.sm3 (leBytes 32 (7 : BitVec 256).toNat), acc.power.celsius⟩ } }

/-- StartupManagementAndHostAccess: with and without coolant and fuses, each firmware case, link and memory case, a warm start that is due with
and without KEEP and valid trims, and host accesses to a page that is sealed and to one that is not. -/
theorem test_hyp_StartupManagementAndHostAccess :
    (let off := { acc with power := { acc.power with coolant := false } }; let i := goodStart
     acc.power.coolant = true ∧ off.power.coolant = false ∧ i.fuseOk = true ∧ { i with fuseOk := false }.fuseOk = false ∧
     (∀ d, i.celsius.get d < 115) ∧
     (let h (n : Nat) : StartInputs := { i with celsius := i.celsius.set 4 n }
      (∃ d, 125 ≤ (h 125).celsius.get d) ∧ (∀ d, (h 124).celsius.get d < 125) ∧ ∃ d, 115 ≤ (h 124).celsius.get d)) ∧
    (let i := goodStart; let s := dueStart true; let newest := s.hub.pending.getD s.hub.image; let good := s.hub.goodImage
     newest ∉ i.badImages ∧ ¬ newest ∉ [(1 : BitVec 256)] ∧ good ∉ [(1 : BitVec 256)] ∧ ¬ good ∉ [(0 : BitVec 256), 1] ∧
     ¬ newest ∉ [(0 : BitVec 256), 1] ∧ (i.link0 = 1 ∨ i.link0 = 2) ∧ i.memFail = none ∧
     { i with memFail := some 3 }.memFail = some 3 ∧ ¬ ((0 : BitVec 4) = 1 ∨ (0 : BitVec 4) = 2) ∧ i.fabric = none ∧ i.clearOk = true) ∧
    (linkUp (linked acc).hub.link0 = true ∧ ¬ linkUp acc.hub.link0 = true) ∧ acc.hub.warm = false ∧
    (∀ keep, (dueStart keep).hub.warm = true ∧ ((dueStart keep).hub.link0 = 1 ∨ (dueStart keep).hub.link0 = 2) ∧
      (dueStart keep).hub.keep = keep ∧ (dueStart keep).trimsValid goodStart.trimsRead = true) ∧
    acc.trimsValid goodStart.trimsRead = false ∧
    (let s := { acc with hub := { acc.hub with link0 := 1, link1 := 2, seals := [⟨0x10000, 0x10000, [0x10000], 0⟩] } }
     (if (0 : Fin 2).val = 0 then linkUp s.hub.link0 else linkUp s.hub.link1) = true ∧
     (if (1 : Fin 2).val = 0 then linkUp s.hub.link0 else linkUp s.hub.link1) = true ∧ bar2Key .hbm 0x20000 2 = some 0x20000 ∧
     s.MemoryCanonical ∧ (∀ j < 2, s.sealedKey (0x20000 + j) = false) ∧ bar2Key .hbm 0x1FFFF 1 = some 0x1FFFF ∧
     ([some 7] : List (Option Byte))[0]? = some (some 7) ∧ s.sealedKey (0x1FFFF + 0) = true) := by
  refine ⟨⟨by decide, by decide, by decide, by decide, by decide, ⟨4, by decide⟩, by decide, ⟨4, by decide⟩⟩, by decide +kernel, by decide, by decide,
    fun keep => ⟨rfl, .inl rfl, rfl, ?_⟩, by decide, by decide, by decide, by decide,
    by unfold State.MemoryCanonical; decide, by decide⟩
  simp only [State.trimsValid, dueStart, goodStart, Bool.and_eq_true, beq_iff_eq, true_and]
  cases keep <;> decide +kernel

namespace Sys2Proof.Tests

/-- A domain of two packages, this one 0, with port 5 given to package 1 in the one turn, in state `x`. -/
def domain (x : Port) : State :=
  { acc with fab := { acc.fab with d := 2, en := true, cal := [(5, 0x8001)], ports := [(5, x)] } }
/-- An enabled, locked port with all wavelengths, in its window with its locked partner. -/
def openPort : Port :=
  { Port.reset with en := true, lock := true, started := true, window := true, actmask := 0xFFFF, partner := some 1, partnerLocked := true }
/-- A flit of a type with that class for this package, from package 1, without its CRC. -/
def bare (typ : BitVec 8) (cls : BitVec 8) (len : BitVec 16) (opx : BitVec 32) (payload : List Byte) : Flit :=
  ⟨typ, cls, 1, 0, len, 0, 0, 0x20000, opx, payload, 0⟩
/-- The same with its CRC. -/
def flit1 (typ : BitVec 8) (cls : BitVec 8) (len : BitVec 16) (opx : BitVec 32) (payload : List Byte) : Flit :=
  Flit.sealed (bare typ cls len opx payload)
/-- The same with a CRC of which no bit is right. -/
def spoiled (f : Flit) : Flit := { f with crc := ~~~ Flit.crcOf f }
/-- A turn-start flit of package 1, without its CRC. -/
def turn1 : TurnFlit := ⟨true, 1, 0, 5, 0xFFFF, [], 0⟩
/-- One with a CRC of which no bit is right. -/
def spoiledTurn (f : TurnFlit) : TurnFlit := { f with crc := ~~~ TurnFlit.crcOf f }

theorem not_self (x : BitVec 32) : ~~~ x ≠ x := fun h => by simpa using congrArg (·.getLsbD 0) h
theorem spoiled_bad (f : Flit) : (spoiled f).crc ≠ Flit.crcOf (spoiled f) := by
  have h := flit_crcOf_crc f (~~~ Flit.crcOf f)
  unfold spoiled
  rw [h]
  generalize Flit.crcOf f = x
  exact not_self x
theorem spoiledTurn_bad (f : TurnFlit) : (spoiledTurn f).crc ≠ TurnFlit.crcOf (spoiledTurn f) := by
  have h := turnFlit_crcOf_crc f (~~~ TurnFlit.crcOf f)
  unfold spoiledTurn
  rw [h]
  generalize TurnFlit.crcOf f = x
  exact not_self x
/-- The fields of a flit have listed values, its CRC apart. -/
def fieldsFit (f : Flit) : Bool :=
  f.flags.toNat / 16 == 0 && f.src.toNat < 1024 && f.dst.toNat < 1024 && f.len.toNat ≤ 256 && f.addr.toNat < 2 ^ 52
    && typeFits f.typ.toNat (Flit.cls f) && (Flit.cls f != 2 || f.seq == 0) && (f.typ != 0x02 || f.opx == 64 || f.opx == 256)
theorem fits_eq (f : Flit) : Flit.fits f = (f.crc == Flit.crcOf f && fieldsFit f) := by simp only [Flit.fits, fieldsFit, Bool.and_assoc]
theorem fits_sealed {f : Flit} (h : fieldsFit f = true) : Flit.fits (Flit.sealed f) = true := by
  rw [fits_eq, flit_crc_sealed, beq_self_eq_true, Bool.true_and]; exact h
theorem fits_not {f : Flit} (h : fieldsFit f = false) : Flit.fits f = false := by rw [fits_eq, h, Bool.and_false]

end Sys2Proof.Tests

/-- PortsAndTurns: FABCFG with EN = 1 and another D, and with EN = 0; aligned and misaligned calendar accesses on an enabled and a free column; a
port disabled, enabled, locked and acquiring; a partner's turn-start flit, good and bad; four idle turns; a relay flit and a queued flit
for the partner; a window with an acknowledged flit, and with one that is not; new darkness in a window. -/
theorem test_hyp_PortsAndTurns :
    (linkUp (linked acc).hub.link0 = true ∧ ¬ linkUp acc.hub.link0 = true) ∧
    (let v : Word := 0x1_0000_0400; let s := domain openPort
     s.fab.en = true ∧ ¬ ((v.extractLsb' 0 10 : BitVec 10) = s.fab.self ∧ v.toNat / 2 ^ 10 % 2 ^ 11 = s.fab.d) ∧ v.getLsbD 32 = true ∧
     acc.fab.en = false ∧ (0 : Word).getLsbD 32 = false ∧ (s.port 5).en = true) ∧
    (¬ (((3 : Fin 9).val = 2 ∨ (3 : Fin 9).val = 4 ∨ (3 : Fin 9).val = 8) ∧ (8 : Fin 2048).val % (3 : Fin 9).val = 0) ∧
     ((8 : Fin 9).val = 8 ∧ (2040 : Fin 2048).val % 8 = 0) ∧ ((domain openPort).port 5).en = true ∧ ((domain openPort).port 6).en = false ∧
     ((0x80 : BitVec 8).getLsbD (2 * 3) || (0x80 : BitVec 8).getLsbD (2 * 3 + 1)) = true ∧
     ((0x80 : BitVec 8).getLsbD (2 * 0) || (0x80 : BitVec 8).getLsbD (2 * 0 + 1)) = false) ∧
    (let s := domain openPort; let x := s.port 5
     x.en = true ∧ (acc.port 5).en = false ∧ (x.en && s.fab.en && !s.hub.fatal) = true ∧
     ((acc.port 5).en && acc.fab.en && !acc.hub.fatal) = false ∧ x.lock = true ∧ x.sent = [] ∧ x.rearm = false ∧
     s.calPartner 5 = some turn1.sender.toNat ∧ s.calPartner 6 = none) ∧
    ((spoiledTurn turn1).crc ≠ TurnFlit.crcOf (spoiledTurn turn1) ∧ (TurnFlit.sealed turn1).crc = TurnFlit.crcOf (TurnFlit.sealed turn1) ∧
     (TurnFlit.sealed turn1).sender = turn1.sender) ∧
    (let s := domain { openPort with lock := false, seen := some 0 }; let x := s.port 5
     x.lock = false ∧ (domain { x with partner := none }).port 5 = { x with partner := none } ∧ x.seen = some 0 ∧ (0 + 1) % s.fab.turns = 0 ∧ s.fab.columnOk 5 = true ∧ (0, turn1.sender.toNat) ∈ s.fab.column 5) ∧
    (let x := (domain { openPort with idle := 4 }).port 5; x.lock = true ∧ 4 ≤ x.idle ∧ x.window = true ∧ { x with window := false }.window = false ∧ x.actmask ≠ 0 ∧ ((domain openPort).port 5).idle < 4) ∧
    (let f : GateFlit := ⟨{ bare 1 4 8 0 [1] with dst := 1 }, 0, none, 0⟩; let s := domain openPort
     let t := { s with fab := { s.fab with custody := [f] } }; let g : GateFlit := ⟨{ f.flit with src := 0, flags := 0 }, 3, none, 0⟩
     let u := { s with fab := { s.fab with gate := [g] } }
     t.maySend 5 = true ∧ (t.port 5).partner = some 1 ∧ t.fab.custody = f :: [] ∧ f.flit.dst = 1 ∧
     u.maySend 5 = true ∧ u.fab.custody = [] ∧ u.fab.gate = g :: [] ∧ u.duePacks = [] ∧ g.cls = 3 ∧ g.flit.dst = 1 ∧ u.mayLeave 5 g = true) ∧
    (let i : SentFlit := ⟨0, ⟨bare 1 0 8 0 [1], 3, none, 0⟩, false⟩; let x := { openPort with sent := [i] }
     (∀ k ∈ x.sent, k.failed = false ∧ [true].getD k.slot false = true) ∧ x.sent = [i] ∧ ([] : List Bool).getD i.slot false = false ∧
     i.item.cls ≠ 0 ∧ { i.item with cls := 0 }.cls = 0 ∧ i.item.port = none ∧ { i.item with port := some 5 }.port ≠ none) ∧
    (let s := domain openPort; let x := s.port 5; (1 : BitVec 16) &&& ~~~ x.lost ≠ 0 ∧ x.window = true) := by
  refine ⟨by decide, by decide +kernel, by decide +kernel, by decide +kernel, ⟨spoiledTurn_bad _, turnFlit_crc_sealed _, rfl⟩, by decide +kernel, by decide +kernel, by decide +kernel,
    by decide +kernel, by decide +kernel⟩

theorem Sys2Proof.Tests.received_of {s : State} {p : Fin 128} {f : Flit} {typ : BitVec 8}
    (h : s.receives p.val = true ∧ fieldsFit f = true ∧ f.typ = typ ∧ f.dst.toNat = s.fab.self.toNat) : Received s p (Flit.sealed f) typ :=
  ⟨h.1, fits_sealed h.2.1, h.2.2.1, h.2.2.2⟩
theorem Sys2Proof.Tests.nextOrdered_of {s : State} {p : Fin 128} {f : Flit} {typ : BitVec 8}
    (h : s.receives p.val = true ∧ fieldsFit f = true ∧ f.typ = typ ∧ f.dst.toNat = s.fab.self.toNat)
    (g : f.flags.toNat % 4 = 0 ∧ f.seq = (s.peer f.src).nexto ∧ (s.peer f.src).window = []) : NextOrdered s p (Flit.sealed f) typ :=
  ⟨received_of h, g.1, g.2.1, g.2.2⟩

/-- FlitsAndAcknowledgements: flits whose CRC or whose length does not fit, and one for another package; ORDERED and FREE writes of 256 bytes to a mapped page, and one
beyond the window; a read, an atomic and a vector request of this package's memory; replies to the one request; a RELMARK; a PACK; the
ends of time of a request and of a relayed flit. -/
theorem test_hyp_FlitsAndAcknowledgements :
    (let s := domain openPort
     Flit.fits (flit1 1 0 257 0 []) = false ∧ (spoiled (bare 1 0 8 0 [])).crc ≠ Flit.crcOf (spoiled (bare 1 0 8 0 [])) ∧ s.receives 5 = true ∧
     (let f := Flit.sealed { bare 1 4 8 0 [] with dst := 1 }; Flit.fits f = true ∧ f.typ = 1 ∧ f.dst.toNat ≠ s.fab.self.toNat ∧ f.flags.getLsbD 2 = true)) ∧
    (let s := domain openPort; let f := flit1 1 0 256 0 []; let g := flit1 1 1 256 0 []
     homeKey f.addr.toNat 256 = some 0x20000 ∧ s.sealedAt 0x20000 256 = false ∧ s.badMerge 0x20000 256 = false ∧ NextOrdered s 5 f 1 ∧
     Received s 5 g 1 ∧ g.flags.toNat % 4 = 1 ∧ g.seq = (s.peer g.src).lowf ∧ (s.peer g.src).freeDone = [] ∧ (s.peer g.src).window = []) ∧
    (let s := domain openPort; let f := Flit.sealed { bare 1 0 8 0 [] with seq := 4096 }
     Received s 5 f 1 ∧ f.flags.toNat % 4 = 0 ∧ 4096 ≤ (f.seq - (s.peer f.src).nexto).toNat) ∧
    (let s := domain openPort; let f := flit1 2 0 0 256 []
     NextOrdered s 5 f 2 ∧ homeKey f.addr.toNat f.opx.toNat = some 0x20000 ∧ s.badRead 0x20000 f.opx.toNat = false ∧ s.MemoryCanonical) ∧
    (let s := domain openPort; let f := flit1 4 0 16 0x10 (leBytes 16 7)
     NextOrdered s 5 f 4 ∧ Flit.atomicOp f = some (.add, .d, .rne) ∧ homeKey f.addr.toNat (atBytes .d) = some 0x20000 ∧
     0x20000 % atBytes .d = 0 ∧ s.sealedAt 0x20000 (atBytes .d) = false ∧ s.badRead 0x20000 (atBytes .d) = false ∧
     2 * atBytes .d ≤ f.len.toNat) ∧
    (let s := domain openPort; let f := flit1 6 0 32 32 (leBytes 8 (2 ^ 32 + 4 * 2 ^ 8) ++ leBytes 8 0x20000 ++ leBytes 8 0 ++ leBytes 8 1)
     NextOrdered s 5 f 6 ∧ (s.peer f.src).vec = [] ∧ f.opx.toNat = f.len.toNat ∧ f.len.toNat = 32 ∧
     leNat (f.payload.take 8) = 2 ^ 32 + 4 * 2 ^ 8 ∧ leNat ((f.payload.drop 8).take 8) = 0x20000 ∧ leNat (f.payload.drop 24) = 1 ∧
     f.payload.length = 32 ∧
     homeKey 0x20000 8 = some 0x20000 ∧ s.badRead 0x20000 8 = false) ∧
    (let r : Request := ⟨9, .slice 0 .access, remoteKey 1 0, false, false, 0, 1, 0, 3, true, [], 0, 0, none, [(0, 3, 1)]⟩
     let s := { (domain openPort).mapAcc fun c => { c with waitReq := some 9 } with reqs := [r] }
     let f (typ : BitVec 8) : Flit := Flit.sealed { bare typ 0 8 8 (leBytes 8 5) with mark := 3 }
     let n : Flit := flit1 10 2 8 0 (leBytes 4 3 ++ leBytes 1 0 ++ [0] ++ leBytes 2 1)
     s.reqs = [r] ∧ r.remote = true ∧ r.dst = (f 3).src ∧ r.cls = 0 ∧ r.seq = (f 3).mark ∧ r.mask = 0 ∧ r.fill = false ∧ inFocus s 0 ∧
     s.strand.acc.waitReq = some r.id ∧ s.others = [] ∧ s.strand.acc.reply = none ∧ s.det.due = [] ∧
     (∀ l ∈ s.launches, l.atSystem = true → l.triggered = true) ∧ (s.peer (f 3).src).vec = [] ∧ (f 3).opx.toNat ≤ (f 3).len.toNat ∧ r.flits = [(0, 3, 1)] ∧
     Received s 5 n 10 ∧ n.payload = leBytes 4 (3 : BitVec 32).toNat ++ leBytes 1 (0 : BitVec 2).toNat ++ [0] ++ leBytes 2 (1 : BitVec 16).toNat ∧
     n.len.toNat = 8 ∧ NextOrdered s 5 (f 3) 3 ∧ NextOrdered s 5 (f 5) 5 ∧ NextOrdered s 5 (f 7) 7) ∧
    (let s := domain openPort; let f (mark : BitVec 32) : Flit := Flit.sealed { bare 8 0 0 0 [] with mark := mark }
     homeKey (f 0).addr.toNat 1 = some 0x20000 ∧ (s.sealedAt 0x20000 1 || s.badMerge 0x20000 1) = false ∧
     ({ s with bad := [0x20000] } : State).badMerge 0x20000 1 = true ∧ NextOrdered { s with bad := [0x20000] } 5 (f 0) 8 ∧
     NextOrdered s 5 (f 0) 8 ∧ ((s.peer 1).lowf - (f 0).mark).toNat < 2 ^ 31 ∧ NextOrdered s 5 (f 1) 8 ∧
     2 ^ 31 ≤ ((s.peer 1).lowf - (f 1).mark).toNat) ∧
    (let s := domain openPort; let f := flit1 9 2 8 0 (leBytes 8 0x100000002)
     Received s 5 f 9 ∧ f.len.toNat = 8 ∧ s.reqs = []) ∧
    (let f : GateFlit := ⟨flit1 1 4 8 0 [], 0, none, 0⟩; let s := domain openPort; ({ s with fab := { s.fab with custody := [f] } } : State).fab.custody[0]? = some f) := by
  refine ⟨⟨fits_not (by decide +kernel), spoiled_bad _, by decide +kernel, fits_sealed (by decide +kernel), by decide +kernel⟩,
    ⟨by decide +kernel, by decide +kernel, by decide +kernel, nextOrdered_of (by decide +kernel) (by decide +kernel), received_of (by decide +kernel), by decide +kernel⟩,
    ⟨received_of (by decide +kernel), by decide +kernel⟩, ⟨nextOrdered_of (by decide +kernel) (by decide +kernel), by decide +kernel, by decide +kernel, by unfold State.MemoryCanonical; decide⟩,
    ⟨nextOrdered_of (by decide +kernel) (by decide +kernel), by decide +kernel⟩, ⟨nextOrdered_of (by decide +kernel) (by decide +kernel), by decide +kernel⟩,
    ⟨by decide +kernel, by decide +kernel, by decide +kernel, by decide +kernel, by decide +kernel, by decide +kernel, by decide +kernel,
      by unfold inFocus; decide, by decide +kernel, by decide +kernel, by decide +kernel, by decide +kernel, by decide +kernel, by decide +kernel,
      by decide +kernel, by decide +kernel, received_of (by decide +kernel), by decide +kernel, by decide +kernel,
      nextOrdered_of (by decide +kernel) (by decide +kernel), nextOrdered_of (by decide +kernel) (by decide +kernel), nextOrdered_of (by decide +kernel) (by decide +kernel)⟩,
    ⟨by decide +kernel, by decide +kernel, by decide +kernel, nextOrdered_of (by decide +kernel) (by decide +kernel),
      nextOrdered_of (by decide +kernel) (by decide +kernel), by decide +kernel, nextOrdered_of (by decide +kernel) (by decide +kernel), by decide +kernel⟩,
    ⟨received_of (by decide +kernel), by decide +kernel⟩, rfl⟩

theorem Sys2Proof.Tests.two_halves {P : Nat → Prop} (h0 : P 0) (h1 : P 1) : ∀ j, j < 4 / 2 → P j := by
  intro j hj
  match j, hj with
  | 0, _ => exact h0
  | 1, _ => exact h1

/-- StepRunsDecodedInstruction: the loaded NOP stands at the program counter of either slice; an ADD whose first source is lost; a turn of the strand and an event stand on the
agenda; and the machine without power. -/
theorem test_hyp_StepRunsDecodedInstruction :
    (acc.power.on = true ∧ acc.agenda = [] ∧ AtInstruction acc .nop 0x4000) ∧ AtInstruction cmp .nop 0x4000 ∧ cmp.lostNow .nop = false ∧
    (let s : State := State.reset.withFetchWord 32 0x0074D301
     let s := { s with strand := { s.strand with lost := [.reg .access false 6] } }
     AtInstruction s (.add ⟨19, 6, 29⟩) 0x4000 ∧ s.lostNow (.add ⟨19, 6, 29⟩) = true) ∧
    (let lost (part : LostPart) : State := { supAck with strand := { supAck.strand with lost := [part] } }
     (lost (.reg .access true 6)).lostNow (.vrestore 6) = true ∧ (lost .aq).lostNow (.vsave 6) = true) ∧
    (let s := { acc with agenda := [.slice 0 .compute] }; s.agenda = .slice 0 .compute :: [] ∧ s.isResident 0 = true ∧
      AtInstruction ({ s with agenda := [] }.turnTo 0 .compute) .nop 0x4000) ∧
    (let s := { acc with agenda := [.event .telemetry] }; s.agenda = .event .telemetry :: [] ∧ Instr.isEncoded .telemetry = false) ∧
    (let s := { acc with power := { acc.power with on := false } }
     s.power.on = false ∧ s.agenda = [] ∧
     { s with agenda := [.event (.coldStart goodStart)] }.agenda = .event (.coldStart goodStart) :: []) := by
  refine ⟨⟨by decide, by decide, ?_⟩, ?_, by decide, ⟨?_, by decide⟩, by decide, ⟨by decide, by decide, ?_⟩, by decide, by decide, by decide, rfl⟩ <;>
    exact ⟨by decide, by decide, two_halves ⟨ok_of (by decide), by decide⟩ ⟨ok_of (by decide), by decide⟩, by decide, by decide, by decide, by decide,
      by decide, by decide⟩

/-- Is the outcome a next state? -/
def Sys2Proof.Tests.isNext (o : Out) : Bool := match o with | .next _ => true | _ => false

/-- EncodedBytesDecodeBack, StepKeepsSound: an encoded well-formed instruction at the edge of its operands; a sound state that steps. -/
theorem test_hyp_EncodedBytesAndSound :
    ((Instr.slipImm 8).isEncoded = true ∧ (Instr.slipImm 8).wellFormed = true) ∧ acc.Sound ∧ ∃ t, step acc = .next t := by
  refine ⟨by decide, ⟨by unfold State.MemoryCanonical; decide, by unfold State.HubBounded; decide⟩, ?_⟩
  have g : isNext (step acc) = true := by decide +kernel
  cases h : step acc with
  | next t => exact ⟨t, rfl⟩
  | fault f => rw [h] at g; cases g
  | refused r => rw [h] at g; cases g

/-- An ill-formed instruction for each check, and the edge that each check takes. -/
theorem test_wellFormed_refuses :
    (Instr.ltrig .gang).wellFormed = false ∧ (Instr.ltrig .device).wellFormed = true ∧
    (Instr.slipImm 0).wellFormed = false ∧ (Instr.slipImm 9).wellFormed = false ∧ (Instr.slipImm 8).wellFormed = true ∧
    (Instr.barinitSq ⟨1, 64, 2⟩).wellFormed = false ∧ (Instr.barinitSq ⟨1, 63, 2⟩).wellFormed = true ∧
    (Instr.barArriveSq 64).wellFormed = false ∧ (Instr.barArriveSq 63).wellFormed = true ∧
    (Instr.barSyncSq 64).wellFormed = false ∧ (Instr.barSyncSq 63).wellFormed = true ∧
    (Instr.vwait ⟨some .strand, .none, 0, 1, 2, 3⟩).wellFormed = false ∧ (Instr.vwait ⟨none, .none, 0, 1, 2, 3⟩).wellFormed = true ∧
    (Instr.ptrace 0 1 6).wellFormed = false ∧ (Instr.ptrace 0 1 5).wellFormed = true ∧
    (Instr.hAddi 0 1).wellFormed = false ∧ (Instr.hSeti 0 1).wellFormed = false ∧ (Instr.hCopy 0 1).wellFormed = false ∧
    (Instr.hAdd 0 1).wellFormed = false ∧ (Instr.hAdd 31 1).wellFormed = true := by decide

/-- The state after an outcome. -/
def Sys2Proof.Tests.after (o : Out) : State := match o with | .next t => t | _ => { State.reset with fresh := 99 }
/-- One step on a loaded word, with x6 and x7 of the slice in turn. -/
def Sys2Proof.Tests.stepWord (n w : Nat) (a b : Word) : State := after (step (with67 (State.reset.withFetchWord n w) a b))

/-- ADDI x5, x5, −1 (the worked word of file 12): x5 goes from 0 to all ones, and the address by 4. -/
theorem test_addi_wraps : (stepWord 32 0xFFF0A509 0 0).strand.regs.user.get 5 = 0xFFFFFFFFFFFFFFFF ∧
    (stepWord 32 0xFFF0A509 0 0).strand.acc.pc = 0x4004 := by decide +kernel
/-- H.ADDI x5, −1 (0xFE50): the address by 2. -/
theorem test_hAddi : (stepWord 16 0xFE50 0 0).strand.regs.user.get 5 = 0xFFFFFFFFFFFFFFFF ∧
    (stepWord 16 0xFE50 0 0).strand.acc.pc = 0x4002 := by decide +kernel
/-- BNE x5, x0, −2 with x5 = 0 falls through; the same with x6 = 1 goes back by 2 (R341). -/
theorem test_bne : (stepWord 32 0xFC80BF21 0 0).strand.acc.pc = 0x4004 ∧
    (after (exec (.bne ⟨6, 0, 0x7FF⟩) (with67 acc 1 0))).strand.acc.pc = 0x3FFE := by decide +kernel
/-- BINS over its own source: 8 bits of 0x5A at 4 into xd. -/
theorem test_bins : (after (exec (.bins ⟨7, 6, 8⟩) ((with67 acc 0x5A 0xFFFF).setX 8 0x204))).x 7 = 0xF5AF := by decide +kernel
/-- LD.H sign-extends 0x8001; LD.HN does not; a pair at an odd address traps MISALIGN at U (R263, R363). -/
theorem test_ld : (after (exec (.ld ⟨.h, .global, 5, 6, 0⟩) (cells (with67 acc 0x8000 0) [(0x8000, 1), (0x8001, 0x80)]))).x 5 =
      0xFFFFFFFFFFFF8001 ∧
    (after (exec (.ld ⟨.hn, .global, 5, 6, 0⟩) (cells (with67 acc 0x8000 0) [(0x8000, 1), (0x8001, 0x80)]))).x 5 = 0x8001 ∧
    (after (exec (.ld ⟨.h, .global, 5, 6, 1⟩) (with67 acc 0x8000 0))).strand.trap.accStop = some ⟨4, 0x8001⟩ := by decide +kernel
/-- ST.H writes two bytes, the low one first, and no third. -/
theorem test_st : let t := after (exec (.st ⟨.h, .global, 6, 7, 0x1FE⟩) (with67 acc 0x8000 0x123456))
    t.mem.get 0x7FFE = 0x56 ∧ t.mem.get 0x7FFF = 0x34 ∧ t.mem.get 0x8000 = 0 := by decide +kernel
/-- AMOADD.W wraps in 32 bits and gives the old value sign-extended. -/
theorem test_amoadd : let t := after (exec (.amoadd ⟨.plain, .global, .w, 5, 6, 7⟩)
      (cells (with67 acc 0x8000 1) (atKeys 0x8000 [0xFF, 0xFF, 0xFF, 0xFF])))
    t.x 5 = 0xFFFFFFFFFFFFFFFF ∧ t.mem = loadTable.setAll [(0x4000, 0x4D)] := by decide +kernel
/-- FADD.S of 1 and 2^−24 is a tie, to even: 1, with NX. -/
theorem test_fadd : let t := after (exec (.fadd ⟨.s, 5, 6, 7⟩) (with67 acc 0x3F800000 0x33800000))
    t.x 5 = 0x3F800000 ∧ t.strand.acc.fcsr = 1 := by decide +kernel
/-- FCVT.WN.S of −1 gives 0 with NV; of NaN 0 with NV (R355). -/
theorem test_fcvt : let t := after (exec (.fcvt (.toInt .wn .s) ⟨5, 6⟩) (with67 acc 0xBF800000 0))
    t.x 5 = 0 ∧ t.strand.acc.fcsr = 0x10 := by decide +kernel
/-- TRAP on the compute slice: BREAK, both addresses, the compute slice held (R261, R410). -/
theorem test_trap : let t := after (exec (.trap 0xABC) cmp)
    t.strand.trap.tcause = 0x12 ∧ t.strand.trap.taddr = 0xABC ∧ t.strand.trap.tpcc = 0x4004 ∧ t.strand.trap.tpca = 0x4000 ∧
    t.strand.trap.held = true ∧ t.strand.trap.priv = true ∧ t.strand.acc.pc = 0 := by decide +kernel
/-- VSETL.E64 of a request of 1,000 at 32 lanes grants 256 and pushes the grant (R87, R88). -/
theorem test_vsetl : let t := after (exec (.vsetl .e64 5 6) (with67 acc 1000 0))
    t.x 5 = 256 ∧ t.strand.acc.vl = 256 ∧ t.strand.q.aq = [⟨0x400000100, true, 0⟩] := by decide +kernel
/-- BAR.SYNC of the access slice alone, at a barrier of two, waits (R41). -/
theorem test_barSync : let t := after (exec (.barSync 3) acc)
    t.strand.acc.stall = some .barrier ∧ (t.barrier t.strand.id false 3).count = 1 := by decide +kernel
/-- VADD of I32 with SAT: 2^31 − 1 plus 1 clamps (R113); the element beyond VLC keeps its value. -/
theorem test_vadd : let s := setV (setV (vec 0x44631 3 1) 1 32 0 0x7FFFFFFF) 3 32 1 9
    let t := after (exec (.vadd ⟨0, .none, .vi 1, 1, 3⟩) s)
    t.vget 3 32 0 = 0x7FFFFFFF ∧ t.vget 3 32 1 = 9 ∧ t.strand.cmp.pc = 0x4004 := by decide +kernel
/-- VMNOT of an all-zero mask at VLC = 3 sets the three low bits (R84). -/
theorem test_vmnot : (after (exec (.vmnot 2 5) (vec 0 3 3))).strand.vec.m.get 2 = 7 := by decide +kernel
/-- PGET of an unbound register gives 0; PSET of three FP32 coefficients of a line binds 341 slots of 12 bytes (R131). -/
theorem test_pset : let t := after (exec (.pset 2 6) ((vec 0 3 1).setX 6 0x88))
    (t.strand.vec.pdesc.get 2).toNat = 0x88 + 341 * 1024 + 2 ^ 24 ∧ (after (exec (.pget 5 2) (vec 0 3 1))).x 5 = 0 := by decide +kernel
/-- ESEQ of an engine that has done nothing gives 0, and ECOPY of a misaligned descriptor traps MISALIGN (R186). -/
theorem test_engine : (after (exec (.eseq 5) acc)).x 5 = 0 ∧
    (after (exec (.ecopy 5 6) (acc.setX 6 32))).strand.trap.accStop = some ⟨4, 32⟩ := by decide +kernel
/-- After reset one step without a program waits: nothing is resident, and only the turn passes. -/
theorem test_reset_step : after (step State.reset) = { State.reset with side := .compute } := by decide +kernel
/-- The memory after reset is in canonical form. -/
theorem test_reset_memory : State.reset.mem.wf = true := by decide
end

section
/-! PROOF. O58: the bytes of every well-formed encoded instruction decode back to it. -/

namespace Sys2Proof.Laws

/-- A word of `n` bytes that says so itself: it fits in them, and its first halfword gives that length (R281). -/
def OfLength (n w : Nat) : Prop := w < 256 ^ n ∧ lengthOf (w % 256 ^ 2) = n

/-- The length that a word's first halfword gives stands in its bits [1:0] (R281). -/
theorem lengthOf_half (w : Nat) : lengthOf (w % 256 ^ 2) = lengthOf w := by
  unfold lengthOf
  rw [Nat.mod_mod_of_dvd _ (by decide : 4 ∣ 256 ^ 2)]

theorem ofLength_2 {w : Nat} (hw : w < 2 ^ 16) (h : w % 2 = 0) : OfLength 2 w := by
  refine ⟨hw, ?_⟩
  rw [lengthOf_half]
  have h4 : w % 4 = 0 ∨ w % 4 = 2 := by omega
  rcases h4 with h4 | h4 <;> simp [lengthOf, h4]

theorem ofLength_4 {w : Nat} (hw : w < 2 ^ 32) (h : w % 4 = 1) : OfLength 4 w :=
  ⟨hw, by rw [lengthOf_half]; simp [lengthOf, h]⟩

theorem ofLength_8 {w : Nat} (hw : w < 2 ^ 64) (h : w % 4 = 3) : OfLength 8 w :=
  ⟨hw, by rw [lengthOf_half]; simp [lengthOf, h]⟩

/-! Each layout of R284, R91, R140, R158 and R186 gives a word of its length when its fields fit their places. -/

section
variable {m f d a b c : Nat}

theorem ofLength_encR (hm : m < 64) (hf : f < 16) (hd : d < 32) (ha : a < 32) (hb : b < 32) (hc : c < 32) :
    OfLength 4 (encR m f d a b c) :=
  ofLength_4 (by unfold encR maj; omega) (by unfold encR maj; omega)

theorem ofLength_encR3 (hm : m < 64) (hf : f < 16) (r : R3) : OfLength 4 (encR3 m f r) :=
  ofLength_encR hm hf r.rd.isLt r.rs1.isLt r.rs2.isLt (by decide)

theorem ofLength_encF3 {n : Nat} (hm : m < 64) (hn : n < 8) (r : F3) : OfLength 4 (encF3 m n r) :=
  ofLength_encR hm (by have := prec_lt r.p; omega) r.rd.isLt r.rs1.isLt r.rs2.isLt (by decide)

theorem ofLength_encF2 {n : Nat} (hm : m < 64) (hn : n < 8) (r : F2) : OfLength 4 (encF2 m n r) :=
  ofLength_encR hm (by have := prec_lt r.p; omega) r.rd.isLt r.rs1.isLt (by decide) (by decide)

theorem ofLength_encI (hm : m < 64) (hf : f < 4) (hd : d < 32) (ha : a < 32) (hb : b < 4096) : OfLength 4 (encI m f d a b) :=
  ofLength_4 (by unfold encI maj; omega) (by unfold encI maj; omega)

theorem ofLength_encU (hm : m < 64) (r : UArgs) : OfLength 4 (encU m r) :=
  ofLength_4 (by unfold encU maj; omega) (by unfold encU maj; omega)

theorem ofLength_encB (hm : m < 64) (hf : f < 8) (ha : a < 32) (hb : b < 32) (off : BitVec 11) :
    OfLength 4 (encB m f a b off.toNat) :=
  ofLength_4 (by unfold encB maj; omega) (by unfold encB maj; omega)

/-- The L and S layouts: one immediate in two parts around the fields. -/
theorem ofLength_encLS {sz sp : Nat} (hm : m < 64) (hd : d < 32) (ha : a < 32) (hb : b < 32) (hsz : sz < 8) (hsp : sp < 4) (hc : c < 16) :
    OfLength 4 (maj m + d * 2 ^ 8 + a * 2 ^ 13 + b * 2 ^ 18 + sz * 2 ^ 23 + sp * 2 ^ 26 + c * 2 ^ 28) :=
  ofLength_4 (by unfold maj; omega) (by unfold maj; omega)

/-- The O layout of LD.ACQ. -/
theorem ofLength_ldAcq {sz sp sc : Nat} (hd : d < 32) (ha : a < 32) (hsz : sz < 8) (hsp : sp < 4) (hsc : sc < 8) :
    OfLength 4 (maj 0x0C + d * 2 ^ 8 + a * 2 ^ 13 + sz * 2 ^ 23 + sp * 2 ^ 26 + sc * 2 ^ 28) :=
  ofLength_4 (by unfold maj; omega) (by unfold maj; omega)

/-- The O layout of ST.REL. -/
theorem ofLength_stRel {sz sp sc : Nat} (ha : a < 32) (hb : b < 32) (hsz : sz < 8) (hsp : sp < 4) (hsc : sc < 8) :
    OfLength 4 (maj 0x0C + a * 2 ^ 13 + b * 2 ^ 18 + sz * 2 ^ 23 + sp * 2 ^ 26 + sc * 2 ^ 28 + 2 ^ 31) :=
  ofLength_4 (by unfold maj; omega) (by unfold maj; omega)

theorem ofLength_fence {pred succ sc : Nat} (hp : pred < 4) (hs : succ < 4) (hsc : sc < 8) :
    OfLength 4 (maj 0x13 + succ * 2 ^ 13 + pred * 2 ^ 15 + sc * 2 ^ 18 + 7 * 2 ^ 23) :=
  ofLength_4 (by unfold maj; omega) (by unfold maj; omega)

theorem ofLength_vwait {md gov vs1 vs2 xs sc : Nat} (hmd : md < 8) (hg : gov < 4) (h1 : vs1 < 32) (h2 : vs2 < 32) (hx : xs < 32)
    (hsc : sc < 8) :
    OfLength 4 (maj 0x2B + md * 2 ^ 8 + gov * 2 ^ 11 + vs1 * 2 ^ 13 + vs2 * 2 ^ 18 + xs * 2 ^ 23 + sc * 2 ^ 28) :=
  ofLength_4 (by unfold maj; omega) (by unfold maj; omega)

theorem ofLength_encA (hm : m < 64) (hf : f < 4) (o : Order) (sp : Space) (sz : AtSize) (hd : d < 32) (ha : a < 32) (hb : b < 32) :
    OfLength 4 (encA m f o sp sz d a b) := by
  have := order_lt o; have := space_lt sp; have := atSize_lt sz
  exact ofLength_4 (by unfold encA maj; omega) (by unfold encA maj; omega)

theorem ofLength_encAA (hm : m < 64) (hf : f < 4) (r : AArgs) : OfLength 4 (encAA m f r) :=
  ofLength_encA hm hf r.order r.space r.size r.rd.isLt r.rs1.isLt r.rs2.isLt

theorem ofLength_encK (hf : f < 8) (hd : d < 32) (bar : BitVec 9) (hc : c < 32) : OfLength 4 (encK f d bar.toNat c) :=
  ofLength_4 (by unfold encK maj; omega) (by unfold encK maj; omega)

theorem ofLength_encM {sub : Nat} (hm : m < 64) (hf : f < 4) (hs : sub < 16) (ha : a < 32) (hb : b < 32) :
    OfLength 4 (encM m f sub a b) :=
  ofLength_4 (by unfold encM maj; omega) (by unfold encM maj; omega)

theorem ofLength_encVf {fmt gov form src vs1 vd : Nat} (hm : m < 64) (hf : f < 4) (hfmt : fmt < 8) (hg : gov < 4) (hform : form < 4)
    (hsrc : src < 32) (h1 : vs1 < 32) (hd : vd < 32) : OfLength 4 (encVf m f fmt gov form src vs1 vd) :=
  ofLength_4 (by unfold encVf maj; omega) (by unfold encVf maj; omega)

theorem ofLength_encV (hm : m < 64) (hf : f < 4) (r : VArgs) : OfLength 4 (encV m f r) :=
  ofLength_encVf hm hf r.fmt.isLt (gov_lt _) (src2_form_lt _) (src2_field_lt _) r.vs1.isLt r.vd.isLt

theorem ofLength_encVU (hm : m < 64) (hf : f < 4) (r : VUArgs) : OfLength 4 (encVU m f r) :=
  ofLength_encVf hm hf r.fmt.isLt (gov_lt _) (by decide) (by decide) r.vs1.isLt r.vd.isLt

theorem ofLength_encMM (hm : m < 64) (hf : f < 4) (r : MMArgs) : OfLength 4 (encMM m f r) :=
  ofLength_encVf hm hf (by decide) (by decide) (by decide) (by omega) (by omega) (by omega)

theorem ofLength_encMG (hm : m < 64) (hf : f < 4) (r : MGArgs) : OfLength 4 (encMG m f r) :=
  ofLength_encVf hm hf (by decide) (gov_lt _) (by decide) (by decide) (by omega) (by omega)

theorem ofLength_encPrune (hm : m < 64) (hf : f < 4) (r : VPruneArgs) : OfLength 4 (encPrune m f r) :=
  ofLength_encVf hm hf r.fmt.isLt (by decide) (by decide) (by decide) r.vs.isLt r.vd.isLt

theorem ofLength_encP {ctl x v s2 s1 : Nat} (hm : m < 64) (hf : f < 8) (hctl : ctl < 4) (hx : x < 32) (hv : v < 32) (h2 : s2 < 8)
    (h1 : s1 < 8) (hd : d < 8) : OfLength 4 (encP m f ctl x v s2 s1 d) :=
  ofLength_4 (by unfold encP maj; omega) (by unfold encP maj; omega)

theorem ofLength_encPWin (hf : f < 8) (r : PWinArgs) : OfLength 4 (encPWin f r) :=
  ofLength_encP (by decide) hf (gov_lt _) r.xs.isLt r.vs.isLt r.fs2.isLt r.fs1.isLt r.fd.isLt

theorem ofLength_encPVec (hf : f < 8) (r : PVecArgs) : OfLength 4 (encPVec f r) :=
  ofLength_encP (by decide) hf (gov_lt _) r.xs.isLt r.vd.isLt (by decide) r.fs1.isLt (by decide)

theorem ofLength_encP3 (hf : f < 8) (hc : c < 4) (r : P3) : OfLength 4 (encP3 f c r) :=
  ofLength_encP (by decide) hf hc (by decide) (by decide) r.fs2.isLt r.fs1.isLt r.fd.isLt

theorem ofLength_encH (hf : f < 8) (hd : d < 32) (ha : a < 128) : OfLength 2 (encH f d a) :=
  ofLength_2 (by unfold encH; omega) (by unfold encH; omega)

theorem ofLength_encMat {fmt x2 x1 vs acc panel : Nat} (hf : f < 8) (hfmt : fmt < 8) (h2 : x2 < 32) (h1 : x1 < 32) (hv : vs < 32)
    (hacc : acc < 16) (hp : panel < 16) : OfLength 8 (encMat f fmt x2 x1 vs acc panel) :=
  ofLength_8 (by unfold encMat; omega) (by unfold encMat; omega)

theorem ofLength_encE (hf : f < 8) (hd : d < 32) (ha : a < 32) : OfLength 8 (encE f d a) :=
  ofLength_8 (by unfold encE; omega) (by unfold encE; omega)

end

/-- Is the instruction SEAL? Its name is a word of Lean, so that it cannot head a case: the case splits take it first. -/
def isSeal : Instr → Bool
  | .seal _ => true
  | _ => false

theorem eq_seal {i : Instr} (h : isSeal i = true) : ∃ a, i = .seal a := by
  unfold isSeal at h
  split at h
  · exact ⟨_, rfl⟩
  · exact Bool.noConfusion h

/-- The word of an encoded instruction has the length of the instruction: it fits, and its bits [1:0] say so (R281, R284). -/
theorem encode_ofLength (i : Instr) (h : i.isEncoded = true) : OfLength (encodeLength i) (encode i) := by
  by_cases hs : isSeal i = true
  · obtain ⟨a, rfl⟩ := eq_seal hs
    exact ofLength_encR3 (by decide) (by decide) a
  have hrest : (i.isEncoded && !isSeal i) = true := by simp [h, hs]
  cases i with
  | add a | sub a | mul a | mulh a | mulhn a | div a | divn a | rem a | remn a | and a | or a | xor a | sll a | srl a | sra a
  | slt a | sltn a | min a | max a | minn a | maxn a | bext a | bins a | vfork a =>
    exact ofLength_encR3 (by decide) (by decide) a
  | clz a | ctz a | popc a => exact ofLength_encR (by decide) (by decide) a.rd.isLt a.rs1.isLt (by decide) (by decide)
  | ffma a => exact ofLength_encR (by decide) (by have := prec_lt a.p; omega) a.rd.isLt a.rs1.isLt a.rs2.isLt a.rs3.isLt
  | fcvt code a => exact ofLength_encR (by decide) (by decide) a.rd.isLt a.rs1.isLt (cvtCode_lt _) (by decide)
  | nop | halt | tack | tret | convoy | svfence | vlsync | mtsetGlobal | mtsetSpad | mtsetShared | mtsetTcm =>
    exact ofLength_encR (by decide) (by decide) (by decide) (by decide) (by decide) (by decide)
  | ltrig sc => exact ofLength_encR (by decide) (by decide) (by decide) (by decide) (by have := scope_lt sc; omega) (by decide)
  | join x | vsave x | vrestore x => exact ofLength_encR (by decide) (by decide) (by decide) x.isLt (by decide) (by decide)
  | apush x | cpush x | vpush x | slipReg x => exact ofLength_encR (by decide) (by decide) (by decide) (by decide) x.isLt (by decide)
  | apop x | cpop x | vpop x | vsetlQ x => exact ofLength_encR (by decide) (by decide) x.isLt (by decide) (by decide) (by decide)
  | slipImm q => exact ofLength_encR (by decide) (by decide) (by decide) (by decide) (by decide) (by omega)
  | vsetl w rd xs => exact ofLength_encR (by decide) (by decide) rd.isLt (by decide) xs.isLt (by have := eWidth_lt w; omega)
  | addi a | andi a | ori a | xori a | slti a | sltin a | jalr a =>
    exact ofLength_encI (by decide) (by decide) a.rd.isLt a.rs1.isLt a.imm.isLt
  | slli a | srli a | srai a => exact ofLength_encI (by decide) (by decide) a.rd.isLt a.rs1.isLt (by omega)
  | mfs rd r => exact ofLength_encI (by decide) (by decide) rd.isLt (by decide) r.isLt
  | mts r x => exact ofLength_encI (by decide) (by decide) (by decide) x.isLt r.isLt
  | trap imm => exact ofLength_encI (by decide) (by decide) (by decide) (by decide) imm.isLt
  | lui a | auipc a | jal a => exact ofLength_encU (by decide) a
  | beq a | bne a | blt a | bge a | bltn a | bgen a => exact ofLength_encB (by decide) (by decide) a.rs1.isLt a.rs2.isLt a.off
  | bany a | ball a | bnone a => exact ofLength_encB (by decide) (by decide) (by omega) (by decide) a.off
  | bqz off | bqnz off => exact ofLength_encB (by decide) (by decide) (by decide) (by decide) off
  | ld a =>
    exact ofLength_encLS (by decide) a.rd.isLt a.rs1.isLt (by omega) (ldSize_lt _) (space_lt _) (by omega)
  | st a =>
    exact ofLength_encLS (by decide) (by omega) a.rs1.isLt a.rs2.isLt (by have := stSize_lt a.size; omega) (space_lt _) (by omega)
  | ldAcq a => exact ofLength_ldAcq a.rd.isLt a.rs1.isLt (ldSize_lt _) (space_lt _) (scope_lt _)
  | stRel a => exact ofLength_stRel a.rs1.isLt a.rs2.isLt (stSize_lt _) (space_lt _) (scope_lt _)
  | fence sc p s => exact ofLength_fence (fenceKind_lt p) (fenceKind_lt s) (scope_lt sc)
  | vwait a => exact ofLength_vwait a.md.isLt (gov_lt _) a.vs1.isLt a.vs2.isLt a.xs.isLt (vwaitScope_lt _)
  | amoadd a | amoand a | amoor a | amoxor a | amomin a | amomax a | amoswp a | cas a | amofadd a =>
    exact ofLength_encAA (by decide) (by decide) a
  | amofaddDet a => exact ofLength_encA (by decide) (by decide) .plain a.space a.size (by decide) a.rs1.isLt a.rs2.isLt
  | fadd a | fsub a | fmul a | fdiv a | fmin a | fmax a | fcmpEq a | fcmpLt a | fcmpLe a =>
    exact ofLength_encF3 (by decide) (by decide) a
  | fsqrt a | fclass a => exact ofLength_encF2 (by decide) (by decide) a
  | barinit a | barinitSq a => exact ofLength_encK (by decide) a.rd.isLt a.b a.xs.isLt
  | barArrive b | barSync b | barArriveSq b | barSyncSq b => exact ofLength_encK (by decide) (by decide) b (by decide)
  | vle x | vlx x | vlff x | vse x | vsx x => exact ofLength_encM (by decide) (by decide) (by decide) x.isLt (by decide)
  | vls x y | vlb x y | vss x y | vsb x y => exact ofLength_encM (by decide) (by decide) (by decide) x.isLt y.isLt
  | vamo op x => exact ofLength_encM (by decide) (by decide) (amoOp_lt op) x.isLt (by decide)
  | vadd a | vsub a | vmul a | vmulh a | vdiv a | vrem a | vmin a | vmax a | vand a | vor a | vxor a | vsll a | vsrl a | vsra a
  | vfadd a | vfsub a | vfmul a | vfdiv a | vfma a | vfms a | vfnma a | vfmin a | vfmax a | vwma a | vmerge a | vslideup a
  | vslidedn a | vperm a | vredsum a | vredmin a | vredmax a | vscan a | vfredsum a | vfredmin a | vfredmax a | vfscan a =>
    exact ofLength_encV (by decide) (by decide) a
  | vfsqrt a | vfcvt a | vcompress a | vexpand a => exact ofLength_encVU (by decide) (by decide) a
  | pmov fd fs1 => exact ofLength_encP (by decide) (by decide) (by decide) (by decide) (by decide) (by decide) fs1.isLt fd.isLt
  | pzero fd => exact ofLength_encP (by decide) (by decide) (by decide) (by decide) (by decide) (by decide) (by decide) fd.isLt
  | pdiff dir fd fs1 => exact ofLength_encP (by decide) (by decide) (pDir_lt dir) (by decide) (by decide) (by decide) fs1.isLt fd.isLt
  | pproj fd fs1 q => exact ofLength_encP (by decide) (by decide) (by decide) (by decide) (by omega) (by decide) fs1.isLt fd.isLt
  | ptrace fd fs1 face => exact ofLength_encP (by decide) (by decide) (by decide) (by decide) (by decide) face.isLt fs1.isLt fd.isLt
  | pscl a => exact ofLength_encP (by decide) (by decide) (gov_lt _) a.xs.isLt a.vs.isLt (by decide) a.fs1.isLt a.fd.isLt
  | ppop fd x | pset fd x | psetDg fd x =>
    exact ofLength_encP (by decide) (by decide) (by decide) x.isLt (by decide) (by decide) (by decide) fd.isLt
  | ppush fs1 x => exact ofLength_encP (by decide) (by decide) (by decide) x.isLt (by decide) (by decide) fs1.isLt (by decide)
  | pget x fs1 | pgetDg x fs1 =>
    exact ofLength_encP (by decide) (by decide) (by decide) x.isLt (by decide) (by decide) fs1.isLt (by decide)
  | padd a | psub a => exact ofLength_encP3 (by decide) (by decide) a
  | pmul mode a => exact ofLength_encP3 (by decide) (pMode_lt mode) a
  | paxpy a | pjump a | pavg a => exact ofLength_encPWin (by decide) a
  | pint a | peval a => exact ofLength_encPVec (by decide) a
  | vcmp a =>
    exact ofLength_encVf (by decide) (by decide) a.fmt.isLt (gov_lt _) (src2_form_lt _) (src2_field_lt _) a.vs1.isLt
      (by have := iCond_lt a.cond; omega)
  | vfcmp a =>
    exact ofLength_encVf (by decide) (by decide) a.fmt.isLt (gov_lt _) (src2_form_lt _) (src2_field_lt _) a.vs1.isLt
      (by have := fCond_lt a.cond; omega)
  | vmv a =>
    exact ofLength_encVf (by decide) (by decide) a.fmt.isLt (gov_lt _) (src2_form_lt _) (src2_field_lt _) (by decide) a.vd.isLt
  | viota a =>
    exact ofLength_encVf (by decide) (by decide) a.fmt.isLt (gov_lt _) (src2_form_lt _) (src2_field_lt _) (by omega) a.vd.isLt
  | vmnot md ms =>
    exact ofLength_encVf (by decide) (by decide) (by decide) (by decide) (by decide) (by decide) (by omega) (by omega)
  | vpopc a | vfirst a =>
    exact ofLength_encVf (by decide) (by decide) (by decide) (gov_lt _) (by decide) (by decide) (by omega) a.rd.isLt
  | vbmand a | visect a =>
    exact ofLength_encVf (by decide) (by decide) a.fmt.isLt (by decide) (by decide) a.vs2.isLt a.vs1.isLt a.vd.isLt
  | vbprefix a => exact ofLength_encVf (by decide) (by decide) a.fmt.isLt (by decide) (by decide) a.xs.isLt a.vs1.isLt a.vd.isLt
  | vhacc a => exact ofLength_encVf (by decide) (by decide) a.fmt.isLt (by decide) (by decide) a.vs2.isLt a.vs1.isLt a.xs.isLt
  | vpruneN4M8 a | vpruneN1M4 a | vpruneN2M4 a | vpruneN1M8 a | vpruneN2M8 a => exact ofLength_encPrune (by decide) (by decide) a
  | vmand a | vmor a | vmxor a | vmandn a => exact ofLength_encMM (by decide) (by decide) a
  | vbrkb a | vbrka a => exact ofLength_encMG (by decide) (by decide) a
  | hAddi rd imm | hSeti rd imm | hBz rd imm | hBnz rd imm => exact ofLength_encH (by decide) rd.isLt imm.isLt
  | hCopy rd xs | hAdd rd xs => exact ofLength_encH (by decide) rd.isLt (by omega)
  | mldb a | mldbP a =>
    exact ofLength_encMat (by decide) a.fmt.isLt a.xs2.isLt a.xs1.isLt (by decide) (by decide) a.n.isLt
  | mst a | mldacc a =>
    exact ofLength_encMat (by decide) a.fmt.isLt a.xs2.isLt a.xs1.isLt (by decide) a.n.isLt (by decide)
  | mma a => exact ofLength_encMat (by decide) a.fmt.isLt (by decide) (by decide) a.vs.isLt a.acc.isLt a.panel.isLt
  | mzero acc fmt => exact ofLength_encMat (by decide) fmt.isLt (by decide) (by decide) (by decide) acc.isLt (by decide)
  | ecopy rd x | equant rd x | epack rd x | eunpack rd x | evpop rd x => exact ofLength_encE (by decide) rd.isLt x.isLt
  | eseq rd => exact ofLength_encE (by decide) rd.isLt (by decide)
  | _ => exact Bool.noConfusion hrest

/-- Every instruction's word decodes to it (R281 to R291); an event has none to decode. -/
theorem roundTrip (i : Instr) : RoundTrip.Statement i := by
  intro h
  by_cases hs : isSeal i = true
  · obtain ⟨a, rfl⟩ := eq_seal hs
    exact RoundTrip.seal a h
  have hrest : (i.isEncoded && !isSeal i) = true := by simp [h, hs]
  revert h
  cases i with
  | add a => exact RoundTrip.add a | sub a => exact RoundTrip.sub a | mul a => exact RoundTrip.mul a | mulh a => exact RoundTrip.mulh a
  | mulhn a => exact RoundTrip.mulhn a | div a => exact RoundTrip.div a | divn a => exact RoundTrip.divn a
  | rem a => exact RoundTrip.rem a | remn a => exact RoundTrip.remn a | and a => exact RoundTrip.and a | or a => exact RoundTrip.or a
  | xor a => exact RoundTrip.xor a | sll a => exact RoundTrip.sll a | srl a => exact RoundTrip.srl a | sra a => exact RoundTrip.sra a
  | slt a => exact RoundTrip.slt a | sltn a => exact RoundTrip.sltn a | min a => exact RoundTrip.min a | max a => exact RoundTrip.max a
  | minn a => exact RoundTrip.minn a | maxn a => exact RoundTrip.maxn a | clz a => exact RoundTrip.clz a
  | ctz a => exact RoundTrip.ctz a | popc a => exact RoundTrip.popc a | bext a => exact RoundTrip.bext a
  | bins a => exact RoundTrip.bins a | addi a => exact RoundTrip.addi a | andi a => exact RoundTrip.andi a
  | ori a => exact RoundTrip.ori a | xori a => exact RoundTrip.xori a | slti a => exact RoundTrip.slti a
  | sltin a => exact RoundTrip.sltin a | jalr a => exact RoundTrip.jalr a | slli a => exact RoundTrip.slli a
  | srli a => exact RoundTrip.srli a | srai a => exact RoundTrip.srai a | lui a => exact RoundTrip.lui a
  | auipc a => exact RoundTrip.auipc a | jal a => exact RoundTrip.jal a | beq a => exact RoundTrip.beq a
  | bne a => exact RoundTrip.bne a | blt a => exact RoundTrip.blt a | bge a => exact RoundTrip.bge a | bltn a => exact RoundTrip.bltn a
  | bgen a => exact RoundTrip.bgen a | bany a => exact RoundTrip.bany a | ball a => exact RoundTrip.ball a
  | bnone a => exact RoundTrip.bnone a | bqz off => exact RoundTrip.bqz off | bqnz off => exact RoundTrip.bqnz off
  | ld a => exact RoundTrip.ld a | st a => exact RoundTrip.st a | ldAcq a => exact RoundTrip.ldAcq a
  | stRel a => exact RoundTrip.stRel a | amoadd a => exact RoundTrip.amoadd a | amoand a => exact RoundTrip.amoand a
  | amoor a => exact RoundTrip.amoor a | amoxor a => exact RoundTrip.amoxor a | amomin a => exact RoundTrip.amomin a
  | amomax a => exact RoundTrip.amomax a | amoswp a => exact RoundTrip.amoswp a | cas a => exact RoundTrip.cas a
  | amofadd a => exact RoundTrip.amofadd a | amofaddDet a => exact RoundTrip.amofaddDet a | fadd a => exact RoundTrip.fadd a
  | fsub a => exact RoundTrip.fsub a | fmul a => exact RoundTrip.fmul a | fdiv a => exact RoundTrip.fdiv a
  | fsqrt a => exact RoundTrip.fsqrt a | ffma a => exact RoundTrip.ffma a | fmin a => exact RoundTrip.fmin a
  | fmax a => exact RoundTrip.fmax a | fcmpEq a => exact RoundTrip.fcmpEq a | fcmpLt a => exact RoundTrip.fcmpLt a
  | fcmpLe a => exact RoundTrip.fcmpLe a | fclass a => exact RoundTrip.fclass a | fcvt code a => exact RoundTrip.fcvt code a
  | mfs rd reg => exact RoundTrip.mfs rd reg | mts reg rs1 => exact RoundTrip.mts reg rs1 | trap imm => exact RoundTrip.trap imm
  | nop => exact RoundTrip.nop | halt => exact RoundTrip.halt | tack => exact RoundTrip.tack | tret => exact RoundTrip.tret
  | convoy => exact RoundTrip.convoy | svfence => exact RoundTrip.svfence | vlsync => exact RoundTrip.vlsync
  | fence scope pred succ => exact RoundTrip.fence scope pred succ | ltrig scope => exact RoundTrip.ltrig scope
  | vfork a => exact RoundTrip.vfork a | join xs => exact RoundTrip.join xs | vsave xs => exact RoundTrip.vsave xs
  | vrestore xs => exact RoundTrip.vrestore xs | apush xs => exact RoundTrip.apush xs | apop rd => exact RoundTrip.apop rd
  | cpush xs => exact RoundTrip.cpush xs | cpop rd => exact RoundTrip.cpop rd | vpush vs => exact RoundTrip.vpush vs
  | vpop vd => exact RoundTrip.vpop vd | slipReg xs => exact RoundTrip.slipReg xs | slipImm imm => exact RoundTrip.slipImm imm
  | vsetlQ rd => exact RoundTrip.vsetlQ rd | vsetl w rd xs => exact RoundTrip.vsetl w rd xs
  | mtsetGlobal => exact RoundTrip.mtsetGlobal | mtsetSpad => exact RoundTrip.mtsetSpad | mtsetShared => exact RoundTrip.mtsetShared
  | mtsetTcm => exact RoundTrip.mtsetTcm | barinit a => exact RoundTrip.barinit a | barArrive b => exact RoundTrip.barArrive b
  | barSync b => exact RoundTrip.barSync b | barinitSq a => exact RoundTrip.barinitSq a
  | barArriveSq b => exact RoundTrip.barArriveSq b | barSyncSq b => exact RoundTrip.barSyncSq b | vle rs1 => exact RoundTrip.vle rs1
  | vls rs1 rs2 => exact RoundTrip.vls rs1 rs2 | vlx rs1 => exact RoundTrip.vlx rs1 | vlff rs1 => exact RoundTrip.vlff rs1
  | vlb rs1 rs2 => exact RoundTrip.vlb rs1 rs2 | vse rs1 => exact RoundTrip.vse rs1 | vss rs1 rs2 => exact RoundTrip.vss rs1 rs2
  | vsx rs1 => exact RoundTrip.vsx rs1 | vsb rs1 rs2 => exact RoundTrip.vsb rs1 rs2 | vamo op rs1 => exact RoundTrip.vamo op rs1
  | vadd a => exact RoundTrip.vadd a | vsub a => exact RoundTrip.vsub a | vmul a => exact RoundTrip.vmul a
  | vmulh a => exact RoundTrip.vmulh a | vdiv a => exact RoundTrip.vdiv a | vrem a => exact RoundTrip.vrem a
  | vmin a => exact RoundTrip.vmin a | vmax a => exact RoundTrip.vmax a | vand a => exact RoundTrip.vand a
  | vor a => exact RoundTrip.vor a | vxor a => exact RoundTrip.vxor a | vsll a => exact RoundTrip.vsll a
  | vsrl a => exact RoundTrip.vsrl a | vsra a => exact RoundTrip.vsra a | vfadd a => exact RoundTrip.vfadd a
  | vfsub a => exact RoundTrip.vfsub a | vfmul a => exact RoundTrip.vfmul a | vfdiv a => exact RoundTrip.vfdiv a
  | vfma a => exact RoundTrip.vfma a | vfms a => exact RoundTrip.vfms a | vfnma a => exact RoundTrip.vfnma a
  | vfsqrt a => exact RoundTrip.vfsqrt a | vfmin a => exact RoundTrip.vfmin a | vfmax a => exact RoundTrip.vfmax a
  | vfcvt a => exact RoundTrip.vfcvt a | vwma a => exact RoundTrip.vwma a | vwait a => exact RoundTrip.vwait a
  | pmov fd fs1 => exact RoundTrip.pmov fd fs1 | pzero fd => exact RoundTrip.pzero fd | padd a => exact RoundTrip.padd a
  | psub a => exact RoundTrip.psub a | pmul mode a => exact RoundTrip.pmul mode a
  | pdiff dir fd fs1 => exact RoundTrip.pdiff dir fd fs1 | pproj fd fs1 q => exact RoundTrip.pproj fd fs1 q
  | ptrace fd fs1 face => exact RoundTrip.ptrace fd fs1 face | pscl a => exact RoundTrip.pscl a | paxpy a => exact RoundTrip.paxpy a
  | pint a => exact RoundTrip.pint a | peval a => exact RoundTrip.peval a | pjump a => exact RoundTrip.pjump a
  | pavg a => exact RoundTrip.pavg a | ppop fd xs => exact RoundTrip.ppop fd xs | ppush fs1 xs => exact RoundTrip.ppush fs1 xs
  | pset fd xs => exact RoundTrip.pset fd xs | psetDg fd xs => exact RoundTrip.psetDg fd xs
  | pget rd fs1 => exact RoundTrip.pget rd fs1 | pgetDg rd fs1 => exact RoundTrip.pgetDg rd fs1 | vcmp a => exact RoundTrip.vcmp a
  | vfcmp a => exact RoundTrip.vfcmp a | vmerge a => exact RoundTrip.vmerge a | vmv a => exact RoundTrip.vmv a
  | vslideup a => exact RoundTrip.vslideup a | vslidedn a => exact RoundTrip.vslidedn a | vperm a => exact RoundTrip.vperm a
  | vcompress a => exact RoundTrip.vcompress a | vexpand a => exact RoundTrip.vexpand a | viota a => exact RoundTrip.viota a
  | vpruneN4M8 a => exact RoundTrip.vpruneN4M8 a | vredsum a => exact RoundTrip.vredsum a | vredmin a => exact RoundTrip.vredmin a
  | vredmax a => exact RoundTrip.vredmax a | vscan a => exact RoundTrip.vscan a | vfredsum a => exact RoundTrip.vfredsum a
  | vfredmin a => exact RoundTrip.vfredmin a | vfredmax a => exact RoundTrip.vfredmax a | vfscan a => exact RoundTrip.vfscan a
  | vmand a => exact RoundTrip.vmand a | vmor a => exact RoundTrip.vmor a | vmxor a => exact RoundTrip.vmxor a
  | vmandn a => exact RoundTrip.vmandn a | vmnot md ms => exact RoundTrip.vmnot md ms | vpopc a => exact RoundTrip.vpopc a
  | vfirst a => exact RoundTrip.vfirst a | vbrkb a => exact RoundTrip.vbrkb a | vbrka a => exact RoundTrip.vbrka a
  | vbmand a => exact RoundTrip.vbmand a | vbprefix a => exact RoundTrip.vbprefix a | visect a => exact RoundTrip.visect a
  | vhacc a => exact RoundTrip.vhacc a | vpruneN1M4 a => exact RoundTrip.vpruneN1M4 a | vpruneN2M4 a => exact RoundTrip.vpruneN2M4 a
  | vpruneN1M8 a => exact RoundTrip.vpruneN1M8 a | vpruneN2M8 a => exact RoundTrip.vpruneN2M8 a
  | hAddi rd imm => exact RoundTrip.hAddi rd imm | hSeti rd imm => exact RoundTrip.hSeti rd imm
  | hCopy rd xs => exact RoundTrip.hCopy rd xs | hAdd rd xs => exact RoundTrip.hAdd rd xs | hBz rs1 off => exact RoundTrip.hBz rs1 off
  | hBnz rs1 off => exact RoundTrip.hBnz rs1 off | mldb a => exact RoundTrip.mldb a | mldbP a => exact RoundTrip.mldbP a
  | mma a => exact RoundTrip.mma a | mzero acc fmt => exact RoundTrip.mzero acc fmt | mst a => exact RoundTrip.mst a
  | mldacc a => exact RoundTrip.mldacc a | ecopy rd xs1 => exact RoundTrip.ecopy rd xs1
  | equant rd xs1 => exact RoundTrip.equant rd xs1 | epack rd xs1 => exact RoundTrip.epack rd xs1
  | eunpack rd xs1 => exact RoundTrip.eunpack rd xs1 | eseq rd => exact RoundTrip.eseq rd
  | evpop rd xs1 => exact RoundTrip.evpop rd xs1
  | _ => exact Bool.noConfusion hrest

/-! Bytes in the order of their addresses (R1). -/

@[simp] theorem leBytes_length (n x : Nat) : (leBytes n x).length = n := by
  induction n generalizing x with
  | zero => rfl
  | succ n ih => simp [leBytes, ih]

/-- The bytes of a number give back what of it fits in them. -/
theorem leNat_leBytes (n x : Nat) : leNat (leBytes n x) = x % 256 ^ n := by
  induction n generalizing x with
  | zero => simp [leBytes, leNat, Nat.mod_one]
  | succ n ih => rw [leBytes, leNat, ih, BitVec.toNat_ofNat, Nat.pow_succ' (m := 256) (n := n), Nat.mod_mul]

/-- The first of the bytes of a number are its low bytes. -/
theorem take_leBytes {k n : Nat} (x : Nat) (h : k ≤ n) : (leBytes n x).take k = leBytes k x := by
  induction k generalizing n x with
  | zero => simp [leBytes]
  | succ k ih =>
    obtain ⟨n, rfl⟩ : ∃ m, n = m + 1 := ⟨n - 1, by omega⟩
    simp only [leBytes, List.take_succ_cons, ih _ (Nat.le_of_succ_le_succ h)]

/-- The decoder takes a word of its own length from the front of any bytes, and decodes that word (R281). -/
theorem decodeBytes_leBytes {n w : Nat} (hn : 2 ≤ n) (h : OfLength n w) (rest : List Byte) :
    decodeBytes (leBytes n w ++ rest) = (decodeWord n w).map fun i => (i, n) := by
  obtain ⟨hfit, hlen⟩ := h
  have htake : ∀ k ≤ n, (leBytes n w ++ rest).take k = leBytes k w := fun k hk => by
    rw [List.take_append_of_le_length (by simpa using hk), take_leBytes w hk]
  have hlong : n ≤ (leBytes n w ++ rest).length := by simp
  simp only [decodeBytes, htake 2 hn, leNat_leBytes, hlen, htake n (Nat.le_refl n), Nat.mod_eq_of_lt hfit]
  rw [if_neg (by omega), if_neg (by omega)]

theorem encodeLength_mem (i : Instr) : encodeLength i ∈ [2, 4, 8] := by
  unfold encodeLength
  split <;> decide

/-- The bytes of a well-formed encoded instruction, followed by any bytes, decode to it and its length (R281 to R291). -/
theorem decodeBytes_encodeBytes {i : Instr} (he : i.isEncoded = true) (hw : i.wellFormed = true) (rest : List Byte) :
    decodeBytes (encodeBytes i ++ rest) = .ok (i, encodeLength i) := by
  have h2 : 2 ≤ encodeLength i := by
    have := encodeLength_mem i
    simp only [List.mem_cons, List.not_mem_nil, or_false] at this
    omega
  rw [encodeBytes, decodeBytes_leBytes h2 (encode_ofLength i he), roundTrip i he hw]
  rfl

/-- Well-formed instructions with the same bytes are the same. -/
theorem encodeBytes_inj {i j : Instr} (he : i.isEncoded = true) (hw : i.wellFormed = true) (je : j.isEncoded = true)
    (jw : j.wellFormed = true) (h : encodeBytes j = encodeBytes i) : j = i := by
  have hj := decodeBytes_encodeBytes je jw []
  rw [h, decodeBytes_encodeBytes he hw []] at hj
  injection hj with hj
  exact (congrArg Prod.fst hj).symm

/-- Settles O58: each instruction's word decodes back to it and says its own length, so that the decoder takes exactly its bytes from what
stands before it; equal bytes then decode to equal instructions. -/
theorem encodedBytesDecodeBack : Obligations.EncodedBytesDecodeBack := by
  unfold Obligations.EncodedBytesDecodeBack
  intro i he hw
  exact ⟨decodeBytes_encodeBytes he hw, leBytes_length _ _, encodeLength_mem i, fun j je jw h => encodeBytes_inj he hw je jw h⟩

end Sys2Proof.Laws
end

section
/-! SUPPORT. What a byte reads as after writes, that the schedule has no part in performing accesses, and the two ways of a store. -/

namespace Sys2Proof.Laws

open Sys2Proof.Machine

/-! The bytes of a number, in the order of their addresses (R1, R405). -/

theorem leBytes_getElem? {n x i : Nat} (h : i < n) : (leBytes n x)[i]? = some (BitVec.ofNat 8 (x / 256 ^ i)) := by
  induction n generalizing x i with
  | zero => omega
  | succ n ih =>
    cases i with
    | zero => simp [leBytes]
    | succ i => rw [leBytes, List.getElem?_cons_succ, ih (by omega), Nat.div_div_eq_div_mul, Nat.pow_succ']

/-- The low bytes of a register are its bits in groups of eight. -/
theorem lowBytes_eq_extract (n : Nat) (v : Word) : lowBytes n v = (List.range n).map fun i => v.extractLsb' (8 * i) 8 := by
  apply List.ext_getElem?
  intro i
  by_cases h : i < n
  · rw [lowBytes, leBytes_getElem? h, List.getElem?_map, List.getElem?_range h, Option.map_some]
    congr 1
    apply BitVec.eq_of_toNat_eq
    rw [BitVec.extractLsb'_toNat, BitVec.toNat_ofNat, Nat.shiftRight_eq_div_pow, Nat.pow_mul]
  · rw [List.getElem?_eq_none (by simpa [lowBytes] using h), List.getElem?_eq_none (by simpa using h)]

@[simp] theorem lowBytes_length (n : Nat) (v : Word) : (lowBytes n v).length = n := leBytes_length n _

/-- An address with an immediate added: the sum of both as signed numbers, in 64 bits (R285). -/
theorem add_sext {n : Nat} (x : Word) (imm : BitVec n) : x + sext imm = BitVec.ofInt 64 (x.toInt + imm.toInt) := by
  rw [BitVec.ofInt_add, BitVec.ofInt_toInt]
  rfl

/-! What a byte reads as after the write of one byte (R200, R214, R223). -/

/-- The bits of a wide word after some of them are put. -/
theorem putBits_getLsbD {n : Nat} (x : BitVec n) (lo w v t : Nat) (ht : t < n) :
    (putBits x lo w v).getLsbD t = if lo ≤ t ∧ t < lo + w then v.testBit (t - lo) else x.getLsbD t := by
  simp only [putBits, BitVec.getLsbD_or, BitVec.getLsbD_and, BitVec.getLsbD_not, BitVec.getLsbD_ofNat, ht, decide_true, Bool.true_and,
    Nat.testBit_mul_two_pow, Nat.testBit_two_pow_sub_one, Nat.testBit_mod_two_pow]
  by_cases h1 : lo ≤ t
  · by_cases h2 : t < lo + w
    · simp [h1, h2, (by omega : t - lo < w)]
    · have h3 : ¬ t - lo < w := by omega
      simp [h2, h3]
  · simp [h1]

/-- The byte put into a wide word. -/
theorem extract_putBits_same {n : Nat} (x : BitVec n) (lo : Nat) (b : Byte) (h : lo + 8 ≤ n) :
    (putBits x lo 8 b.toNat).extractLsb' lo 8 = b := by
  apply BitVec.eq_of_getLsbD_eq
  intro t ht
  rw [BitVec.getLsbD_extractLsb', putBits_getLsbD _ _ _ _ _ (by omega), if_pos (by omega), Nat.add_sub_cancel_left]
  simp [ht, BitVec.getLsbD]

/-- A byte of a wide word beside the one put. -/
theorem extract_putBits_other {n : Nat} (x : BitVec n) (lo lo' v : Nat) (h : lo' + 8 ≤ n) (hne : lo' + 8 ≤ lo ∨ lo + 8 ≤ lo') :
    (putBits x lo 8 v).extractLsb' lo' 8 = x.extractLsb' lo' 8 := by
  apply BitVec.eq_of_getLsbD_eq
  intro t ht
  rw [BitVec.getLsbD_extractLsb', BitVec.getLsbD_extractLsb', putBits_getLsbD _ _ _ _ _ (by omega), if_neg (by omega)]

/-- The bits of a power of two. -/
theorem getLsbD_ofNat_two_pow {n i j : Nat} (hj : j < n) : (BitVec.ofNat n (2 ^ i)).getLsbD j = decide (i = j) := by
  rw [BitVec.getLsbD_ofNat, Nat.testBit_two_pow]
  simp [hj]

theorem l2Line_place {s : State} {die line : Nat} {l : L2Line} (h : s.l2Line die line = some l) : l.die = die ∧ l.line = line := by
  have := List.find?_some h
  simpa using this

/-- The copy that a byte is put into, there already or new, is the die's copy of its line. -/
theorem l2Line_getD_place (s : State) (die line : Nat) :
    ((s.l2Line die line).getD ⟨die, line, false, 0, 0, 0⟩).die = die ∧
    ((s.l2Line die line).getD ⟨die, line, false, 0, 0, 0⟩).line = line := by
  cases h : s.l2Line die line with
  | none => simp
  | some l => simpa using l2Line_place h

/-- After a byte is put into the die's copy of its line, that copy stands first. -/
theorem l2Line_l2Put_same (s : State) (die key : Nat) (b : Byte) :
    let l := (s.l2Line die (lineOf key)).getD ⟨die, lineOf key, false, 0, 0, 0⟩
    (s.l2Put die key b).l2Line die (lineOf key) = some { l with
      data := putBits l.data (8 * (key % 64)) 8 b.toNat, dirty := l.dirty ||| BitVec.ofNat 64 (2 ^ (key % 64)) } := by
  exact List.find?_cons_of_pos (by simp only [l2Line_getD_place, beq_self_eq_true, Bool.and_self])

/-- The copies of other lines, and of other dies, stay. -/
theorem l2Line_l2Put_other (s : State) (die key : Nat) (b : Byte) {d line : Nat} (h : ¬ (d = die ∧ line = lineOf key)) :
    (s.l2Put die key b).l2Line d line = s.l2Line d line := by
  have hl := l2Line_getD_place s die (lineOf key)
  unfold State.l2Put
  simp only
  rw [State.l2Line, List.find?_cons_of_neg (by simp only [hl, Bool.and_eq_true, beq_iff_eq]; omega), List.find?_filter, State.l2Line]
  congr 1
  funext x
  by_cases hx : x.die = d ∧ x.line = line
  · have : ¬ (x.die = die ∧ x.line = lineOf key) := by omega
    simp only [hx.1, hx.2, beq_self_eq_true, Bool.and_true, Bool.not_eq_true', Bool.and_eq_false_iff, beq_eq_false_iff_ne]
    exact decide_eq_true ⟨Decidable.not_and_iff_or_not.mp h, trivial⟩
  · have : (x.die == d && x.line == line) = false := by simpa using hx
    simp [this]

/-- A byte put into the die's copy is there; every other byte of every copy is there as it was. -/
theorem l2Has_l2Put (s : State) (die key : Nat) (b : Byte) (d k : Nat) :
    (s.l2Put die key b).l2Has d k = if d = die ∧ k = key then some b else s.l2Has d k := by
  by_cases hline : d = die ∧ lineOf k = lineOf key
  · obtain ⟨rfl, hk⟩ := hline
    unfold State.l2Has
    rw [hk, l2Line_l2Put_same]
    simp only [BitVec.getLsbD_or, getLsbD_ofNat_two_pow (Nat.mod_lt k (by decide : 0 < 64)), true_and]
    by_cases hkey : k = key
    · subst hkey
      rw [if_pos rfl, extract_putBits_same _ _ _ (by omega)]
      simp
    · have hne : key % 64 ≠ k % 64 := by unfold lineOf at hk; omega
      rw [if_neg hkey, extract_putBits_other _ _ _ _ (by omega) (by omega)]
      cases h : s.l2Line d (lineOf key) with
      | none => simp [hne]
      | some l => simp [hne]
  · have hne : ¬ (d = die ∧ k = key) := fun h => hline ⟨h.1, by rw [h.2]⟩
    unfold State.l2Has
    rw [l2Line_l2Put_other _ _ _ _ hline, if_neg hne]

/-- Adds that are due let a byte be once it is written; they stand in the way of every other byte as before. -/
theorem dueByte_l2Write (s : State) (die key : Nat) (b : Byte) (d k : Nat) :
    (s.l2Write die key b).dueByte d k = if d = die ∧ k = key then false else s.dueByte d k := by
  have hmap : (s.l2Write die key b).dueByte d k = s.det.due.any fun x => (x.wrote die key).die == d && (x.wrote die key).key == k / 8 * 8 &&
      !(x.wrote die key).newer.getLsbD (k % 8) := by
    unfold State.l2Write State.l2Put State.dueByte
    rw [List.any_map]
    rfl
  rw [hmap]
  split
  · rename_i h
    obtain ⟨rfl, rfl⟩ := h
    simp only [List.any_eq_false]
    intro x _
    unfold DueAdds.wrote
    split
    · simp [Nat.mod_lt]
    · rename_i hx; simp; omega
  · rename_i h
    unfold State.dueByte
    congr 1
    funext x
    unfold DueAdds.wrote
    split
    · rename_i hx
      by_cases hk : x.die = d ∧ x.key = k / 8 * 8
      · have : key % 8 ≠ k % 8 := by omega
        simp [this]
      · have : (x.die == d && x.key == k / 8 * 8) = false := by simpa using hk
        simp [this]
    · rfl

/-- The write of a byte of a far line is read back on its die, and changes no other byte. -/
theorem byteAt_l2Write (s : State) (die key : Nat) (b : Byte) (hf : isFar key = true) (d k : Nat) :
    (s.l2Write die key b).byteAt d k = if d = die ∧ k = key then some b else s.byteAt d k := by
  have hhas : (s.l2Write die key b).l2Has d k = if d = die ∧ k = key then some b else s.l2Has d k := l2Has_l2Put _ _ _ _ _ _
  unfold State.byteAt
  by_cases hk : isFar k = true
  · rw [if_pos hk, if_pos hk, State.l2Byte, dueByte_l2Write, hhas, State.l2Byte]
    split
    · simp
    · rfl
  · have hne : ¬ (d = die ∧ k = key) := fun h => hk (h.2 ▸ hf)
    rw [if_neg hk, if_neg hk, if_neg hne]
    rfl

/-- The write of a byte of this package is read back on every die, and changes no other byte. -/
theorem byteAt_memSet (s : State) (key : Nat) (b : Byte) (hf : isFar key = false) (d k : Nat) :
    ({ s with mem := s.mem.set key b } : State).byteAt d k = if k = key then some b else s.byteAt d k := by
  unfold State.byteAt
  by_cases hk : isFar k = true
  · have hne : k ≠ key := fun h => by rw [h, hf] at hk; exact absurd hk (by decide)
    rw [if_pos hk, if_pos hk, if_neg hne]
    rfl
  · rw [if_neg hk, if_neg hk, get_set]
    split <;> rfl

/-- Consecutive bytes performed from a key: an agent reads each at its key, of a far line on that die alone, and every other byte as
before. -/
theorem byteAt_perform_atKeys (bs : List Byte) (s : State) (die a d k : Nat) :
    (s.perform die (atKeys a bs)).byteAt d k =
      if a ≤ k ∧ k < a + bs.length ∧ (isFar k = true → d = die) then bs[k - a]? else s.byteAt d k := by
  induction bs generalizing s a with
  | nil => rw [if_neg (by simp only [List.length_nil]; omega)]; rfl
  | cons b bs ih =>
    have hone : (if isFar a then s.l2Write die a b else { s with mem := s.mem.set a b }).byteAt d k =
        if k = a ∧ (isFar k = true → d = die) then some b else s.byteAt d k := by
      cases hf : isFar a with
      | true =>
        rw [if_pos rfl, byteAt_l2Write _ _ _ _ hf]
        exact ite_congr (propext ⟨fun h => ⟨h.2, fun _ => h.1⟩, fun h => ⟨h.2 (h.1 ▸ hf), h.1⟩⟩) (fun _ => rfl) (fun _ => rfl)
      | false =>
        rw [if_neg (by decide), byteAt_memSet _ _ _ hf]
        refine ite_congr (propext ⟨fun h => ⟨h, fun hk => ?_⟩, And.left⟩) (fun _ => rfl) (fun _ => rfl)
        rw [h, hf] at hk
        exact absurd hk (by decide)
    rw [atKeys, State.perform, ih, hone, List.length_cons]
    by_cases hdie : isFar k = true → d = die
    · by_cases hk : k = a
      · subst hk
        rw [if_neg (by omega), if_pos ⟨rfl, hdie⟩, if_pos ⟨Nat.le_refl k, by omega, hdie⟩]
        simp
      · by_cases hin : a + 1 ≤ k ∧ k < a + 1 + bs.length
        · rw [if_pos ⟨hin.1, hin.2, hdie⟩, if_pos ⟨by omega, by omega, hdie⟩, show k - a = k - (a + 1) + 1 by omega,
            List.getElem?_cons_succ]
        · rw [if_neg (by omega), if_neg (by omega), if_neg (by omega)]
    · simp only [hdie, and_false, if_false]

/-- Writes of this package's own bytes leave the detector alone. -/
theorem perform_det_of_near (bs : List (Nat × Byte)) (s : State) (die : Nat) (h : ∀ c ∈ bs, isFar c.1 = false) :
    (s.perform die bs).det = s.det := by
  induction bs generalizing s with
  | nil => rfl
  | cons c bs ih =>
    obtain ⟨k, b⟩ := c
    have hk : isFar k = false := h (k, b) (by simp)
    rw [State.perform, ih _ fun c hc => h c (by simp [hc]), hk]
    rfl

theorem isFar_of_le {a b : Nat} (h : a ≤ b) (hb : isFar b = false) : isFar a = false := by
  simp only [isFar, decide_eq_false_iff_not] at *
  omega

/-! The schedule of the memory system has no part in performing accesses. -/

theorem perform_delays (bs : List (Nat × Byte)) (s : State) (die : Nat) (ds : List Bool) :
    ({ s with delays := ds } : State).perform die bs = { s.perform die bs with delays := ds } := by
  induction bs generalizing s with
  | nil => rfl
  | cons c bs ih =>
    obtain ⟨k, b⟩ := c
    simp only [State.perform]
    rw [← ih]
    split <;> rfl

theorem performHalf_delays (l : List (Nat × Bool × Byte)) (s : State) (die : Nat) (ds : List Bool) :
    ({ s with delays := ds } : State).performHalf die l = { s.performHalf die l with delays := ds } := by
  induction l generalizing s with
  | nil => rfl
  | cons c l ih =>
    obtain ⟨k, hi, v⟩ := c
    simp only [State.performHalf]
    rw [← ih, ← perform_delays]
    rfl

theorem tagWords_delays (ws : List Nat) (s : State) (i : StrandId) (ds : List Bool) :
    ({ s with delays := ds } : State).tagWords i ws = ((s.tagWords i ws).1, { (s.tagWords i ws).2 with delays := ds }) := by
  induction ws generalizing s with
  | nil => rfl
  | cons w ws ih =>
    simp only [State.tagWords]
    split
    · rw [ih]
    · rename_i f _
      exact congrArg (fun r : List Nat × State => (if (f.meets i.detid w).1 then w :: r.1 else r.1, r.2)) (ih { s with det := { s.det with
        fallback := (f.meets i.detid w).2 ::
          (s.det.fallback.filter fun g => !(g.line == (f.meets i.detid w).2.line && g.die == (f.meets i.detid w).2.die)) } })

theorem tagged_delays (s : State) (i : StrandId) (b : List (Nat × Byte)) (h : List (Nat × Bool × Byte)) (ds : List Bool) :
    ({ s with delays := ds } : State).tagged i b h = ((s.tagged i b h).1, { (s.tagged i b h).2 with delays := ds }) := by
  have hdet : ({ s with delays := ds } : State).isDet i.lid = s.isDet i.lid := rfl
  unfold State.tagged
  simp only [hdet, tagWords_delays]
  split <;> rfl

theorem performStore_delays (s : State) (i : StrandId) (b : List (Nat × Byte)) (h : List (Nat × Bool × Byte)) (ds : List Bool) :
    ({ s with delays := ds } : State).performStore i b h = { s.performStore i b h with delays := ds } := by
  unfold State.performStore
  simp only [tagged_delays, perform_delays, performHalf_delays]

theorem performAtom_delays (s : State) (die : Nat) (p : PendAtom) (ds : List Bool) :
    ({ s with delays := ds } : State).performAtom die p = { s.performAtom die p with delays := ds } := by
  have hnow : ({ s with delays := ds } : State).atomNow p = s.atomNow p := rfl
  unfold State.performAtom
  rw [hnow]
  split
  · exact perform_delays _ _ _ _
  · rfl

theorem performWrites_delays (s : State) (i : StrandId) (a : Access) (ds : List Bool) :
    ({ s with delays := ds } : State).performWrites i a = { s.performWrites i a with delays := ds } := by
  unfold State.performWrites
  simp only [performStore_delays]
  split
  · exact performAtom_delays _ _ _ _
  · rfl

theorem bytesAt_delays (s : State) (die key n : Nat) (ds : List Bool) :
    ({ s with delays := ds } : State).bytesAt die key n = s.bytesAt die key n := by
  induction n generalizing key with
  | zero => rfl
  | succ n ih => rw [State.bytesAt, State.bytesAt, ih]; rfl

theorem landAll_delays (l : List PendLoad) (s : State) (ds : List Bool) :
    ({ s with delays := ds } : State).landAll l = { s.landAll l with delays := ds } := by
  induction l generalizing s with
  | nil => rfl
  | cons x l ih =>
    simp only [State.landAll, bytesAt_delays]
    rw [← ih]

theorem flagSide_delays (s : State) (side : Side) (fl : Flags) (ds : List Bool) :
    ({ s with delays := ds } : State).flagSide side fl = { s.flagSide side fl with delays := ds } := by
  unfold State.flagSide
  cases side <;> rfl

theorem performOne_delays (s : State) (a : Access) (ds : List Bool) :
    ({ s with delays := ds } : State).performOne a = { s.performOne a with delays := ds } := by
  unfold State.performOne
  split
  · rw [performWrites_delays, landAll_delays]
  · rw [landAll_delays, performAtom_delays, flagSide_delays]
    rfl

theorem performAll_delays (l : List Access) (s : State) (ds : List Bool) :
    l.foldl State.performOne { s with delays := ds } = { l.foldl State.performOne s with delays := ds } := by
  induction l generalizing s with
  | nil => rfl
  | cons x l ih => rw [List.foldl_cons, List.foldl_cons, performOne_delays, ih]

theorem drain_delays (s : State) (p : Access → Bool) (ds : List Bool) :
    ({ s with delays := ds } : State).drain p = { s.drain p with delays := ds } := by
  unfold State.drain
  simp only [performAll_delays]
  split <;> rfl

/-! What stays waiting behind a drain (R203, R207). -/

/-- What is not chosen does not satisfy the choice. -/
theorem splitAccesses_rest {p : Access → Bool} {l : List Access} {x : Access} (h : x ∈ (splitAccesses p l).2) : p x = false := by
  induction l with
  | nil => simp [splitAccesses] at h
  | cons a l ih =>
    simp only [splitAccesses] at h
    split at h
    · exact ih h
    · rename_i hc
      rcases List.mem_cons.mp h with rfl | h
      · simp only [Bool.or_eq_true, not_or, Bool.not_eq_true] at hc; exact hc.1
      · exact ih h

/-- No access that was to be performed waits after a drain. -/
theorem drain_stores_rest {s : State} {p : Access → Bool} {x : Access} (h : x ∈ (s.drain p).strand.stores) : p x = false := by
  rw [drain_eq] at h
  exact splitAccesses_rest h

/-- What does not come before a release is the partner's, and no pop has ordered it (R61, R207). -/
theorem not_precedes_release {x y : Access} (hr : y.rel = true) (h : x.precedes y = false) : x.side ≠ y.side ∧ y.after ≤ x.num := by
  simp only [Access.precedes, Bool.or_eq_false_iff] at h
  obtain ⟨-, h⟩ := h
  by_cases hs : x.side = y.side
  · simp [hs, hr] at h
  · have hne : (x.side == y.side) = false := by simpa using hs
    rw [hne] at h
    simp only [Bool.false_eq_true, if_false, Bool.or_eq_false_iff, decide_eq_false_iff_not] at h
    exact ⟨hs, by omega⟩

/-! A store outside DET launches (R200, R219). -/

theorem detect_notDet {s : State} {i : StrandId} (key : Nat) (kinds : List Nat) (h : s.isDet i.lid = false) :
    s.detect i key kinds = .ok s := by
  unfold State.detect
  simp [h]

/-- The writes of a plain store are its bytes. -/
theorem performWrites_bytes {s : State} {i : StrandId} {x : Access} (hd : s.isDet i.lid = false) (hh : x.half = []) (ha : x.atom = none) :
    s.performWrites i x = s.perform (i.cluster / 40) x.bytes := by
  simp only [State.performWrites, State.performStore, ha, hh, tagged_notDet i x.bytes [] hd, State.performHalf]

/-- The translation that an access used is kept, and nothing else changes. -/
theorem used_eq (s : State) (sp : Space) (a : Word) : s.used sp a = { s with tlb := (s.used sp a).tlb } := by
  unfold State.used State.remember
  split
  · split
    · rfl
    · split <;> rfl
  · rfl

/-- The same strand and the same launches: DET or not as before. -/
theorem isDet_congr {s t : State} (hi : t.strand.id = s.strand.id) (hl : t.launches = s.launches) :
    t.isDet t.strand.id.lid = s.isDet s.strand.id.lid := by
  unfold State.isDet State.launchOf
  rw [hi, hl]

/-! The two ways of a store: performed at once, or waiting (R203). -/

theorem wrote_advance (s : State) : Wrote s (s.advance 4) 0 0 (s.pc + 4) s.cur.fcsr := wrote_goto s 0 0 _

/-- Performing consecutive bytes and going on stores them, whatever the schedule. -/
theorem stored_perform (u : State) (key : Nat) (bs : List Byte) (ds : List Bool) :
    Stored u ((({ u with delays := ds } : State).perform u.strand.die (atKeys key bs)).advance 4) key bs 0 0 4 u.cur.fcsr := by
  rw [perform_delays]
  generalize hp : u.perform u.strand.die (atKeys key bs) = p
  have hu : p = { u with mem := p.mem, l2 := p.l2, det := { u.det with due := p.det.due } } := hp ▸ perform_eq _ _ _
  have ht : ({ p with delays := ds } : State).advance 4 =
      { u.advance 4 with mem := p.mem, l2 := p.l2, det := { u.det with due := p.det.due }, delays := ds } := by
    rw [hu]
    unfold State.advance State.goto State.setCur
    split <;> rfl
  have hb : ∀ die k, (({ p with delays := ds } : State).advance 4).byteAt die k = p.byteAt die k := fun die k => by
    rw [ht]; rfl
  have hw := wrote_advance u
  exact {
    bytes := fun i hi => by
      rw [hb, ← hp, byteAt_perform_atKeys, if_pos ⟨by omega, by omega, fun _ => rfl⟩, Nat.add_sub_cancel_left]
    memory := fun die k hk => by
      rw [hb, ← hp, byteAt_perform_atKeys, if_neg (by omega)]
    regs := ht ▸ ⟨hw.regs.own, hw.regs.other⟩
    strand := by
      obtain ⟨h1, h2, h3, h4, h5, h6, h7, h8, h9⟩ := hw.strand
      exact ht ▸ ⟨h1, h2, h3, h4, h5, h6, h7, h8, h9⟩
    stores := by rw [ht]; exact hw.stores
    rest := by rw [ht]; constructor <;> simp
    due := fun h => by
      rw [advance_det, ← hp]
      exact perform_det_of_near _ _ _ fun c hc => isFar_of_le (Nat.le_of_lt (mem_atKeys hc).2) h }

/-- An access that joins its FIFO, after its translation is kept, waits there; the slice goes on. -/
theorem waits_issue {s u : State} (x : Access) (hst : u.strand = s.strand) (hside : u.side = s.side) (hd : u.delays = s.delays) :
    Waits s u ((({ u with delays := u.delays.tail } : State).issue x).advance 4) x := by
  have hput : putAccess u ((({ u with delays := u.delays.tail } : State).issue x).advance 4) = u.advance 4 := by
    cases hs : u.side <;> simp [State.advance, State.goto, State.setCur, State.pc, State.cur, State.issue, putAccess, hs]
  have hcur : s.cur = u.cur := by unfold State.cur; rw [hst, hside]
  refine ⟨by simp [State.issue, hst], by simp [State.issue, hst], by simp [State.issue, hd], ?_⟩
  rw [hput, State.pc, hcur]
  exact wrote_advance u

/-- A store that the schedule has performed now is performed behind what comes before it, for which its bytes do not matter. -/
theorem launchWrite_stored {v : State} {y : Access} {key : Nat} {bs : List Byte} (hh : y.half = []) (ha : y.atom = none)
    (hd : v.isDet v.strand.id.lid = false) (hn : v.delays.headD false = false) :
    Stored (v.ahead y) ((v.launchWrite { y with bytes := atKeys key bs }).advance 4) key bs 0 0 4 (v.ahead y).cur.fcsr := by
  have he := drain_eq v fun a => a.precedes y
  have hid : (v.ahead y).strand.id = v.strand.id := by unfold State.ahead; rw [he]
  have hl : (v.ahead y).launches = v.launches := by unfold State.ahead; rw [he]
  have hdet : ({ v.ahead y with delays := v.delays.tail } : State).isDet (v.ahead y).strand.id.lid = false :=
    (isDet_congr (t := { v.ahead y with delays := v.delays.tail }) hid hl).trans hd
  rcases launchWrite_cases v { y with bytes := atKeys key bs } with ⟨hc, -⟩ | ⟨-, e⟩
  · rw [hn] at hc; exact absurd hc (by decide)
  · have hah : ({ v with delays := v.delays.tail } : State).ahead { y with bytes := atKeys key bs } =
        { v.ahead y with delays := v.delays.tail } := drain_delays _ _ _
    rw [e, hah, ← hid, performWrites_bytes (x := { y with bytes := atKeys key bs }) hdet hh ha]
    exact stored_perform _ _ _ _

/-- A store that the schedule has wait joins its FIFO. -/
theorem launchWrite_waits {s u : State} (x : Access) (hst : u.strand = s.strand) (hside : u.side = s.side) (hd : u.delays = s.delays)
    (hn : s.delays.headD false = true) : Waits s u ((u.launchWrite x).advance 4) x := by
  rcases launchWrite_cases u x with ⟨-, e⟩ | ⟨hc, -⟩
  · rw [e]; exact waits_issue x hst hside hd
  · rw [hd, hn] at hc; exact absurd hc (by decide)

end Sys2Proof.Laws
end

section
/-! PROOF. O14: what ST and ST.REL do once their checks pass. -/

namespace Sys2Proof.Laws

open Sys2Proof.Machine

/-! ST (R403 to R405). -/

/-- A store that passes its checks, outside DET launches, is one new access of its slice. -/
theorem execSt_passes {s : State} {a : SArgs} {key : Nat} (hd : s.isDet s.strand.id.lid = false)
    (hc : s.storeCheck (stBytes a.size) a.space (s.x a.rs1 + sext a.imm) = .ok key) :
    execSt a s = .next (((s.used a.space (s.x a.rs1 + sext a.imm)).launchWrite
      { scalarOf s key (stBytes a.size) .w false .none with bytes := atKeys key (lowBytes (stBytes a.size) (s.x a.rs2)) }).advance 4) := by
  unfold execSt
  simp only [hc]
  generalize hu : s.used a.space (s.x a.rs1 + sext a.imm) = u
  have he : u = { s with tlb := u.tlb } := hu ▸ used_eq _ _ _
  have hdu : u.isDet u.strand.id.lid = false := by rw [he]; exact hd
  rw [State.storeBytes, detect_notDet _ _ hdu]
  simp only [lowBytes_length]
  rw [he]
  rfl

/-! ST.REL (R207, R403 to R405). -/

/-- With nothing far to write back a release at SYSTEM scope goes on at once. -/
theorem systemRelease_nothingFar {v : State} (a : Word) (k : State → Out) (h : NothingFar v) : v.systemRelease a k = k v := by
  obtain ⟨hl2, hreply, hreq, hback, hdue⟩ := h
  have hclear : v.backAll (.slice v.strand.key v.side) = .clear v := by
    simp [State.backAll, hdue, hback, State.dirtyLines, hl2]
  simp [State.systemRelease, hreply, hreq, hclear]

/-- The state in which a release at a scope begins its own write: at SYSTEM scope the earlier accesses are performed (log 11). -/
def releaseBase (s : State) (sc : Scope) : State := if sc = .system then s.settleOwn else s

/-- A release that has nothing to wait for goes on from there. -/
theorem releaseAt_goes {s : State} {sc : Scope} (a : Word) (k : State → Out) (hq : s.side = .compute → s.strand.q.memoryWaits = false)
    (hn : sc = .system → NothingFar (releaseBase s sc)) : s.releaseAt sc a k = k (releaseBase s sc) := by
  have hq' : (decide (s.side = .compute) && s.strand.q.memoryWaits) = false := by
    by_cases h : s.side = .compute
    · simp [hq h]
    · simp [h]
  unfold State.releaseAt
  rw [hq', if_neg (by decide)]
  unfold releaseBase at *
  split
  · rename_i h
    rw [if_pos h] at hn
    exact systemRelease_nothingFar a k (hn h)
  · rfl

/-- What a release performs first leaves the slice, its launches and the schedule, and what the release's own access is ordered by: its side,
its number and the mark of the slice's pops. -/
theorem releaseBase_keeps (s : State) (sc : Scope) (key n : Nat) (kind : FenceKind) (rel : Bool) (acq : Acquires) :
    (releaseBase s sc).side = s.side ∧ (releaseBase s sc).strand.id = s.strand.id ∧ (releaseBase s sc).launches = s.launches ∧
    (releaseBase s sc).delays = s.delays ∧
    scalarOf (releaseBase s sc) key n kind rel acq = scalarOf s key n kind rel acq := by
  unfold releaseBase
  split
  · unfold State.settleOwn
    rw [drain_eq]
    refine ⟨rfl, rfl, rfl, rfl, ?_⟩
    unfold scalarOf State.cur
    cases s.side <;> rfl
  · exact ⟨rfl, rfl, rfl, rfl, rfl⟩

/-- The write of a release store that is not a far one at SYSTEM scope, outside DET launches, is one new access of its slice. -/
theorem releaseStore_here {v : State} {sc : Scope} {key : Nat} (a : Word) (bs : List Byte) (hd : v.isDet v.strand.id.lid = false)
    (hf : sc = .system → isFar key = false) :
    v.releaseStore sc a key bs =
      (v.launchWrite { scalarOf v key bs.length .w true .none with bytes := atKeys key bs }).advance 4 := by
  have hfar : (decide (sc = .system) && isFar key) = false := by
    by_cases h : sc = .system
    · simp [hf h]
    · simp [h]
  unfold State.releaseStore
  rw [detect_notDet _ _ hd]
  simp only [hfar]
  rfl

/-- A release store that passes its checks and has nothing to wait for is one new access of its slice, from where the release begins. -/
theorem execStRel_passes {s : State} {a : SRelArgs} {key : Nat} (hd : s.isDet s.strand.id.lid = false)
    (hc : s.storeCheck (stBytes a.size) a.space (s.x a.rs1) = .ok key) (hq : s.side = .compute → s.strand.q.memoryWaits = false)
    (hn : a.scope = .system → NothingFar (releaseBase (s.used a.space (s.x a.rs1)) a.scope) ∧ isFar key = false) :
    execStRel a s = .next (((releaseBase (s.used a.space (s.x a.rs1)) a.scope).launchWrite
      { scalarOf s key (stBytes a.size) .w true .none with bytes := atKeys key (lowBytes (stBytes a.size) (s.x a.rs2)) }).advance 4) := by
  unfold execStRel
  simp only [hc]
  have he := used_eq s a.space (s.x a.rs1)
  generalize s.used a.space (s.x a.rs1) = u at *
  have hqu : u.side = .compute → u.strand.q.memoryWaits = false := by rw [he]; exact hq
  rw [releaseAt_goes _ _ hqu fun h => (hn h).1]
  obtain ⟨-, hid, hl, -, hof⟩ := releaseBase_keeps u a.scope key (stBytes a.size) .w true .none
  have hdv : (releaseBase u a.scope).isDet (releaseBase u a.scope).strand.id.lid = false := by
    rw [isDet_congr hid hl, he]
    exact hd
  rw [releaseStore_here _ _ hdv fun h => (hn h).2, lowBytes_length, hof, he]
  rfl

/-- The access of a release store comes behind all that its slice has issued and its pops have ordered. -/
theorem ahead_release_stores {v s : State} {key n : Nat} {x : Access} (h : x ∈ (v.ahead (scalarOf s key n .w true .none)).strand.stores) :
    x.side ≠ s.side ∧ s.cur.popMark ≤ x.num :=
  not_precedes_release (y := scalarOf s key n .w true .none) rfl (drain_stores_rest (p := fun a => a.precedes _) h)

/-- Settles O14: a store is one new access of its slice, and the schedule says which of its two ways it goes; a release store goes them from
the state in which its release begins. -/
theorem storesWriteTheirBytes : Obligations.StoresWriteTheirBytes := by
  unfold Obligations.StoresWriteTheirBytes
  intro s key hd
  refine ⟨fun a => ?_, fun a => ?_⟩
  · intro addr n bs hc
    have haddr : s.x a.rs1 + sext a.imm = addr := add_sext _ _
    have hx := execSt_passes hd (haddr ▸ hc)
    have he := used_eq s a.space addr
    rw [haddr, lowBytes_eq_extract] at hx
    have hdu : (s.used a.space addr).isDet (s.used a.space addr).strand.id.lid = false := by rw [he]; exact hd
    have hdel : (s.used a.space addr).delays = s.delays := by rw [he]
    refine ⟨fun hn => ⟨_, hx, ?_⟩, fun hn => ⟨_, hx, ?_⟩⟩
    · exact launchWrite_stored rfl rfl hdu (hdel ▸ hn)
    · exact launchWrite_waits _ (by rw [he]) (by rw [he]) hdel hn
  · intro addr n bs v u hc hq hn
    have hx := execStRel_passes hd hc hq hn
    rw [lowBytes_eq_extract] at hx
    have he := used_eq s a.space addr
    obtain ⟨-, hid, hl, hdel, -⟩ := releaseBase_keeps (s.used a.space addr) a.scope key n .w true .none
    have hdv : v.isDet v.strand.id.lid = false := (isDet_congr hid hl).trans (by rw [he]; exact hd)
    have hdels : v.delays = s.delays := hdel.trans (by rw [he])
    refine ⟨fun x => ahead_release_stores, fun hw => ⟨_, hx, ?_⟩, fun hw => ⟨_, hx, ?_⟩⟩
    · exact launchWrite_stored rfl rfl hdv (hdels ▸ hw)
    · exact launchWrite_waits _ rfl rfl rfl (hdels ▸ hw)

end Sys2Proof.Laws
end
